-- ==== Sys2Proof/Word.lean ====
section
/-!
DEFINITION. The words of the machine and the vocabulary of the commands' operands: units, register numbers, formats,
message headers. `Syntax.lean` holds the commands themselves.
-/
namespace Sys2Proof

abbrev Word := BitVec 32
abbrev Byte := BitVec 8

/-- A 32-bit word with its poison tag (R123, R141). -/
structure PWord where
  val : Word
  poison : Bool
  deriving DecidableEq, Repr

/-- The clean zero word (R141). -/
def PWord.zero : PWord := ⟨0, false⟩

/-- A cluster: compute die `CDn` and cluster number `K` (R113). -/
structure ClusterId where
  die : Fin 16
  k : Fin 96
  deriving DecidableEq, Repr

/-- 96n + K, the number that RESET_CLUSTER and DBG_STEP use (R398, R461). -/
def ClusterId.num (c : ClusterId) : Nat := 96 * c.die.val + c.k.val

/-- A strand of a cluster. -/
structure StrandId where
  cl : ClusterId
  st : Fin 2
  deriving DecidableEq, Repr

/-- (96n + K) · 2 + strand (Table PK-9, DBG_STEP). -/
def StrandId.num (u : StrandId) : Nat := 2 * u.cl.num + u.st.val

/-- A physical array of a cluster (R113). -/
structure ArrayId where
  cl : ClusterId
  a : Fin 34
  deriving DecidableEq, Repr

/-- 34K + A, the number of ARRAY_SEL (R60). -/
def ArrayId.sel (x : ArrayId) : Nat := 34 * x.cl.k.val + x.a.val

/-- The array's number in the module. -/
def ArrayId.num (x : ArrayId) : Nat := 3264 * x.cl.die.val + x.sel

/-- What the fetch of an instruction word finds (R146). -/
inductive FetchResult where | clean | refetched | failed
  deriving DecidableEq, Repr

/-- What the circuit meets while one instruction issues: the fetch (R146), SRAM words that a load finds with bad
parity and whether the re-read is clean (R123), lanes whose residue check fails (R134), bank conflicts (R122),
refused resources of strand 1 (R115), clocks waited on the scoreboard (R166), and the clock of the tick. -/
structure Phys where
  fetch : FetchResult
  parity : List (Nat × Bool)
  residue : List Nat
  conflicts : Nat
  deferrals : Nat
  stalls : Nat
  clk : Fin 8
  deriving DecidableEq, Repr

/-- The issue of one instruction on a strand. -/
structure Issue where
  u : StrandId
  ph : Phys
  deriving DecidableEq, Repr

abbrev Reg := Fin 32
abbrev PReg := Fin 8

/-- FMT codes of Table IS-4; the second component of the narrow formats names the half or byte pair. -/
inductive VFmt where
  | fp32
  | bf16 (hi : Bool)
  | fp16 (hi : Bool)
  | e4m3 (hi : Bool)
  | e5m2 (hi : Bool)
  | int8 (hi : Bool)
  | int32
  deriving DecidableEq, Repr

/-- The operand fields of a V-format instruction (Table IS-3). -/
structure VOps where
  vd : Reg
  va : Reg
  vb : Reg
  pr : PReg
  fmt : VFmt
  deriving DecidableEq, Repr

/-- DST of a quantise instruction (R152). -/
inductive QDst where | sram | input0 | input1
  deriving DecidableEq, Repr

/-- MODE of a quantise instruction (R91, R152). -/
inductive QMode where | block | group | static
  deriving DecidableEq, Repr

/-- The operand fields of an ARR instruction (R154); `ctx`: the context to which the schedule assigns the read (R26, R97). -/
structure ArrOps where
  slot : Reg
  ib : Fin 2
  rb : Fin 2
  ext : Fin 32
  fp32 : Bool
  lc : Bool
  ms : Bool
  sm : Reg
  ctx : Nat
  deriving DecidableEq, Repr

/-- Where a word of a flit that is replayed stands (R182): in a message in flight, or in flit `flit` of the message due at input `src` of
merge point `point` of a group. -/
inductive ReplayOf where
  | none
  | message (k : Nat)
  | part (job rgid point src flit : Nat)
  deriving DecidableEq, Repr

/-- What a replay comes to (R182, R184): the words that fail again, the flits that the retry buffer resends, and whether the segment fails
persistently. -/
structure Again where
  bad : List Nat
  resent : Fin 257
  persists : Bool
  deriving DecidableEq, Repr

/-- Where HB sends a floor (R96): a strand here, or rank `r` of job `j` on another module. -/
inductive FloorTo where
  | here (v : StrandId)
  | far (j r : Nat)
  deriving DecidableEq, Repr

/-- The times of a HOLD record in short form (R216): its start, its end E (0 while the span is open) and the new HOLD_OFFSET. -/
structure HoldTimes where
  start : Word
  fin : Word
  off : Word
  deriving DecidableEq, Repr

/-- The reply of a module to an enable query (R355): stepping, VERSION of its three latency tables, measurement of its
image, SYNC_STATE, CRC-32 of its slice record, result of its own check (0000h passed) with the state that WRONG_STATE refuses in, and the
largest delay of its ports inside the block in picoseconds. -/
structure EnableReply where
  stepping : Nat
  vers : List Nat
  measure : Nat
  sync : Nat
  crc : Nat
  code : Nat
  st : Nat
  delay : Nat
  deriving DecidableEq, Repr

/-- A flit on a fabric link (R348): 64 data bytes and the 16-byte trailer of Table FB-2 as a number. -/
structure FabFlit where
  data : List Byte
  trailer : BitVec 128
  deriving DecidableEq, Repr

/-- A flit that came with a CRC error, the one that was resent for it, and whether it is the head of its message (R349). -/
structure Resent where
  first : FabFlit
  again : FabFlit
  head : Bool
  deriving DecidableEq, Repr

/-- What a copy read serves (R289, R305): a row of a transit, or a peer copy of the block for the version `ver` on module
`dst`; `last`: the copy of that module ends with this block. -/
inductive CopyUse where
  | transit
  | peer (dst : Nat) (ver : Word) (last : Bool)
  deriving DecidableEq, Repr

/-- What the source module of a peer copy answers to a commit (R288): state, tenant, VER_SEALED and cluster count of the source
version, and its block records. -/
structure PeerInfo where
  state : Nat
  tenant : Nat
  sealedVer : Bool
  ncl : Nat
  records : List (List Byte)
  deriving DecidableEq, Repr

/-- The header of a MBT message from the host (Table HP-2) with what the port finds: the address it came from (R321),
whether its tag passes (R324) and whether LEN fits the datagram (R325). -/
structure MbtHdr where
  session : BitVec 16
  flags : Byte
  txn : BitVec 64
  seq : Word
  cumAck : Word
  sack : Word
  credit : Word
  reason : BitVec 16
  ctx : BitVec 16
  reqId : BitVec 64
  peer : BitVec 176
  tagOk : Bool
  lenOk : Bool
  deriving DecidableEq, Repr

/-- What an open-wire test measures on one line (R78): the line as OW_FIRST_LINE numbers it, V_up − V_down in nV, and whether a
conversion returned a rail code. -/
structure WireMeas where
  line : Nat
  dv : Nat
  rail : Bool
  deriving DecidableEq, Repr

/-- The debug objects of A002h that DBG_CL_SEL selects (Table PK-9). -/
inductive DbgReg where | pc | sreg | vreg | preg | sram
  deriving DecidableEq, Repr

/-- An action of the Zenith command ecl (Table PK-6): now, at a tick (of a slice where one is given), ext or off. -/
inductive EclCmd where
  | now
  | at' (tick : Nat) (slice : Option Nat)
  | ext
  | off
  deriving DecidableEq, Repr

/-- An action of the Zenith command upd (Table PK-6): bytes at an offset, or the commit with the verdict of the signature
check and the fragments of a verified pack as (class, ticks, signature). -/
inductive UpdCmd where
  | data (offset : Nat) (bytes : List Byte)
  | commit (sigOk : Bool) (pack : List (Nat × Nat × Nat))
  deriving DecidableEq, Repr

/-- What the module finds at one entry of the object dictionary: what a DBG_STEP meets with the context of a QA, the verdict of a
signature check with the fragments of a verified pack (R437), whether a key unwraps (R442), whether the items of row 7 of
Table OD-9 verify and the trims of row 8 are there, and what the source of a peer copy answers (R288). -/
structure Found where
  ph : Phys
  qaCtx : Nat
  sigOk : Bool
  pack : List (Nat × Nat × Nat)
  tagOk : Bool
  signed : Bool
  trims : Bool
  peer : Option PeerInfo
  deriving DecidableEq, Repr

end Sys2Proof
end

