-- ==== Sys2Proof/Syntax.lean ====
section
/-!
DEFINITION. The commands of the block: one constructor per row of spec/opcode_table.json, in the table's order. An operand
that the row takes from outside (a command's fields, a pin, what a circuit or firmware finds) is an argument.
-/
namespace Sys2Proof

inductive Instr where
  -- Table IS-5: scalar instructions
  | nop (i : Issue)
  | add (i : Issue) (rd ra rb : Reg)
  | sub (i : Issue) (rd ra rb : Reg)
  | and (i : Issue) (rd ra rb : Reg)
  | or (i : Issue) (rd ra rb : Reg)
  | xor (i : Issue) (rd ra rb : Reg)
  | shl (i : Issue) (rd ra rb : Reg)
  | shr (i : Issue) (rd ra rb : Reg)
  | sra (i : Issue) (rd ra rb : Reg)
  | mul (i : Issue) (rd ra rb : Reg)
  | slt (i : Issue) (rd ra rb : Reg)
  | sltu (i : Issue) (rd ra rb : Reg)
  | min (i : Issue) (rd ra rb : Reg)
  | max (i : Issue) (rd ra rb : Reg)
  | addi (i : Issue) (rd ra : Reg) (imm : BitVec 16)
  | andi (i : Issue) (rd ra : Reg) (imm : BitVec 16)
  | ori (i : Issue) (rd ra : Reg) (imm : BitVec 16)
  | xori (i : Issue) (rd ra : Reg) (imm : BitVec 16)
  | slti (i : Issue) (rd ra : Reg) (imm : BitVec 16)
  | shiShl (i : Issue) (rd ra : Reg) (sh : BitVec 5)
  | shiShr (i : Issue) (rd ra : Reg) (sh : BitVec 5)
  | shiSra (i : Issue) (rd ra : Reg) (sh : BitVec 5)
  | lui (i : Issue) (rd : Reg) (imm : BitVec 16)
  | lds (i : Issue) (rd ra : Reg) (imm : BitVec 16)
  | sts (i : Issue) (rd ra : Reg) (imm : BitVec 16)
  | sysr (i : Issue) (rd : Reg) (imm : BitVec 16)
  -- branches
  | beq (i : Issue) (ra rb : Reg) (off : BitVec 16)
  | bne (i : Issue) (ra rb : Reg) (off : BitVec 16)
  | blt (i : Issue) (ra rb : Reg) (off : BitVec 16)
  | bge (i : Issue) (ra rb : Reg) (off : BitVec 16)
  | bltu (i : Issue) (ra rb : Reg) (off : BitVec 16)
  | bgeu (i : Issue) (ra rb : Reg) (off : BitVec 16)
  | jal (i : Issue) (off : BitVec 26)
  | jr (i : Issue) (ra : Reg)
  | bpany (i : Issue) (pn : PReg) (off : BitVec 16)
  | bpall (i : Issue) (pn : PReg) (off : BitVec 16)
  -- vector and predicate instructions
  | vadd (i : Issue) (o : VOps)
  | vsub (i : Issue) (o : VOps)
  | vmul (i : Issue) (o : VOps)
  | vmax (i : Issue) (o : VOps)
  | vmin (i : Issue) (o : VOps)
  | vfma (i : Issue) (o : VOps)
  | vand (i : Issue) (o : VOps)
  | vor (i : Issue) (o : VOps)
  | vxor (i : Issue) (o : VOps)
  | vshl (i : Issue) (o : VOps)
  | vshr (i : Issue) (o : VOps)
  | vabs (i : Issue) (o : VOps)
  | vneg (i : Issue) (o : VOps)
  | vsel (i : Issue) (o : VOps)
  | vexp2 (i : Issue) (o : VOps)
  | vexp (i : Issue) (o : VOps)
  | vrcp (i : Issue) (o : VOps)
  | vrsqrt (i : Issue) (o : VOps)
  | vlog2 (i : Issue) (o : VOps)
  | vsigm (i : Issue) (o : VOps)
  | vtanh (i : Issue) (o : VOps)
  | vsilu (i : Issue) (o : VOps)
  | vrsum (i : Issue) (o : VOps)
  | vrmax (i : Issue) (o : VOps)
  | vrmin (i : Issue) (o : VOps)
  | vrargmax (i : Issue) (o : VOps)
  | vcmplt (i : Issue) (o : VOps)
  | vcmple (i : Issue) (o : VOps)
  | vcmpeq (i : Issue) (o : VOps)
  | vcmpne (i : Issue) (o : VOps)
  | vcvt (i : Issue) (vd va : Reg) (pr : PReg) (src dst : VFmt) (sat : Bool)
  | vbcast (i : Issue) (vd sa : Reg) (pr : PReg)
  | viota (i : Issue) (vd : Reg) (pr : PReg)
  | vcopy (i : Issue) (vd va : Reg) (pr : PReg)
  | vld (i : Issue) (vd ra : Reg) (len : Fin 32) (off : BitVec 11)
  | vst (i : Issue) (vd ra : Reg) (len : Fin 32) (off : BitVec 11)
  | pand (i : Issue) (pd pa pb pr : PReg)
  | por (i : Issue) (pd pa pb pr : PReg)
  | pxor (i : Issue) (pd pa pb pr : PReg)
  | pnot (i : Issue) (pd pa pr : PReg)
  | pcnt (i : Issue) (sd : Reg) (pa pr : PReg)
  -- quantise and dequantise (Table IS-7)
  | qa (i : Issue) (va sd sp : Reg) (dst : QDst) (mode : QMode) (a4 rpl : Bool) (ctx : Nat)
  | qkv4 (i : Issue) (va sd sp : Reg)
  | qkv8 (i : Issue) (va sd sp : Reg)
  | qmx4 (i : Issue) (va sd sp : Reg)
  | qmx5 (i : Issue) (va sd sp : Reg)
  | mxexp (i : Issue) (sd sp : Reg)
  | mximp (i : Issue) (sd sp : Reg)
  | dqa8 (i : Issue) (va sd sp : Reg)
  | dqa4 (i : Issue) (va sd sp : Reg)
  | dqkv4 (i : Issue) (va sd sp : Reg)
  | dqkv8 (i : Issue) (va sd sp : Reg)
  | dqmx4 (i : Issue) (va sd sp : Reg)
  | dqmx5 (i : Issue) (va sd sp : Reg)
  -- array commands (Table IS-8)
  | mvm (i : Issue) (o : ArrOps)
  | tread (i : Issue) (o : ArrOps)
  | seq0 (i : Issue) (o : ArrOps)
  | seq6 (i : Issue) (o : ArrOps)
  -- DMA, ring, sync, time and privileged instructions
  | dma (i : Issue) (rd ra rb : Reg) (notify : Fin 64)
  | rsend (i : Issue) (rd ra rb : Reg) (ring : Fin 4) (auto : Bool) (reduce pack : Fin 3)
  | rrecv (i : Issue) (rd ra : Reg) (chan : Fin 16) (notify : Fin 64)
  | sinc (i : Issue) (obj : Fin 64) (ra : Reg)
  | sset (i : Issue) (obj : Fin 64) (ra : Reg)
  | swait (i : Issue) (obj : Fin 64) (ra : Reg)
  | swaiteq (i : Issue) (obj : Fin 64) (ra : Reg)
  | sread (i : Issue) (obj : Fin 64) (rd : Reg)
  | ssig (i : Issue) (obj : Fin 64) (ra rd : Reg)
  | sarrive (i : Issue) (obj : Fin 64)
  | twait (i : Issue) (point : BitVec 12)
  | dln (i : Issue) (point : BitVec 12)
  | tbase (i : Issue) (point : BitVec 12)
  | tnow (i : Issue) (rd : Reg)
  | tgap (i : Issue) (gap : BitVec 12)
  | batch (i : Issue) (bank : Fin 2)
  | step (i : Issue)
  | endJob (i : Issue)
  | trst (i : Issue)
  | pslot (i : Issue) (ra : Reg)
  | ptag (i : Issue) (ra rd : Reg)
  | pcsrr (i : Issue) (rd : Reg) (csr : BitVec 12)
  | pcsrw (i : Issue) (ra : Reg) (csr : BitVec 12)
  | pclr (i : Issue) (ra : Reg)
  -- arrays and converters
  | degenReplay (u : StrandId)
  | arrayQueueEntry (x : ArrayId) (clk : Fin 8) (late : Nat)
  | arrayCommandStart (x : ArrayId) (st : Fin 2) (clk : Fin 8)
  | arrayPhaseStart (x : ArrayId) (clk : Fin 8)
  | arrayResultAvailable (x : ArrayId)
  | programRow (x : ArrayId) (clk : Fin 8) (iters : Fin 8) (ok : Bool)
  | seqStart (n : Nat) (x : ArrayId) (v : BitVec 8)
  | seqAbort (n : Nat) (x : ArrayId) (v : Bool)
  | seqEntry (n : Nat) (x : ArrayId) (e : Fin 32) (v : BitVec 64)
  | seqResume (x : ArrayId)
  | seqNop (x : ArrayId)
  | senseCol (x : ArrayId)
  | senseRow (x : ArrayId)
  | zeroRef (x : ArrayId)
  | refCol (x : ArrayId)
  | openWire (x : ArrayId) (meas : List WireMeas)
  | biasMon (x : ArrayId)
  | monitorWindowEnd (x : ArrayId)
  -- time, the die network and synchronisation
  | strandStart (j : Nat)
  | holdStart (j : Nat)
  | holdEnd (j : Nat)
  | strandClearDone (v : StrandId)
  | dmaComplete (v : StrandId) (parity : List (Nat × Bool))
  | messageLand (k conflicts : Nat)
  | badHeaders (d : Fin 16) (type : Fin 16)
  | mergeForward (j rgid i : Nat)
  | mergeTimeout (j rgid i : Nat)
  | flitReplay (d : Fin 16) (g : Fin 400) (link : Option (Fin 33)) (what : ReplayOf) (again : Again)
  | linkAckTimeout (l : Fin 33)
  | linkTrainingDone (l : Fin 33) (ok : Bool)
  | linkRetrain (n : Nat) (l : Fin 33) (v : Bool)
  | syncAdd (k : Nat)
  | arrive (k : Nat)
  | release (k : Nat)
  | orphan (k : Nat)
  | control (k : Nat)
  | ballastFloorUpdate (dst : FloorTo)
  | allowanceLend (c : ClusterId)
  | syncValue (n : Nat) (c : ClusterId) (b : Fin 48) (v : Word)
  | nodeForce (n : Nat) (c : ClusterId) (b : Fin 48) (v : Bool)
  | idleGap (v : StrandId)
  | beaconSend (ptp : Option (BitVec 64))
  | beacon (p : Fin 6) (cnt : BitVec 64) (root : Fin 0x1000000) (hops : Fin 256) (seq : Word) (flags : Byte)
      (off : BitVec 16)
  | slew
  | beaconTimeout
  | syncReacquire
  | ptpTimeValid (t : BitVec 64)
  | holdRecord (j m cause : Nat) (times : HoldTimes)
  | peerHoldRequest (j m : Nat) (off : Word)
  | elasticRelease (j k : Nat)
  | ceilingReport (m : Nat) (d : Fin 16) (c : Nat)
  -- the host link
  | unsupportedFrame
  | pfcFrame (enable : Byte) (quanta : List (BitVec 16))
  | esmcFrame (ql : Fin 16)
  | ptpFrame (vlan domain : Nat) (announce : Option Bool)
  | arpRequest (vlan : Nat) (target : BitVec 32)
  | ipv6Nd (vlan : Nat) (target : BitVec 128)
  | hostLinkChange (v : Fin 4)
  | unknownMessage (h : MbtHdr)
  -- serving and weights
  | submitParams (h : MbtHdr) (payload : List Byte)
  | submitPrompt (h : MbtHdr) (payload : List Byte)
  | admissionRecord (x : Fin 4096)
  | stream (k : Nat)
  | stepReport (k : Nat)
  | kvReleased (x : Fin 4096)
  | retainExpiry (x : Fin 4096)
  | ctxCancel (n : Nat) (x : BitVec 16)
  | trainResume (j : Nat)
  | prefixPut (h : MbtHdr) (payload : List Byte)
  | prefixExport (h : MbtHdr) (payload : List Byte)
  | prefixImport (h : MbtHdr) (payload : List Byte)
  | kvput (h : MbtHdr) (payload : List Byte)
  | importDeadline (e : Fin 16384)
  | prefixDelete (n : Nat) (h : Word)
  | loadImage (h : MbtHdr) (payload : List Byte)
  | loadManifest (h : MbtHdr) (payload : List Byte)
  | loadWeights (h : MbtHdr) (payload : List Byte)
  | loadAdapter (h : MbtHdr) (payload : List Byte)
  | loadTreeFragment (b : List Byte) (poison : Bool)
  | chunkDecode (e : Fin 16) (d : Fin 16) (num : Word) (k : Fin 64) (bad : Option Nat)
  | blockProgram (c : ClusterId)
  -- the object dictionary and sessions
  | odMessage (h : MbtHdr) (payload : List Byte) (found : List Found)
  | odRead (n : Nat) (idx : BitVec 16) (sub : Byte)
  | odWrite (n : Nat) (f : Found) (idx : BitVec 16) (sub : Byte) (val : List Byte)
  | odDescribe (n : Nat) (idx : BitVec 16) (sub : Byte)
  | odNext (n : Nat) (idx : BitVec 16) (sub : Byte)
  | transportAck (h : MbtHdr) (payload : List Byte)
  | nack (h : MbtHdr) (payload : List Byte)
  | ackDone (h : MbtHdr) (payload : List Byte)
  | openSession (h : MbtHdr) (payload : List Byte) (mgmt authOk : Bool)
  | closeSession (h : MbtHdr) (payload : List Byte)
  | keepalive (h : MbtHdr) (payload : List Byte)
  | rtoExpiry (n : Nat) (seq : Word)
  | ackDelayExpiry (n : Nat)
  | keepaliveTicks (n : Nat)
  | sessionTimeout (n : Nat)
  | protocolEngineSlice
  -- versions, adapters and calibration
  | verCreate (n : Nat) (e : Fin 16) (v : Bool)
  | verCommit (n : Nat) (e : Fin 16) (v : Bool) (peer : Option PeerInfo)
  | verSwitch (n : Nat) (e : Fin 16) (v : Bool)
  | verDelete (n : Nat) (e : Fin 16) (v : Bool)
  | verFixed (n : Nat) (e : Fin 16) (v : Bool)
  | drainComplete (e : Fin 16)
  | meridianReport (e : Fin 16) (m c : Nat)
  | meridianPointerMove (e : Fin 16)
  | meridianTimeout (e : Fin 16)
  | versionRelease (e : Fin 16)
  | failedVersionExpiry (e : Fin 16)
  | copyRead (x : ArrayId) (use : CopyUse) (cells : List (Nat × BitVec 4)) (amb : Nat)
  | adapterDelete (n : Nat) (h : Word)
  | adapterIdleExpiry (e : Fin 4096)
  | transitStart (c : ClusterId)
  | transitOverdue (x : ArrayId)
  | shadowWindowEnd (c : ClusterId)
  | transitSwap (c : ClusterId)
  | transitCopyTimeout (c : ClusterId)
  | transitPeriodS (n : Nat) (v : Word)
  | restCalibration (x : ArrayId) (fit : List (Nat × Int × Nat × Int)) (meas : List WireMeas)
  | correctionTargetUpdate (x : ArrayId)
  | rampStep
  -- the fabric
  | portLight (p : Fin 6)
  | portTrainingDone (p : Fin 6) (n : Fin 0x1000000) (epoch : Word) (delay : Nat)
  | portLossOfLight (p : Fin 6)
  | fabricFlitReplay (p : Fin 6) (flit : Resent)
  | portRetrain (n : Nat) (p : Fin 6) (v : Bool)
  | linkDelayMeasure (p : Fin 6) (delay : Nat)
  | losDebounceExpiry (p : Fin 6)
  | probeTimeout (p : Fin 6)
  | departure (p : Fin 6) (m : Fin 0x1000000) (epoch : Word)
  | lost (p : Fin 6) (m : Fin 0x1000000) (epoch : Word) (cause port : Byte)
  | probe (m : Fin 0x1000000) (port : Byte)
  | probeAck (m : Fin 0x1000000)
  | beaconReq (p : Fin 6)
  | beaconRel (p : Fin 6)
  | fabricMessageArrival (p : Fin 6) (fs : List FabFlit)
  | e2eAck (m : Fin 0x1000000) (f : Word)
  | e2eAckSend (m : Fin 0x1000000)
  | fabricResendTimeout (k : Nat)
  | sliceReshape (n : Nat) (k : Fin 64) (f : Fin 4) (v : Nat)
  | enableQuery (j m : Nat)
  | enableQueryReply (j m : Nat) (r : EnableReply)
  | enableQueryTimeout (j : Nat)
  | enableStart (j mask delay : Nat) (start : BitVec 64)
  | rejoin (n : Nat) (mask : Byte)
  | expectUntilExpiry
  -- module and jobs
  | moduleEnable (n : Nat) (v : Bool) (f : Found)
  | checkOnly (n : Nat) (v : Bool) (f : Found)
  | restoreDefaults (n : Nat) (v : Bool)
  | jobBind (n : Nat) (j : Fin 64) (v : Bool)
  | jobEnable (n : Nat) (j : Fin 64) (v : Bool)
  | jobUnload (n : Nat) (j : Fin 64) (v : Bool)
  | imageDelete (n : Nat) (i : Fin 16) (v : Bool)
  -- reliability and bring-up
  | poisonReport (c : ClusterId) (w : Fin 655360) (bank : Fin 80)
  | fragmentStart (c : ClusterId) (a : Fin 34)
  | fragmentEnd (c : ClusterId) (sig : Word) (bad : List Nat) (rows : Bool)
  | holdStuck (j : Nat)
  | heartbeat (n : Nat) (v : Word)
  | serviceLoopDone (core : Fin 8)
  | resetCluster (n : Nat) (c : BitVec 16)
  | clusterResetDone (c : ClusterId)
  | resetDie (n : Nat) (d : Byte)
  | dieResetDone (d : Fin 16)
  | resetModule (n : Nat) (v : Bool)
  | departureWaitExpiry
  | phResetTimeout
  | mrstN (v : Bool)
  | pwrgd (v : Bool)
  | dumpClear (n : Nat) (v : Bool)
  | hostSignal
  | cdrLock
  | cdrLockTimeout
  -- power, clocks and security
  | pllStable (die : Option (Fin 16))
  | hbBoot (a b newest : Bool)
  | trimsReloaded
  | arraySweep (x : ArrayId) (te : BitVec 64) (zero : List (Nat × Int)) (refErr : Int) (ambig : Nat)
  | refLoss (lock : Bool)
  | refHoldoverExpiry
  | oppChange (d : Fin 16)
  | clusterRetention (c : ClusterId)
  | clusterWake (c : ClusterId)
  | retainWakeExpiry (c : ClusterId)
  | biasIdle (x : ArrayId)
  | clPwrReq (n : Nat) (c : ClusterId) (v : Byte)
  | fabPortPwr (n : Nat) (p : Fin 6) (v : Byte)
  | sensorWindow (readings : List (Nat × Int))
  | thermalRestart (n : Nat) (v : Bool)
  | operatorKey (n : Nat) (key : BitVec 256)
  | tenantKey (n : Nat) (t : Fin 1024) (key : BitVec 256)
  | tenantDelete (n : Nat) (t : Fin 1024) (v : Bool)
  | updateData (n : Nat) (b : List Byte)
  | updateCommit (n : Nat) (v sigOk : Bool) (pack : List (Nat × Nat × Nat))
  | kemRotate (n : Nat) (v : Bool)
  | attestSign (n : Nat) (v : Bool)
  | keyInstall (n : Nat) (b : List Byte) (tagOk : Bool)
  | keyDelete (n : Nat) (h : Word)
  -- I2C, debug, eclipse and Zenith
  | i2cRead (off : BitVec 8) (len : Nat)
  | i2cWrite (b : Byte)
  | timingRoot (v : Bool)
  | dbgStop (n : Nat) (v : Bool)
  | debugEntry (j : Nat) (stop : Option Nat)
  | dbgStep (n : Nat) (v : BitVec 16) (ph : Phys) (x : Nat)
  | dbgResume (n : Nat) (v : Bool)
  | dbgRegisterAccess (n : Nat) (r : DbgReg) (x : Option Nat)
  | eclNow (n : Nat)
  | eclAtTick (n : Nat)
  | eclExternal (n : Nat)
  | eclOff (n : Nat)
  | eclRemoteArm (tick : Nat)
  | ecIn (v : Bool)
  | eclipse
  | snapshotCollected
  | zenithId
  | zenithBaud (rate : Nat)
  | zenithRd (idx : BitVec 16) (sub : Byte)
  | zenithDs (idx : BitVec 16) (sub : Byte)
  | zenithNx (idx : BitVec 16) (sub : Byte)
  | zenithLog (k : Nat)
  | zenithSnap (off len : Nat)
  | zenithWr (idx : BitVec 16) (sub : Byte) (val : List Byte) (f : Found)
  | zenithStop (j : Byte)
  | zenithGo (j : Byte)
  | zenithStep (u : StrandId) (phs : List (Phys × Nat))
  | zenithSync (c : ClusterId) (b : Byte) (v : Option Word)
  | zenithEcl (e : EclCmd)
  | zenithKey (key : BitVec 256)
  | zenithUpd (u : UpdCmd)
  -- time and firmware
  | siderealTick
  | crashDumpCommitted
  | firmwareFault (core : Fin 8) (kind : Fin 3) (pc addr : Word)
  | esmcTimeout
  | esmcQlDnuSend
  | pfcPauseExpiry (p : Fin 8)
  deriving DecidableEq, Repr

end Sys2Proof
end

