-- ==== Sys2Proof/WellFormed.lean ====
section
/-!
DEFINITION. Which cluster instructions the loader accepts whatever the address of their word (R145, Table IS-5, R152,
R154, R156): the checks on operand fields and on the strand of `Issue`. Commands that are no instruction are well formed.
-/
namespace Sys2Proof

def VFmt.isInt32 (f : VFmt) : Bool := f == .int32
def VFmt.isFp32 (f : VFmt) : Bool := f == .fp32

/-- FMT 5h to Ah. -/
def VFmt.pairs : VFmt → Bool
  | .e4m3 _ | .e5m2 _ | .int8 _ => true
  | _ => false

/-- FMT 0h to 4h. -/
def VFmt.floats : VFmt → Bool
  | .fp32 | .bf16 _ | .fp16 _ => true
  | _ => false

/-- A sync-object number that an instruction may name: 48 to 62 are reserved (R145). -/
def objOk (n : Fin 64) : Bool := n.val < 48 || n.val == 63

/-- The fields of an ARR (R154): SLOT is 0 with MS = 1 and SM is 0 without; LC only on strand 0; fields that KIND does
not use are 0. -/
def arrOk (kind : Nat) (st : Fin 2) (o : ArrOps) : Bool :=
  (if o.ms then o.slot == 0 else o.sm == 0) && !(o.lc && st == 1) &&
  (if kind ≤ 1 then true
   else o.rb == 0 && !o.fp32 && !o.lc && (kind == 2 || (o.ib == 0 && o.ext == 0)))

/-- The operand checks of R145. -/
def Instr.wf : Instr → Bool
  | .vadd _ o | .vsub _ o | .vmax _ o | .vmin _ o => !o.fmt.pairs
  | .vand _ o | .vor _ o | .vxor _ o | .vshl _ o | .vshr _ o => o.fmt.isInt32
  | .vabs _ o | .vneg _ o => !o.fmt.pairs && o.vb == 0
  | .vexp2 _ o | .vexp _ o | .vrcp _ o | .vrsqrt _ o | .vlog2 _ o | .vsigm _ o | .vtanh _ o | .vsilu _ o =>
    o.fmt.floats && o.vb == 0
  | .vrsum _ o | .vrmax _ o | .vrmin _ o | .vrargmax _ o => o.fmt.isFp32 || o.fmt.isInt32
  | .vcmplt _ o | .vcmple _ o | .vcmpeq _ o | .vcmpne _ o => (o.fmt.isFp32 || o.fmt.isInt32) && o.vd.val < 8
  | .sysr _ _ imm => imm.toNat ≤ 5 || (16 ≤ imm.toNat && imm.toNat < 32)
  | .qa _ _ _ _ dst _ _ rpl _ => !(rpl && dst == .sram)
  | .mvm i o => arrOk 0 i.u.st o
  | .tread i o => arrOk 1 i.u.st o
  | .seq0 i o => arrOk 2 i.u.st o
  | .seq6 i o => arrOk 3 i.u.st o
  | .dma _ _ _ _ n => objOk n
  | .rsend _ _ _ _ ring auto _ _ => !auto || ring == 0
  | .rrecv _ _ _ _ n => objOk n
  | .sinc _ b _ | .sset _ b _ | .swait _ b _ | .swaiteq _ b _ | .sread _ b _ | .ssig _ b _ _ | .sarrive _ b => objOk b
  | .batch i _ => i.u.st == 0
  | .step i => i.u.st == 1
  | _ => true

end Sys2Proof
end

