-- ==== Sys2Proof/Decode.lean ====
section
/-!
DEFINITION. The instruction words of Tables IS-3, IS-4, IS-5, IS-7 and IS-8 (R144, R145, R149, R152 to R154): the decoder
that the loader and DBG_STEP use, total on every 32-bit word, the encoder, and the decoder of opcode-table words, of which
the table gives none. A field that a row of Table IS-5 neither uses nor forbids is ignored; a predicate number above 7
names no register and is refused (log entry 30).
-/
namespace Sys2Proof

/-- Bits [lo + n − 1 : lo] of a word. -/
def fld (w lo n : Nat) : Nat := w / 2 ^ lo % 2 ^ n

/-- Table IS-4; codes Ch to Fh are reserved. -/
def VFmt.ofCode : Nat → Option VFmt
  | 0 => some .fp32
  | 1 => some (.bf16 false)
  | 2 => some (.bf16 true)
  | 3 => some (.fp16 false)
  | 4 => some (.fp16 true)
  | 5 => some (.e4m3 false)
  | 6 => some (.e4m3 true)
  | 7 => some (.e5m2 false)
  | 8 => some (.e5m2 true)
  | 9 => some (.int8 false)
  | 10 => some (.int8 true)
  | 11 => some .int32
  | _ => none

def VFmt.code : VFmt → Nat
  | .fp32 => 0
  | .bf16 false => 1
  | .bf16 true => 2
  | .fp16 false => 3
  | .fp16 true => 4
  | .e4m3 false => 5
  | .e4m3 true => 6
  | .e5m2 false => 7
  | .e5m2 true => 8
  | .int8 false => 9
  | .int8 true => 10
  | .int32 => 11

/-- Register fields. -/
def rgF (w lo : Nat) : Reg := Fin.ofNat 32 (w / 2 ^ lo)
def prF (w lo : Nat) : PReg := Fin.ofNat 8 (w / 2 ^ lo)

/-- The fields of a V-format word, none where FMT is reserved. -/
def vopsF (w : Nat) : Option VOps :=
  (VFmt.ofCode (fld w 4 4)).map fun f => VOps.mk (rgF w 21) (rgF w 16) (rgF w 11) (prF w 8) f

def arrF (x w : Nat) : ArrOps :=
  ArrOps.mk (rgF w 21) (Fin.ofNat 2 (w / 2 ^ 17)) (Fin.ofNat 2 (w / 2 ^ 16)) (Fin.ofNat 32 (w / 2 ^ 11)) (fld w 10 1 == 1)
    (fld w 9 1 == 1) (fld w 8 1 == 1) (rgF w 3) x

/-- Condition. -/
def okIf (b : Bool) (x : Instr) : Option Instr := if b then some x else none

/-- R format, OP 01h. -/
def decodeR (i : Issue) (w : Nat) : Option Instr :=
  match fld w 0 11 with
  | 0 => some (.add i (rgF w 21) (rgF w 16) (rgF w 11))
  | 1 => some (.sub i (rgF w 21) (rgF w 16) (rgF w 11))
  | 2 => some (.and i (rgF w 21) (rgF w 16) (rgF w 11))
  | 3 => some (.or i (rgF w 21) (rgF w 16) (rgF w 11))
  | 4 => some (.xor i (rgF w 21) (rgF w 16) (rgF w 11))
  | 5 => some (.shl i (rgF w 21) (rgF w 16) (rgF w 11))
  | 6 => some (.shr i (rgF w 21) (rgF w 16) (rgF w 11))
  | 7 => some (.sra i (rgF w 21) (rgF w 16) (rgF w 11))
  | 8 => some (.mul i (rgF w 21) (rgF w 16) (rgF w 11))
  | 9 => some (.slt i (rgF w 21) (rgF w 16) (rgF w 11))
  | 10 => some (.sltu i (rgF w 21) (rgF w 16) (rgF w 11))
  | 11 => some (.min i (rgF w 21) (rgF w 16) (rgF w 11))
  | 12 => some (.max i (rgF w 21) (rgF w 16) (rgF w 11))
  | _ => none

/-- V format, OP 20h. -/
def decodeV20 (i : Issue) (w : Nat) (o : VOps) : Option Instr :=
  match fld w 0 4 with
  | 0 => some (.vadd i o)
  | 1 => some (.vsub i o)
  | 2 => some (.vmul i o)
  | 3 => some (.vfma i o)
  | 4 => some (.vmax i o)
  | 5 => some (.vmin i o)
  | 6 => some (.vand i o)
  | 7 => some (.vor i o)
  | 8 => some (.vxor i o)
  | 9 => some (.vshl i o)
  | 10 => some (.vshr i o)
  | 11 => some (.vabs i o)
  | 12 => some (.vneg i o)
  | 13 => some (.vsel i o)
  | _ => none

/-- V format, OP 21h. -/
def decodeV21 (i : Issue) (w : Nat) (o : VOps) : Option Instr :=
  match fld w 0 4 with
  | 0 => some (.vexp2 i o)
  | 1 => some (.vexp i o)
  | 2 => some (.vrcp i o)
  | 3 => some (.vrsqrt i o)
  | 4 => some (.vlog2 i o)
  | 5 => some (.vsigm i o)
  | 6 => some (.vtanh i o)
  | 7 => some (.vsilu i o)
  | _ => none

/-- V format, OP 22h and 23h. -/
def decodeV22 (i : Issue) (w : Nat) (o : VOps) : Option Instr :=
  match fld w 26 6, fld w 0 4 with
  | 34, 0 => some (.vrsum i o)
  | 34, 1 => some (.vrmax i o)
  | 34, 2 => some (.vrmin i o)
  | 34, 3 => some (.vrargmax i o)
  | 35, 0 => some (.vcmplt i o)
  | 35, 1 => some (.vcmple i o)
  | 35, 2 => some (.vcmpeq i o)
  | 35, 3 => some (.vcmpne i o)
  | _, _ => none

/-- V format, OP 24h, 25h and 28h. -/
def decodeV25 (i : Issue) (w : Nat) (o : VOps) : Option Instr :=
  match fld w 26 6, fld w 0 4 with
  | 36, 0 => (VFmt.ofCode (fld w 11 4)).map fun d => .vcvt i o.vd o.va o.pr o.fmt d (fld w 15 1 == 1)
  | 37, 0 => some (.vbcast i o.vd o.va o.pr)
  | 37, 1 => some (.viota i o.vd o.pr)
  | 37, 2 => some (.vcopy i o.vd o.va o.pr)
  | 40, 0 => okIf (fld w 24 2 == 0 && fld w 19 2 == 0 && fld w 14 2 == 0) (.pand i (prF w 21) (prF w 16) (prF w 11) o.pr)
  | 40, 1 => okIf (fld w 24 2 == 0 && fld w 19 2 == 0 && fld w 14 2 == 0) (.por i (prF w 21) (prF w 16) (prF w 11) o.pr)
  | 40, 2 => okIf (fld w 24 2 == 0 && fld w 19 2 == 0 && fld w 14 2 == 0) (.pxor i (prF w 21) (prF w 16) (prF w 11) o.pr)
  | 40, 3 => okIf (fld w 24 2 == 0 && fld w 19 2 == 0) (.pnot i (prF w 21) (prF w 16) o.pr)
  | 40, 4 => okIf (fld w 19 2 == 0) (.pcnt i o.vd (prF w 16) o.pr)
  | _, _ => none

def QDst.ofCode : Nat → Option QDst
  | 0 => some .sram
  | 1 => some .input0
  | 2 => some .input1
  | _ => none

def QDst.code : QDst → Nat
  | .sram => 0
  | .input0 => 1
  | .input1 => 2

def QMode.ofCode : Nat → Option QMode
  | 0 => some .block
  | 1 => some .group
  | 2 => some .static
  | _ => none

def QMode.code : QMode → Nat
  | .block => 0
  | .group => 1
  | .static => 2

/-- QA: the fields DST, MODE, CONT and RPL (R152); `x` is the context of `execQa`, which no bit of the word gives. -/
def decodeQa (i : Issue) (x w : Nat) : Option Instr :=
  match QDst.ofCode (fld w 6 2), QMode.ofCode (fld w 4 2) with
  | some d, some m => some (.qa i (rgF w 21) (rgF w 16) (rgF w 11) d m (fld w 3 1 == 1) (fld w 2 1 == 1) x)
  | _, _ => none

/-- Q format (R152, R153): RES is 0, and every function but QA has DST, MODE, CONT and RPL 0. -/
def decodeQ (i : Issue) (x w : Nat) : Option Instr :=
  if fld w 0 2 ≠ 0 then none
  else if fld w 26 6 = 48 ∧ fld w 8 3 = 0 then decodeQa i x w
  else if fld w 2 6 ≠ 0 then none
  else
    match fld w 26 6, fld w 8 3 with
    | 48, 1 => some (.qkv4 i (rgF w 21) (rgF w 16) (rgF w 11))
    | 48, 2 => some (.qkv8 i (rgF w 21) (rgF w 16) (rgF w 11))
    | 48, 3 => some (.qmx4 i (rgF w 21) (rgF w 16) (rgF w 11))
    | 48, 4 => some (.qmx5 i (rgF w 21) (rgF w 16) (rgF w 11))
    | 48, 5 => okIf (fld w 21 5 == 0) (.mxexp i (rgF w 16) (rgF w 11))
    | 48, 6 => okIf (fld w 21 5 == 0) (.mximp i (rgF w 16) (rgF w 11))
    | 49, 0 => some (.dqa8 i (rgF w 21) (rgF w 16) (rgF w 11))
    | 49, 1 => some (.dqa4 i (rgF w 21) (rgF w 16) (rgF w 11))
    | 49, 2 => some (.dqkv4 i (rgF w 21) (rgF w 16) (rgF w 11))
    | 49, 3 => some (.dqkv8 i (rgF w 21) (rgF w 16) (rgF w 11))
    | 49, 4 => some (.dqmx4 i (rgF w 21) (rgF w 16) (rgF w 11))
    | 49, 5 => some (.dqmx5 i (rgF w 21) (rgF w 16) (rgF w 11))
    | _, _ => none

/-- A format (R154); `x` is the context of the read, which no bit of the word gives. -/
def decodeA (i : Issue) (x w : Nat) : Option Instr :=
  if fld w 0 3 ≠ 0 then none
  else
    match fld w 18 3 with
    | 0 => some (.mvm i (arrF x w))
    | 1 => some (.tread i (arrF x w))
    | 2 => some (.seq0 i (arrF x w))
    | 3 => some (.seq6 i (arrF x w))
    | _ => none

/-- Y format (Table IS-3): RES is 0. -/
def decodeY (i : Issue) (w : Nat) : Option Instr :=
  if fld w 0 6 ≠ 0 then none
  else
  match fld w 16 4 with
  | 0 => some (.sinc i (Fin.ofNat 64 (w / 2 ^ 20)) (rgF w 11))
  | 1 => some (.sset i (Fin.ofNat 64 (w / 2 ^ 20)) (rgF w 11))
  | 2 => some (.swait i (Fin.ofNat 64 (w / 2 ^ 20)) (rgF w 11))
  | 3 => some (.swaiteq i (Fin.ofNat 64 (w / 2 ^ 20)) (rgF w 11))
  | 4 => some (.sread i (Fin.ofNat 64 (w / 2 ^ 20)) (rgF w 6))
  | 5 => some (.ssig i (Fin.ofNat 64 (w / 2 ^ 20)) (rgF w 11) (rgF w 6))
  | 6 => some (.sarrive i (Fin.ofNat 64 (w / 2 ^ 20)))
  | _ => none

/-- T format, OP 3Ch. -/
def decodeT (i : Issue) (w : Nat) : Option Instr :=
  match fld w 22 4 with
  | 0 => some (.twait i (BitVec.ofNat 12 w))
  | 1 => some (.dln i (BitVec.ofNat 12 w))
  | 2 => some (.tbase i (BitVec.ofNat 12 w))
  | 3 => some (.tnow i (rgF w 12))
  | 4 => some (.tgap i (BitVec.ofNat 12 w))
  | 5 => okIf (fld w 1 11 == 0) (.batch i (Fin.ofNat 2 w))
  | 6 => some (.step i)
  | 7 => some (.endJob i)
  | 8 => some (.trst i)
  | _ => none

/-- T format, OP 3Eh: the privileged instructions. -/
def decodePrv (i : Issue) (w : Nat) : Option Instr :=
  match fld w 22 4 with
  | 0 => some (.pslot i (rgF w 17))
  | 1 => some (.ptag i (rgF w 17) (rgF w 12))
  | 2 => some (.pcsrr i (rgF w 12) (BitVec.ofNat 12 w))
  | 3 => some (.pcsrw i (rgF w 17) (BitVec.ofNat 12 w))
  | 4 => some (.pclr i (rgF w 17))
  | _ => none

/-- SHI: IMM[6:5] names the shift, IMM[15:7] RES. -/
def decodeShi (i : Issue) (w : Nat) : Option Instr :=
  match fld w 5 11 with
  | 0 => some (.shiShl i (rgF w 21) (rgF w 16) (BitVec.ofNat 5 w))
  | 1 => some (.shiShr i (rgF w 21) (rgF w 16) (BitVec.ofNat 5 w))
  | 2 => some (.shiSra i (rgF w 21) (rgF w 16) (BitVec.ofNat 5 w))
  | _ => none

/-- DMA, RSEND and RRECV (R155 to R157): RES fields 0, REDUCE and PACK 11b reserved. -/
def decodeMove (i : Issue) (w : Nat) : Option Instr :=
  match fld w 26 6 with
  | 54 => okIf (fld w 0 5 == 0) (.dma i (rgF w 21) (rgF w 16) (rgF w 11) (Fin.ofNat 64 (w / 2 ^ 5)))
  | 56 => okIf (fld w 7 4 == 0 && fld w 3 2 != 3 && fld w 5 2 != 3)
      (.rsend i (rgF w 21) (rgF w 16) (rgF w 11) (Fin.ofNat 4 w) (fld w 2 1 == 1) (Fin.ofNat 3 (fld w 3 2)) (Fin.ofNat 3 (fld w 5 2)))
  | 57 => okIf (fld w 10 1 == 0 && fld w 11 5 == 0) (.rrecv i (rgF w 21) (rgF w 16) (Fin.ofNat 16 w) (Fin.ofNat 64 (w / 2 ^ 4)))
  | _ => none

/-- The formats I, B and J, and the words of OP 17h to 19h. -/
def decodeIB (i : Issue) (w : Nat) : Option Instr :=
  match fld w 26 6 with
  | 2 => some (.addi i (rgF w 21) (rgF w 16) (BitVec.ofNat 16 w))
  | 3 => some (.andi i (rgF w 21) (rgF w 16) (BitVec.ofNat 16 w))
  | 4 => some (.ori i (rgF w 21) (rgF w 16) (BitVec.ofNat 16 w))
  | 5 => some (.xori i (rgF w 21) (rgF w 16) (BitVec.ofNat 16 w))
  | 6 => some (.slti i (rgF w 21) (rgF w 16) (BitVec.ofNat 16 w))
  | 9 => some (.lds i (rgF w 21) (rgF w 16) (BitVec.ofNat 16 w))
  | 10 => some (.sts i (rgF w 21) (rgF w 16) (BitVec.ofNat 16 w))
  | 7 => decodeShi i w
  | 8 => okIf (fld w 16 5 == 0) (.lui i (rgF w 21) (BitVec.ofNat 16 w))
  | 11 => okIf (fld w 16 5 == 0) (.sysr i (rgF w 21) (BitVec.ofNat 16 w))
  | 16 => some (.beq i (rgF w 21) (rgF w 16) (BitVec.ofNat 16 w))
  | 17 => some (.bne i (rgF w 21) (rgF w 16) (BitVec.ofNat 16 w))
  | 18 => some (.blt i (rgF w 21) (rgF w 16) (BitVec.ofNat 16 w))
  | 19 => some (.bge i (rgF w 21) (rgF w 16) (BitVec.ofNat 16 w))
  | 20 => some (.bltu i (rgF w 21) (rgF w 16) (BitVec.ofNat 16 w))
  | 21 => some (.bgeu i (rgF w 21) (rgF w 16) (BitVec.ofNat 16 w))
  | 22 => some (.jal i (BitVec.ofNat 26 w))
  | 23 => okIf (fld w 21 5 == 0 && fld w 0 16 == 0) (.jr i (rgF w 16))
  | 24 => okIf (fld w 24 2 == 0 && fld w 16 5 == 0) (.bpany i (prF w 21) (BitVec.ofNat 16 w))
  | 25 => okIf (fld w 24 2 == 0 && fld w 16 5 == 0) (.bpall i (prF w 21) (BitVec.ofNat 16 w))
  | 38 => some (.vld i (rgF w 21) (rgF w 16) (Fin.ofNat 32 (w / 2 ^ 11)) (BitVec.ofNat 11 w))
  | 39 => some (.vst i (rgF w 21) (rgF w 16) (Fin.ofNat 32 (w / 2 ^ 11)) (BitVec.ofNat 11 w))
  | _ => none

/-- The instruction that a word spells by its fields alone. -/
def decodeFields (i : Issue) (x w : Nat) : Option Instr :=
  match fld w 26 6 with
  | 0 => okIf (w == 0) (.nop i)
  | 1 => decodeR i w
  | 32 => (vopsF w).bind (decodeV20 i w)
  | 33 => (vopsF w).bind (decodeV21 i w)
  | 34 | 35 => (vopsF w).bind (decodeV22 i w)
  | 36 | 37 | 40 => (vopsF w).bind (decodeV25 i w)
  | 48 | 49 => decodeQ i x w
  | 52 => decodeA i x w
  | 54 | 56 | 57 => decodeMove i w
  | 58 => decodeY i w
  | 60 => decodeT i w
  | 62 => decodePrv i w
  | _ => decodeIB i w

/-- The instruction that a word spells for the strand of `i`, none where the loader refuses the word whatever its address
(R145). -/
def decodeWord (i : Issue) (x w : Nat) : Option Instr := (decodeFields i x w).bind fun c => if c.wf then some c else none

/-! ## The encoder -/

def encR (op d a b fn : Nat) : Nat := op * 2 ^ 26 + d * 2 ^ 21 + a * 2 ^ 16 + b * 2 ^ 11 + fn
def encI (op d a imm : Nat) : Nat := op * 2 ^ 26 + d * 2 ^ 21 + a * 2 ^ 16 + imm
def encV (op fn : Nat) (o : VOps) : Nat :=
  op * 2 ^ 26 + o.vd.val * 2 ^ 21 + o.va.val * 2 ^ 16 + o.vb.val * 2 ^ 11 + o.pr.val * 2 ^ 8 + o.fmt.code * 2 ^ 4 + fn
def encP (fn d a b pr : Nat) : Nat := 40 * 2 ^ 26 + d * 2 ^ 21 + a * 2 ^ 16 + b * 2 ^ 11 + pr * 2 ^ 8 + fn
def encQ (op fn va sd sp : Nat) : Nat := op * 2 ^ 26 + va * 2 ^ 21 + sd * 2 ^ 16 + sp * 2 ^ 11 + fn * 2 ^ 8
def encA (kind : Nat) (o : ArrOps) : Nat :=
  52 * 2 ^ 26 + o.slot.val * 2 ^ 21 + kind * 2 ^ 18 + o.ib.val * 2 ^ 17 + o.rb.val * 2 ^ 16 + o.ext.val * 2 ^ 11 +
    o.fp32.toNat * 2 ^ 10 + o.lc.toNat * 2 ^ 9 + o.ms.toNat * 2 ^ 8 + o.sm.val * 2 ^ 3
def encY (fn obj a d : Nat) : Nat := 58 * 2 ^ 26 + obj * 2 ^ 20 + fn * 2 ^ 16 + a * 2 ^ 11 + d * 2 ^ 6
def encT (op fn a d imm : Nat) : Nat := op * 2 ^ 26 + fn * 2 ^ 22 + a * 2 ^ 17 + d * 2 ^ 12 + imm

/-- The word of an instruction, with 0 in every field that its row does not use; none for a command that is no
instruction. -/
def encodeWord : Instr → Option Nat
  | .nop _ => some 0
  | .add _ d a b => some (encR 1 d.val a.val b.val 0)
  | .sub _ d a b => some (encR 1 d.val a.val b.val 1)
  | .and _ d a b => some (encR 1 d.val a.val b.val 2)
  | .or _ d a b => some (encR 1 d.val a.val b.val 3)
  | .xor _ d a b => some (encR 1 d.val a.val b.val 4)
  | .shl _ d a b => some (encR 1 d.val a.val b.val 5)
  | .shr _ d a b => some (encR 1 d.val a.val b.val 6)
  | .sra _ d a b => some (encR 1 d.val a.val b.val 7)
  | .mul _ d a b => some (encR 1 d.val a.val b.val 8)
  | .slt _ d a b => some (encR 1 d.val a.val b.val 9)
  | .sltu _ d a b => some (encR 1 d.val a.val b.val 10)
  | .min _ d a b => some (encR 1 d.val a.val b.val 11)
  | .max _ d a b => some (encR 1 d.val a.val b.val 12)
  | .addi _ d a m => some (encI 2 d.val a.val m.toNat)
  | .andi _ d a m => some (encI 3 d.val a.val m.toNat)
  | .ori _ d a m => some (encI 4 d.val a.val m.toNat)
  | .xori _ d a m => some (encI 5 d.val a.val m.toNat)
  | .slti _ d a m => some (encI 6 d.val a.val m.toNat)
  | .lds _ d a m => some (encI 9 d.val a.val m.toNat)
  | .sts _ d a m => some (encI 10 d.val a.val m.toNat)
  | .shiShl _ d a h => some (encI 7 d.val a.val (0 * 2 ^ 5 + h.toNat))
  | .shiShr _ d a h => some (encI 7 d.val a.val (1 * 2 ^ 5 + h.toNat))
  | .shiSra _ d a h => some (encI 7 d.val a.val (2 * 2 ^ 5 + h.toNat))
  | .lui _ d m => some (encI 8 d.val 0 m.toNat)
  | .sysr _ d m => some (encI 11 d.val 0 m.toNat)
  | .beq _ a b m => some (encI 16 a.val b.val m.toNat)
  | .bne _ a b m => some (encI 17 a.val b.val m.toNat)
  | .blt _ a b m => some (encI 18 a.val b.val m.toNat)
  | .bge _ a b m => some (encI 19 a.val b.val m.toNat)
  | .bltu _ a b m => some (encI 20 a.val b.val m.toNat)
  | .bgeu _ a b m => some (encI 21 a.val b.val m.toNat)
  | .jal _ m => some (22 * 2 ^ 26 + m.toNat)
  | .jr _ a => some (encR 23 0 a.val 0 0)
  | .bpany _ p m => some (encI 24 p.val 0 m.toNat)
  | .bpall _ p m => some (encI 25 p.val 0 m.toNat)
  | .vadd _ o => some (encV 32 0 o)
  | .vsub _ o => some (encV 32 1 o)
  | .vmul _ o => some (encV 32 2 o)
  | .vfma _ o => some (encV 32 3 o)
  | .vmax _ o => some (encV 32 4 o)
  | .vmin _ o => some (encV 32 5 o)
  | .vand _ o => some (encV 32 6 o)
  | .vor _ o => some (encV 32 7 o)
  | .vxor _ o => some (encV 32 8 o)
  | .vshl _ o => some (encV 32 9 o)
  | .vshr _ o => some (encV 32 10 o)
  | .vabs _ o => some (encV 32 11 o)
  | .vneg _ o => some (encV 32 12 o)
  | .vsel _ o => some (encV 32 13 o)
  | .vexp2 _ o => some (encV 33 0 o)
  | .vexp _ o => some (encV 33 1 o)
  | .vrcp _ o => some (encV 33 2 o)
  | .vrsqrt _ o => some (encV 33 3 o)
  | .vlog2 _ o => some (encV 33 4 o)
  | .vsigm _ o => some (encV 33 5 o)
  | .vtanh _ o => some (encV 33 6 o)
  | .vsilu _ o => some (encV 33 7 o)
  | .vrsum _ o => some (encV 34 0 o)
  | .vrmax _ o => some (encV 34 1 o)
  | .vrmin _ o => some (encV 34 2 o)
  | .vrargmax _ o => some (encV 34 3 o)
  | .vcmplt _ o => some (encV 35 0 o)
  | .vcmple _ o => some (encV 35 1 o)
  | .vcmpeq _ o => some (encV 35 2 o)
  | .vcmpne _ o => some (encV 35 3 o)
  | .vcvt _ d a r f g t => some (36 * 2 ^ 26 + d.val * 2 ^ 21 + a.val * 2 ^ 16 + t.toNat * 2 ^ 15 + g.code * 2 ^ 11 +
      r.val * 2 ^ 8 + f.code * 2 ^ 4)
  | .vbcast _ d a r => some (37 * 2 ^ 26 + d.val * 2 ^ 21 + a.val * 2 ^ 16 + r.val * 2 ^ 8)
  | .viota _ d r => some (37 * 2 ^ 26 + d.val * 2 ^ 21 + r.val * 2 ^ 8 + 1)
  | .vcopy _ d a r => some (37 * 2 ^ 26 + d.val * 2 ^ 21 + a.val * 2 ^ 16 + r.val * 2 ^ 8 + 2)
  | .vld _ d a l f => some (38 * 2 ^ 26 + d.val * 2 ^ 21 + a.val * 2 ^ 16 + l.val * 2 ^ 11 + f.toNat)
  | .vst _ d a l f => some (39 * 2 ^ 26 + d.val * 2 ^ 21 + a.val * 2 ^ 16 + l.val * 2 ^ 11 + f.toNat)
  | .pand _ d a b r => some (encP 0 d.val a.val b.val r.val)
  | .por _ d a b r => some (encP 1 d.val a.val b.val r.val)
  | .pxor _ d a b r => some (encP 2 d.val a.val b.val r.val)
  | .pnot _ d a r => some (encP 3 d.val a.val 0 r.val)
  | .pcnt _ d a r => some (encP 4 d.val a.val 0 r.val)
  | .qa _ v d q t m c r _ => some (encQ 48 0 v.val d.val q.val + t.code * 2 ^ 6 + m.code * 2 ^ 4 + c.toNat * 2 ^ 3 +
      r.toNat * 2 ^ 2)
  | .qkv4 _ v d q => some (encQ 48 1 v.val d.val q.val)
  | .qkv8 _ v d q => some (encQ 48 2 v.val d.val q.val)
  | .qmx4 _ v d q => some (encQ 48 3 v.val d.val q.val)
  | .qmx5 _ v d q => some (encQ 48 4 v.val d.val q.val)
  | .mxexp _ d q => some (encQ 48 5 0 d.val q.val)
  | .mximp _ d q => some (encQ 48 6 0 d.val q.val)
  | .dqa8 _ v d q => some (encQ 49 0 v.val d.val q.val)
  | .dqa4 _ v d q => some (encQ 49 1 v.val d.val q.val)
  | .dqkv4 _ v d q => some (encQ 49 2 v.val d.val q.val)
  | .dqkv8 _ v d q => some (encQ 49 3 v.val d.val q.val)
  | .dqmx4 _ v d q => some (encQ 49 4 v.val d.val q.val)
  | .dqmx5 _ v d q => some (encQ 49 5 v.val d.val q.val)
  | .mvm _ o => some (encA 0 o)
  | .tread _ o => some (encA 1 o)
  | .seq0 _ o => some (encA 2 o)
  | .seq6 _ o => some (encA 3 o)
  | .dma _ d a b n => some (encR 54 d.val a.val b.val (n.val * 2 ^ 5))
  | .rsend _ d a b g t r k => some (encR 56 d.val a.val b.val (k.val * 2 ^ 5 + r.val * 2 ^ 3 + t.toNat * 2 ^ 2 + g.val))
  | .rrecv _ d a c n => some (encR 57 d.val a.val 0 (n.val * 2 ^ 4 + c.val))
  | .sinc _ b a => some (encY 0 b.val a.val 0)
  | .sset _ b a => some (encY 1 b.val a.val 0)
  | .swait _ b a => some (encY 2 b.val a.val 0)
  | .swaiteq _ b a => some (encY 3 b.val a.val 0)
  | .sread _ b d => some (encY 4 b.val 0 d.val)
  | .ssig _ b a d => some (encY 5 b.val a.val d.val)
  | .sarrive _ b => some (encY 6 b.val 0 0)
  | .twait _ m => some (encT 60 0 0 0 m.toNat)
  | .dln _ m => some (encT 60 1 0 0 m.toNat)
  | .tbase _ m => some (encT 60 2 0 0 m.toNat)
  | .tnow _ d => some (encT 60 3 0 d.val 0)
  | .tgap _ m => some (encT 60 4 0 0 m.toNat)
  | .batch _ b => some (encT 60 5 0 0 b.val)
  | .step _ => some (encT 60 6 0 0 0)
  | .endJob _ => some (encT 60 7 0 0 0)
  | .trst _ => some (encT 60 8 0 0 0)
  | .pslot _ a => some (encT 62 0 a.val 0 0)
  | .ptag _ a d => some (encT 62 1 a.val d.val 0)
  | .pcsrr _ d m => some (encT 62 2 0 d.val m.toNat)
  | .pcsrw _ a m => some (encT 62 3 a.val 0 m.toNat)
  | .pclr _ a => some (encT 62 4 a.val 0 0)
  | _ => none

/-! ## What the loader reads in a word -/

/-- A privileged instruction (Table IS-5, R140). -/
def Instr.isPrv : Instr → Bool
  | .pslot .. | .ptag .. | .pcsrr .. | .pcsrw .. | .pclr .. => true
  | _ => false

/-- The word offset of a branch or jump, none for the rest (R142). -/
def Instr.offset? : Instr → Option Int
  | .beq _ _ _ o | .bne _ _ _ o | .blt _ _ _ o | .bge _ _ _ o | .bltu _ _ _ o | .bgeu _ _ _ o => some o.toInt
  | .bpany _ _ o | .bpall _ _ o => some o.toInt
  | .jal _ o => some o.toInt
  | _ => none

/-- The target of a branch or jump at word `pc`, where it has one. -/
def Instr.target? (c : Instr) (pc : Nat) : Option Int := c.offset?.map fun o => (pc : Int) + o

/-- Opcode-table rows carry no bits: no word spells a command. -/
def decodeTableWord (_nbits _w : Nat) : Option Instr := none

end Sys2Proof
end

