-- ==== Sys2Proof/Machine/Float.lean ====
section
/-!
DEFINITION. The number formats of Table NF-1 and their arithmetic (R84 to R87): values are exact dyadic numbers, and one
rounding to nearest, ties to even, takes an exact result to a format.
-/
namespace Sys2Proof

/-- The format reads two values a lane (R147). -/
def VFmt.is8 : VFmt → Bool
  | .e4m3 _ | .e5m2 _ | .int8 _ => true
  | _ => false

def VFmt.isInt : VFmt → Bool
  | .int8 _ | .int32 => true
  | _ => false

/-- The 16-bit formats. -/
def VFmt.is16 : VFmt → Bool
  | .bf16 _ | .fp16 _ => true
  | _ => false

end Sys2Proof

namespace Sys2Proof.Machine

/-- A decoded value: NaN, an infinity, or (−1)^neg · m · 2^e. -/
inductive FV where
  | nan
  | inf (neg : Bool)
  | fin (neg : Bool) (m : Nat) (e : Int)
  deriving DecidableEq, Repr

/-- A floating-point format: exponent and mantissa bits, bias, whether the all-ones exponent holds infinities, whether
subnormals are read and delivered as zero (R85), the canonical NaN and the largest finite magnitude. -/
structure FFmt where
  ebits : Nat
  mbits : Nat
  bias : Nat
  hasInf : Bool
  ftz : Bool
  qnan : Nat
  maxFin : Nat
  deriving DecidableEq, Repr

def FFmt.fp32 : FFmt := ⟨8, 23, 127, true, true, 0x7FC00000, 0x7F7FFFFF⟩
def FFmt.bf16 : FFmt := ⟨8, 7, 127, true, true, 0x7FC0, 0x7F7F⟩
def FFmt.fp16 : FFmt := ⟨5, 10, 15, true, false, 0x7E00, 0x7BFF⟩
def FFmt.e4m3 : FFmt := ⟨4, 3, 7, false, false, 0x7F, 0x7E⟩
def FFmt.e5m2 : FFmt := ⟨5, 2, 15, true, false, 0x7E, 0x7B⟩

def FFmt.signBit (f : FFmt) : Nat := 2 ^ (f.ebits + f.mbits)

/-- The value of a bit pattern (Table NF-1, R85). -/
def FFmt.decode (f : FFmt) (x : Nat) : FV :=
  let neg := x / f.signBit % 2 == 1
  let e := x / 2 ^ f.mbits % 2 ^ f.ebits
  let m := x % 2 ^ f.mbits
  if f.hasInf && e == 2 ^ f.ebits - 1 then (if m = 0 then .inf neg else .nan)
  else if !f.hasInf && e == 2 ^ f.ebits - 1 && m == 2 ^ f.mbits - 1 then .nan
  else if e = 0 then
    if f.ftz then .fin neg 0 0 else .fin neg m (1 - (f.bias : Int) - f.mbits)
  else .fin neg (m + 2 ^ f.mbits) ((e : Int) - f.bias - f.mbits)

/-- m / 2^k rounded to nearest, ties to even. -/
def rneShift (m k : Nat) : Nat :=
  let q := m / 2 ^ k
  let r := m % 2 ^ k
  if k = 0 then m
  else if 2 ^ (k - 1) < r ∨ (r = 2 ^ (k - 1) ∧ q % 2 = 1) then q + 1 else q

/-- a / b rounded to nearest, ties to even. -/
def rneDiv (a b : Nat) : Nat :=
  let q := a / b
  let r := a % b
  if b < 2 * r ∨ (2 * r = b ∧ q % 2 = 1) then q + 1 else q

def rneDivInt (a : Int) (b : Nat) : Int :=
  if a < 0 then -(rneDiv a.natAbs b : Int) else (rneDiv a.natAbs b : Int)

/-- The sign bit of a format. -/
def FFmt.sgn (f : FFmt) (neg : Bool) : Nat := if neg then f.signBit else 0

/-- What a magnitude above the range delivers (Table NF-2): infinity or NaN, the largest finite with SAT. -/
def FFmt.over (f : FFmt) (sat neg : Bool) : Nat :=
  if sat then f.sgn neg + f.maxFin
  else if f.hasInf then f.sgn neg + (2 ^ f.ebits - 1) * 2 ^ f.mbits
  else f.qnan

/-- The exponent of the unit in which a magnitude m · 2^e is rounded. -/
def FFmt.lsb (f : FFmt) (m : Nat) (e : Int) : Int :=
  let n := (Nat.log2 m : Int) + e - f.mbits
  if f.ftz then n else max n (1 - (f.bias : Int) - f.mbits)

/-- The bits of a rounded magnitude q · 2^l (R85: subnormal after rounding is zero where the format flushes). -/
def FFmt.pack (f : FFmt) (sat neg : Bool) (q : Nat) (l : Int) : Nat :=
  if q = 0 then f.sgn neg
  else
    let top := (Nat.log2 q : Int) + l
    let emin := 1 - (f.bias : Int)
    if top < emin then (if f.ftz then f.sgn neg else f.sgn neg + q)
    else
      let ef := (top + f.bias).toNat
      let mant := q * 2 ^ f.mbits / 2 ^ Nat.log2 q - 2 ^ f.mbits
      let v := ef * 2 ^ f.mbits + mant
      if f.maxFin < v then f.over sat neg else f.sgn neg + v

/-- One rounding to nearest, ties to even, of a value to a format (R85, Table NF-2). -/
def FFmt.encode (f : FFmt) (sat : Bool) : FV → Nat
  | .nan => f.qnan
  | .inf neg => f.over sat neg
  | .fin neg m e =>
    if m = 0 then f.sgn neg
    else
      let l := f.lsb m e
      let q := if l ≤ e then m * 2 ^ (e - l).toNat else rneShift m (l - e).toNat
      f.pack sat neg q l

/-- FP32 bits of a value. -/
def FV.to32 (v : FV) : Word := BitVec.ofNat 32 (FFmt.fp32.encode false v)
def ofFp32 (w : Word) : FV := FFmt.fp32.decode w.toNat

/-- A finite value from a signed mantissa; a zero is positive. -/
def FV.ofInt (m : Int) (e : Int) : FV := .fin (m < 0) m.natAbs e

def FV.neg : FV → FV
  | .nan => .nan
  | .inf n => .inf !n
  | .fin n m e => .fin (!n) m e

def FV.abs : FV → FV
  | .nan => .nan
  | .inf _ => .inf false
  | .fin _ m e => .fin false m e

/-- The exact sum with the IEEE rules for special operands; an exact zero is +0 unless both operands are −0. -/
def FV.add : FV → FV → FV
  | .nan, _ => .nan
  | _, .nan => .nan
  | .inf a, .inf b => if a = b then .inf a else .nan
  | .inf a, .fin _ _ _ => .inf a
  | .fin _ _ _, .inf b => .inf b
  | .fin n m e, .fin n' m' e' =>
    if m = 0 ∧ m' = 0 then .fin (n && n') 0 0
    else
      let l := min e e'
      let a : Int := (m * 2 ^ (e - l).toNat : Nat)
      let b : Int := (m' * 2 ^ (e' - l).toNat : Nat)
      FV.ofInt ((if n then -a else a) + (if n' then -b else b)) l

/-- The exact product with the IEEE rules for special operands. -/
def FV.mul : FV → FV → FV
  | .nan, _ => .nan
  | _, .nan => .nan
  | .inf a, .inf b => .inf (a != b)
  | .inf a, .fin n m _ => if m = 0 then .nan else .inf (a != n)
  | .fin n m _, .inf b => if m = 0 then .nan else .inf (n != b)
  | .fin n m e, .fin n' m' e' => .fin (n != n') (m * m') (e + e')

/-- x < y for values that are not NaN; −0 and +0 are equal. -/
def FV.lt : FV → FV → Bool
  | .nan, _ => false
  | _, .nan => false
  | .inf a, .inf b => a && !b
  | .inf a, .fin _ _ _ => a
  | .fin _ _ _, .inf b => !b
  | .fin n m e, .fin n' m' e' =>
    let l := min e e'
    let a : Int := (m * 2 ^ (e - l).toNat : Nat)
    let b : Int := (m' * 2 ^ (e' - l).toNat : Nat)
    decide ((if n then -a else a) < (if n' then -b else b))

def FV.isNan : FV → Bool
  | .nan => true
  | _ => false

def FV.isNeg : FV → Bool
  | .nan => false
  | .inf n => n
  | .fin n _ _ => n

def FV.isZero : FV → Bool
  | .fin _ m _ => m == 0
  | _ => false

def FV.isFinite : FV → Bool
  | .fin _ _ _ => true
  | _ => false

def FV.eq (a b : FV) : Bool := !a.isNan && !b.isNan && !a.lt b && !b.lt a

/-- x below y in the order of VMIN and VMAX, with −0 smaller than +0 (R150). -/
def FV.below (a b : FV) : Bool := a.lt b || (a.eq b && a.isZero && b.isZero && a.isNeg && !b.isNeg)

def FV.max (a b : FV) : FV := if a.isNan || b.isNan then .nan else if a.below b then b else a
def FV.min (a b : FV) : FV := if a.isNan || b.isNan then .nan else if b.below a then b else a

/-- A value rounded to an integer, ties to even. -/
def FV.toIntRne : FV → Int
  | .fin n m e =>
    let q : Int := if 0 ≤ e then (m * 2 ^ e.toNat : Nat) else (rneShift m (-e).toNat : Nat)
    if n then -q else q
  | _ => 0

/-- Conversion to an integer of `bits` bits: saturating, NaN to 0 (Table NF-2; the word's poison is the caller's). -/
def FV.toIntSat (bits : Nat) : FV → Int
  | .nan => 0
  | .inf n => if n then -(2 ^ (bits - 1) : Int) else 2 ^ (bits - 1) - 1
  | v => Max.max (-(2 ^ (bits - 1) : Int)) (Min.min (2 ^ (bits - 1) - 1) v.toIntRne)

/-- The exact value of an integer. -/
def FV.int (x : Int) : FV := FV.ofInt x 0

/-- log2 of a mantissa in [2^60, 2^61) as `n` binary digits. -/
def log2Bits : Nat → Nat → Nat → Nat
  | 0, _, acc => acc
  | n + 1, m, acc =>
    let q := m * m / 2 ^ 60
    if 2 ^ 61 ≤ q then log2Bits n (q / 2) (2 * acc + 1) else log2Bits n q (2 * acc)

/-! ## Lane operands (Table IS-4) -/

/-- A half of a lane word. -/
def half (w : Word) (hi : Bool) : Nat := if hi then w.toNat / 0x10000 else w.toNat % 0x10000
/-- Byte `i` of a lane word. -/
def byteOf (w : Word) (i : Nat) : Nat := w.toNat / 256 ^ i % 256
/-- The number of the first byte of the pair that a format names. -/
def pairBase (hi : Bool) : Nat := if hi then 2 else 0

def sbyte (n : Nat) : Int := if n < 128 then n else (n : Int) - 256

/-- The first and, at the 8-bit formats, the second value that a lane word holds at a format. -/
def lane1 (f : VFmt) (w : Word) : FV :=
  match f with
  | .fp32 => ofFp32 w
  | .bf16 hi => FFmt.bf16.decode (half w hi)
  | .fp16 hi => FFmt.fp16.decode (half w hi)
  | .e4m3 hi => FFmt.e4m3.decode (byteOf w (pairBase hi))
  | .e5m2 hi => FFmt.e5m2.decode (byteOf w (pairBase hi))
  | .int8 hi => FV.int (sbyte (byteOf w (pairBase hi)))
  | .int32 => FV.int w.toInt

def lane2 (f : VFmt) (w : Word) : FV :=
  match f with
  | .e4m3 hi => FFmt.e4m3.decode (byteOf w (pairBase hi + 1))
  | .e5m2 hi => FFmt.e5m2.decode (byteOf w (pairBase hi + 1))
  | .int8 hi => FV.int (sbyte (byteOf w (pairBase hi + 1)))
  | _ => .fin false 0 0

/-- A word with one half replaced. -/
def setHalf (w : Word) (hi : Bool) (v : Nat) : Word :=
  BitVec.ofNat 32 (if hi then w.toNat % 0x10000 + 0x10000 * (v % 0x10000) else w.toNat / 0x10000 * 0x10000 + v % 0x10000)

/-- A word with byte `i` replaced. -/
def setByte (w : Word) (i v : Nat) : Word :=
  BitVec.ofNat 32 (w.toNat - byteOf w i * 256 ^ i + v % 256 * 256 ^ i)

end Sys2Proof.Machine
end

