-- ==== Sys2Proof/Config.lean ====
section
/-!
DEFINITION. What the specification leaves open: constants with no body, so that no proof sees a value of them. Each is
named in a log entry. `Config.coreCount` and its like are fixed by the spec and stand with the operations.
-/
namespace Sys2Proof

/-- The error of a function evaluator, as a part of the bound of Table NF-9, which gives no value within it (log entry 10): function
number, FP32 path, operand bits. -/
opaque Config.fnError : Nat → Bool → Nat → Nat

/-- The value of EXP beyond the operands for which Table NF-9 gives a bound (log entry 10): FP32 path, operand bits. -/
opaque Config.expValue : Bool → Nat → Nat

/-- The FP32 sum of three or more lanes in the fixed lane-tree order, whose tree R109 does not give (log entry 11): lane numbers and
words. -/
opaque Config.laneSum : List (Nat × Word) → Word

/-- The error of a lane of the softmax sequence, as a part of the bound of R109 (log entry 96): the row, the lane. -/
opaque Config.softmaxError : List Word → Nat → Nat

/-- Read noise of one column of one conversion, in sixteenths of a level unit (R57; log entry 12). -/
opaque Config.noise : Nat → Int

/-- The share, in 2^-20 above 0.8, of the nominal drift that a cell shows: cells of one level in one column drift alike to within
±20 % (R58; log entry 98). -/
opaque Config.driftSpread : Nat → Nat

/-- The calibrated conductance offset of a row line per driven pulse unit, in half level-units, of which R49 gives no value (log
entry 99): module-wide array number · 1024 + row. -/
opaque Config.condOffset : Nat → Int

/-- Entries 14 to 31 of a stepping's sequencer list, which firmware does not publish (R77; log entry 102): the entry. -/
opaque Config.fwEntry : Nat → BitVec 64

/-- A word that the spec leaves open, drawn with the counter `freeN` (log entry 1). -/
opaque Config.freeWord : Nat → Word

/-- Bytes that the spec leaves open (keys, signatures, ciphertexts, stacks in a dump), drawn with `freeN`. -/
opaque Config.freeBytes : Nat → Nat → List Byte

/-- A natural number that the spec leaves open, drawn with `freeN`. -/
opaque Config.freeNat : Nat → Nat

/-- A choice that the spec leaves open, drawn with `freeN`. -/
opaque Config.freeBool : Nat → Bool

/-- SHAKE256 values (R355, R440), which the model does not compute: a digest of a byte string (log entry 32). -/
opaque Config.digest : List Byte → Nat

/-- Bytes of one KV block on a rank of a job: job, rank. The program gives the blocks their places (R249; log entry 40). -/
opaque Config.kvShare : Nat → Nat → Nat

/-- Offset of a KV block in a rank's KV_POOL: job, rank, block number (R249; log entry 40). -/
opaque Config.kvPlace : Nat → Nat → Nat → Nat

/-- The output cluster of a job's program, as a rank (R253; log entry 129): the job. -/
opaque Config.outputRank : Nat → Nat

/-- The rail number in a rail record of the I2C map, and the nominal voltage in mV of the record that stands for VCORE_CD0 to
VCORE_CD15 (Table PK-4; log entry 55). -/
opaque Config.railNumber : Nat → Nat
opaque Config.railNominal : Nat

/-- The places of the fields in a unit of a snapshot section (Table PK-7; log entry 56): section, its fields in the table's order. -/
opaque Config.snapUnit : Nat → List Nat → Nat

/-- AES-256-GCM (R286, R324, R442), which the model does not compute: whether the tag passes, the ciphertext with its
tag, and the plaintext; key, nonce, additional data, text (log entry 32). -/
opaque Config.gcmOk : List Byte → List Byte → List Byte → List Byte → Bool
opaque Config.gcmSeal : List Byte → List Byte → List Byte → List Byte → List Byte
opaque Config.gcmOpen : List Byte → List Byte → List Byte → List Byte → List Byte

end Sys2Proof
end

