-- ==== Sys2Proof/Machine/Store.lean ====
section
/-!
DEFINITION. Sparse tables by number, held in one canonical form (keys strictly rising), and byte memory as a list of
`Host.Cell` in the same form that lists no byte equal to what an unlisted address reads as (0).
-/
namespace Sys2Proof.Machine

/-- A table from numbers to values: only the written entries are listed, keys strictly rising. -/
abbrev Store (α : Type) := List (Nat × α)

def Store.get? {α : Type} : Store α → Nat → Option α
  | [], _ => none
  | (k', v) :: t, k => if k = k' then some v else Store.get? t k

/-- The entry of `k`, or `d` where none is listed. -/
def Store.get {α : Type} (d : α) (m : Store α) (k : Nat) : α :=
  match Store.get? m k with
  | some v => v
  | none => d

def Store.set {α : Type} (m : Store α) (k : Nat) (v : α) : Store α :=
  match m with
  | [] => [(k, v)]
  | (k', v') :: t =>
    if k < k' then (k, v) :: (k', v') :: t
    else if k = k' then (k, v) :: t
    else (k', v') :: Store.set t k v

def Store.erase {α : Type} (m : Store α) (k : Nat) : Store α := m.filter fun e => e.1 != k

/-- The entries of `m` whose keys satisfy `p`. -/
def Store.keep {α : Type} (m : Store α) (p : Nat → Bool) : Store α := m.filter fun e => p e.1

/-- All keys of `m` are above `b`, strictly rising. -/
def Store.wfAbove {α : Type} : Nat → Store α → Bool
  | _, [] => true
  | b, (k, _) :: t => decide (b < k) && Store.wfAbove k t

/-- The canonical form: keys strictly rising. -/
def Store.wf {α : Type} : Store α → Bool
  | [] => true
  | (k, _) :: t => Store.wfAbove k t

/-- Byte memory: what an unlisted address reads as is 0 (R126: a cleared SRAM holds zeros; log entry 4). -/
abbrev Mem := List Host.Cell

def Mem.read : Mem → Nat → BitVec 8
  | [], _ => 0
  | (k', v) :: t, k => if k = k' then v else Mem.read t k

def Mem.write (m : Mem) (k : Nat) (v : BitVec 8) : Mem :=
  match m with
  | [] => if v = 0 then [] else [(k, v)]
  | (k', v') :: t =>
    if k < k' then (if v = 0 then (k', v') :: t else (k, v) :: (k', v') :: t)
    else if k = k' then (if v = 0 then t else (k, v) :: t)
    else (k', v') :: Mem.write t k v

def Mem.wfAbove : Nat → Mem → Bool
  | _, [] => true
  | b, (k, v) :: t => decide (b < k) && decide (v ≠ 0) && Mem.wfAbove k t

/-- The canonical form: addresses strictly rising, no entry equal to 0. -/
def Memory.wf : Mem → Bool
  | [] => true
  | (k, v) :: t => decide (v ≠ 0) && Mem.wfAbove k t

/-- A set of numbers, strictly rising. -/
abbrev NSet := List Nat

def NSet.mem (m : NSet) (k : Nat) : Bool := m.contains k

def NSet.insert (m : NSet) (k : Nat) : NSet :=
  match m with
  | [] => [k]
  | k' :: t => if k < k' then k :: k' :: t else if k = k' then k' :: t else k' :: NSet.insert t k

def NSet.remove (m : NSet) (k : Nat) : NSet := m.filter (· != k)

/-- `k` in the set or out of it, as `b` says. -/
def NSet.put (m : NSet) (k : Nat) (b : Bool) : NSet := if b then NSet.insert m k else NSet.remove m k

end Sys2Proof.Machine
end

