-- ==== Sys2Proof/Machine/Objects.lean ====
section
/-!
DEFINITION. The object dictionary as the object tables of spec/ give it (Table OD-12 of 16_object_dictionary.md
and the object table that closes each chapter): one row per object with its type, size, access class, default,
flags and governing enable, and one name per object. Per-die objects stand at die 0, index 3000h plus their offset.
A dash in a Default column, where no rule computes the value, is 0 (DESIGN CHOICE, log entry 3).
-/
namespace Sys2Proof.Machine

/-- Types of Table OD-1 (R368). -/
inductive ObjType where | bool | u8 | u16 | u32 | u64 | i16 | i32 | octets | str
  deriving DecidableEq, Repr

/-- Access classes of Table OD-2 (R369). -/
inductive ObjAccess where | ro | wo | rw | rwl
  deriving DecidableEq, Repr

/-- One row of an object table. `flags` is byte 2 of the descriptor (Table OD-5): bit 0 persistent, bit 1 kept per
session, bit 2 depends on a selector, bit 3 a 48-bit counter. -/
structure ObjRow where
  idx : Nat
  sub : Nat
  ty : ObjType
  size : Nat
  acc : ObjAccess
  dflt : Nat
  flags : Nat
  govIdx : Nat
  govSub : Nat
  deriving DecidableEq, Repr

def ObjRow.persistent (r : ObjRow) : Bool := r.flags % 2 == 1
def ObjRow.perSession (r : ObjRow) : Bool := r.flags / 2 % 2 == 1
def ObjRow.counter (r : ObjRow) : Bool := r.flags / 8 % 2 == 1

/-- An object of the dictionary: index, subindex and the entity that the index's selectors select (R60, R367). -/
structure Obj where
  idx : Nat
  sub : Nat
  inst : Nat
  deriving DecidableEq, Repr

/-- The key that the register file stores the object under. -/
def Obj.key (o : Obj) : Nat := o.inst * 0x1000000 + o.idx * 0x100 + o.sub

/-- The object of a key. -/
def Obj.ofKey (k : Nat) : Obj := ⟨k / 0x100 % 0x10000, k % 0x100, k / 0x1000000⟩

/-- D+20h:01h -/ def Od.ARRAY_SEL (n i : Nat) : Obj := ⟨0x3020 + 0x100 * n, 1, i⟩
/-- D+21h:01h -/ def Od.ARRAY_STATE (n i : Nat) : Obj := ⟨0x3021 + 0x100 * n, 1, i⟩
/-- D+21h:02h -/ def Od.ARRAY_SLOT (n i : Nat) : Obj := ⟨0x3021 + 0x100 * n, 2, i⟩
/-- D+21h:03h -/ def Od.WEIGHT_FMT (n i : Nat) : Obj := ⟨0x3021 + 0x100 * n, 3, i⟩
/-- D+21h:04h -/ def Od.ROW_BUDGET (n i : Nat) : Obj := ⟨0x3021 + 0x100 * n, 4, i⟩
/-- D+21h:05h -/ def Od.ARRAY_MODE (n i : Nat) : Obj := ⟨0x3021 + 0x100 * n, 5, i⟩
/-- D+21h:06h -/ def Od.FS_STEP (n i : Nat) : Obj := ⟨0x3021 + 0x100 * n, 6, i⟩
/-- D+22h:01h -/ def Od.MVM_READS (n i : Nat) : Obj := ⟨0x3022 + 0x100 * n, 1, i⟩
/-- D+22h:02h -/ def Od.READ_PHASES (n i : Nat) : Obj := ⟨0x3022 + 0x100 * n, 2, i⟩
/-- D+22h:03h -/ def Od.SPLIT_READS (n i : Nat) : Obj := ⟨0x3022 + 0x100 * n, 3, i⟩
/-- D+22h:04h -/ def Od.ZERO_INPUT_READS (n i : Nat) : Obj := ⟨0x3022 + 0x100 * n, 4, i⟩
/-- D+22h:05h -/ def Od.TRANSPOSED_PHASES (n i : Nat) : Obj := ⟨0x3022 + 0x100 * n, 5, i⟩
/-- D+22h:06h -/ def Od.REALIGN_ZERO (n i : Nat) : Obj := ⟨0x3022 + 0x100 * n, 6, i⟩
/-- D+22h:07h -/ def Od.PSUM_CLAMPS (n i : Nat) : Obj := ⟨0x3022 + 0x100 * n, 7, i⟩
/-- D+22h:08h -/ def Od.ARBITER_WAITS (n i : Nat) : Obj := ⟨0x3022 + 0x100 * n, 8, i⟩
/-- D+22h:09h -/ def Od.POISONED_READS (n i : Nat) : Obj := ⟨0x3022 + 0x100 * n, 9, i⟩
/-- D+22h:10h -/ def Od.WRAP_FLAGS_ARRAY (n i : Nat) : Obj := ⟨0x3022 + 0x100 * n, 16, i⟩
/-- D+23h:01h -/ def Od.PROG_CYCLES (n i : Nat) : Obj := ⟨0x3023 + 0x100 * n, 1, i⟩
/-- D+23h:02h -/ def Od.PROG_FAIL_ROWS (n i : Nat) : Obj := ⟨0x3023 + 0x100 * n, 2, i⟩
/-- D+23h:03h -/ def Od.LAST_PROG_TIME (n i : Nat) : Obj := ⟨0x3023 + 0x100 * n, 3, i⟩
/-- D+23h:04h -/ def Od.LAST_PROG_ITER (n i : Nat) : Obj := ⟨0x3023 + 0x100 * n, 4, i⟩
/-- D+23h:05h -/ def Od.DRIFT_EQ_TIME (n i : Nat) : Obj := ⟨0x3023 + 0x100 * n, 5, i⟩
/-- D+24h:01h -/ def Od.CONVERSIONS (n i : Nat) : Obj := ⟨0x3024 + 0x100 * n, 1, i⟩
/-- D+24h:02h -/ def Od.ROW_CONVERSIONS (n i : Nat) : Obj := ⟨0x3024 + 0x100 * n, 2, i⟩
/-- D+24h:03h -/ def Od.SAT_SAMPLES (n i : Nat) : Obj := ⟨0x3024 + 0x100 * n, 3, i⟩
/-- D+24h:04h -/ def Od.ZERO_SAMPLES (n i : Nat) : Obj := ⟨0x3024 + 0x100 * n, 4, i⟩
/-- D+24h:05h -/ def Od.SEQ_WAITS (n i : Nat) : Obj := ⟨0x3024 + 0x100 * n, 5, i⟩
/-- D+24h:06h -/ def Od.CAL_SUSPENDS (n i : Nat) : Obj := ⟨0x3024 + 0x100 * n, 6, i⟩
/-- D+24h:07h -/ def Od.CAL_REP_SUSPENDS (n i : Nat) : Obj := ⟨0x3024 + 0x100 * n, 7, i⟩
/-- D+24h:08h -/ def Od.RANGE_EXCURSIONS (n i : Nat) : Obj := ⟨0x3024 + 0x100 * n, 8, i⟩
/-- D+24h:09h -/ def Od.RANGE_WINDOWS (n i : Nat) : Obj := ⟨0x3024 + 0x100 * n, 9, i⟩
/-- D+24h:10h -/ def Od.WRAP_FLAGS_CONV (n i : Nat) : Obj := ⟨0x3024 + 0x100 * n, 16, i⟩
/-- D+25h:01h -/ def Od.RANGE_HIST (n i b : Nat) : Obj := ⟨0x3025 + 0x100 * n, 1 + b, i⟩
/-- D+26h:01h -/ def Od.ENVELOPE (n i b : Nat) : Obj := ⟨0x3026 + 0x100 * n, 1 + b, i⟩
/-- D+26h:09h -/ def Od.ENV_STATE (n i : Nat) : Obj := ⟨0x3026 + 0x100 * n, 9, i⟩
/-- D+27h:01h -/ def Od.SEQ_STATE (n i : Nat) : Obj := ⟨0x3027 + 0x100 * n, 1, i⟩
/-- D+27h:02h -/ def Od.SEQ_PC (n i : Nat) : Obj := ⟨0x3027 + 0x100 * n, 2, i⟩
/-- D+27h:03h -/ def Od.SEQ_STATUS (n i : Nat) : Obj := ⟨0x3027 + 0x100 * n, 3, i⟩
/-- D+27h:04h -/ def Od.SEQ_ENTRY_SEL (n i : Nat) : Obj := ⟨0x3027 + 0x100 * n, 4, i⟩
/-- D+27h:05h -/ def Od.SEQ_ENTRY (n i : Nat) : Obj := ⟨0x3027 + 0x100 * n, 5, i⟩
/-- D+27h:06h -/ def Od.SEQ_START (n i : Nat) : Obj := ⟨0x3027 + 0x100 * n, 6, i⟩
/-- D+27h:07h -/ def Od.SEQ_ABORT (n i : Nat) : Obj := ⟨0x3027 + 0x100 * n, 7, i⟩
/-- D+27h:08h -/ def Od.TFS_STEP (n i : Nat) : Obj := ⟨0x3027 + 0x100 * n, 8, i⟩
/-- D+28h:01h -/ def Od.OW_LAST_TIME (n i : Nat) : Obj := ⟨0x3028 + 0x100 * n, 1, i⟩
/-- D+28h:02h -/ def Od.OW_OPEN_COLS (n i : Nat) : Obj := ⟨0x3028 + 0x100 * n, 2, i⟩
/-- D+28h:03h -/ def Od.OW_OPEN_ROWS (n i : Nat) : Obj := ⟨0x3028 + 0x100 * n, 3, i⟩
/-- D+28h:04h -/ def Od.OW_FIRST_LINE (n i : Nat) : Obj := ⟨0x3028 + 0x100 * n, 4, i⟩
/-- D+29h:01h -/ def Od.CORR_SEL (n i : Nat) : Obj := ⟨0x3029 + 0x100 * n, 1, i⟩
/-- D+29h:02h -/ def Od.CORR_OFFSET (n i : Nat) : Obj := ⟨0x3029 + 0x100 * n, 2, i⟩
/-- D+29h:03h -/ def Od.CORR_GAIN (n i : Nat) : Obj := ⟨0x3029 + 0x100 * n, 3, i⟩
/-- D+2Ah:01h -/ def Od.OW_THRESHOLD (n : Nat) : Obj := ⟨0x302A + 0x100 * n, 1, 0⟩
/-- D+2Ah:02h -/ def Od.ENV_LEARN_WINDOWS (n : Nat) : Obj := ⟨0x302A + 0x100 * n, 2, 0⟩
/-- D+2Ah:03h -/ def Od.ENV_ALARM_COUNT (n : Nat) : Obj := ⟨0x302A + 0x100 * n, 3, 0⟩
/-- D+30h:01h -/ def Od.QUANT_BLOCKS (n : Nat) : Obj := ⟨0x3030 + 0x100 * n, 1, 0⟩
/-- D+30h:02h -/ def Od.QUANT_SAT_VALUES (n : Nat) : Obj := ⟨0x3030 + 0x100 * n, 2, 0⟩
/-- D+30h:03h -/ def Od.QUANT_ZERO_VALUES (n : Nat) : Obj := ⟨0x3030 + 0x100 * n, 3, 0⟩
/-- D+30h:04h -/ def Od.DEGEN_BLOCKS (n : Nat) : Obj := ⟨0x3030 + 0x100 * n, 4, 0⟩
/-- D+30h:05h -/ def Od.DEGEN_EVENTS (n : Nat) : Obj := ⟨0x3030 + 0x100 * n, 5, 0⟩
/-- D+30h:06h -/ def Od.DEGEN_REPLAYS (n : Nat) : Obj := ⟨0x3030 + 0x100 * n, 6, 0⟩
/-- D+30h:07h -/ def Od.DEGEN_UNCHANGED (n : Nat) : Obj := ⟨0x3030 + 0x100 * n, 7, 0⟩
/-- D+30h:08h -/ def Od.PRECISION_MARKS (n : Nat) : Obj := ⟨0x3030 + 0x100 * n, 8, 0⟩
/-- D+30h:09h -/ def Od.NONFINITE_BLOCKS (n : Nat) : Obj := ⟨0x3030 + 0x100 * n, 9, 0⟩
/-- D+30h:0Ah -/ def Od.KV_SAT_VALUES (n : Nat) : Obj := ⟨0x3030 + 0x100 * n, 10, 0⟩
/-- D+30h:10h -/ def Od.WRAP_FLAGS_FMT (n : Nat) : Obj := ⟨0x3030 + 0x100 * n, 16, 0⟩
/-- D+31h:01h -/ def Od.DEGEN_REPLAY_EN (n : Nat) : Obj := ⟨0x3031 + 0x100 * n, 1, 0⟩
/-- D+31h:02h -/ def Od.DEGEN_TRAIN_REPLAY (n : Nat) : Obj := ⟨0x3031 + 0x100 * n, 2, 0⟩
/-- D+40h:01h -/ def Od.CLUSTER_SEL (n i : Nat) : Obj := ⟨0x3040 + 0x100 * n, 1, i⟩
/-- D+41h:01h -/ def Od.CL_STATE (n i : Nat) : Obj := ⟨0x3041 + 0x100 * n, 1, i⟩
/-- D+41h:02h -/ def Od.STRAND0_STATE (n i : Nat) : Obj := ⟨0x3041 + 0x100 * n, 2, i⟩
/-- D+41h:03h -/ def Od.STRAND1_STATE (n i : Nat) : Obj := ⟨0x3041 + 0x100 * n, 3, i⟩
/-- D+41h:04h -/ def Od.STRAND0_JOB (n i : Nat) : Obj := ⟨0x3041 + 0x100 * n, 4, i⟩
/-- D+41h:05h -/ def Od.STRAND1_JOB (n i : Nat) : Obj := ⟨0x3041 + 0x100 * n, 5, i⟩
/-- D+41h:06h -/ def Od.HOLD_OFFSET0 (n i : Nat) : Obj := ⟨0x3041 + 0x100 * n, 6, i⟩
/-- D+41h:07h -/ def Od.HOLD_OFFSET1 (n i : Nat) : Obj := ⟨0x3041 + 0x100 * n, 7, i⟩
/-- D+41h:08h -/ def Od.PAGES_USED (n i : Nat) : Obj := ⟨0x3041 + 0x100 * n, 8, i⟩
/-- D+42h:01h -/ def Od.SRAM_REREADS (n i : Nat) : Obj := ⟨0x3042 + 0x100 * n, 1, i⟩
/-- D+42h:02h -/ def Od.SRAM_POISONED_WORDS (n i : Nat) : Obj := ⟨0x3042 + 0x100 * n, 2, i⟩
/-- D+42h:03h -/ def Od.RESIDUE_ERRORS (n i : Nat) : Obj := ⟨0x3042 + 0x100 * n, 3, i⟩
/-- D+42h:04h -/ def Od.BANK_CONFLICTS (n i : Nat) : Obj := ⟨0x3042 + 0x100 * n, 4, i⟩
/-- D+42h:05h -/ def Od.TRAIN_DEFERRALS (n i : Nat) : Obj := ⟨0x3042 + 0x100 * n, 5, i⟩
/-- D+42h:06h -/ def Od.TAG_FAULTS (n i : Nat) : Obj := ⟨0x3042 + 0x100 * n, 6, i⟩
/-- D+42h:07h -/ def Od.HELD_TICKS (n i : Nat) : Obj := ⟨0x3042 + 0x100 * n, 7, i⟩
/-- D+42h:08h -/ def Od.ISSUE_STALLS (n i : Nat) : Obj := ⟨0x3042 + 0x100 * n, 8, i⟩
/-- D+42h:10h -/ def Od.WRAP_FLAGS_CL (n i : Nat) : Obj := ⟨0x3042 + 0x100 * n, 16, i⟩
/-- D+43h:01h -/ def Od.INSTR_REFETCHES (n i : Nat) : Obj := ⟨0x3043 + 0x100 * n, 1, i⟩
/-- D+43h:02h -/ def Od.RX_OVERRUNS (n i : Nat) : Obj := ⟨0x3043 + 0x100 * n, 2, i⟩
/-- D+43h:03h -/ def Od.DLN_HOLDS (n i : Nat) : Obj := ⟨0x3043 + 0x100 * n, 3, i⟩
/-- D+43h:04h -/ def Od.STRAND_STOPS (n i : Nat) : Obj := ⟨0x3043 + 0x100 * n, 4, i⟩
/-- D+43h:10h -/ def Od.WRAP_FLAGS_ISA (n i : Nat) : Obj := ⟨0x3043 + 0x100 * n, 16, i⟩
/-- D+50h:01h -/ def Od.SEG_SEL (n i : Nat) : Obj := ⟨0x3050 + 0x100 * n, 1, i⟩
/-- D+51h:01h -/ def Od.SEG_STATE (n i : Nat) : Obj := ⟨0x3051 + 0x100 * n, 1, i⟩
/-- D+51h:02h -/ def Od.SEG_REPLAYS (n i : Nat) : Obj := ⟨0x3051 + 0x100 * n, 2, i⟩
/-- D+52h:01h -/ def Od.RING_FLITS_VC0 (n : Nat) : Obj := ⟨0x3052 + 0x100 * n, 1, 0⟩
/-- D+52h:02h -/ def Od.RING_FLITS_VC1 (n : Nat) : Obj := ⟨0x3052 + 0x100 * n, 2, 0⟩
/-- D+52h:03h -/ def Od.RING_REPLAYS (n : Nat) : Obj := ⟨0x3052 + 0x100 * n, 3, 0⟩
/-- D+52h:04h -/ def Od.RING_POISONED_WORDS (n : Nat) : Obj := ⟨0x3052 + 0x100 * n, 4, 0⟩
/-- D+52h:05h -/ def Od.MERGES (n : Nat) : Obj := ⟨0x3052 + 0x100 * n, 5, 0⟩
/-- D+52h:06h -/ def Od.MERGE_TIMEOUTS (n : Nat) : Obj := ⟨0x3052 + 0x100 * n, 6, 0⟩
/-- D+52h:07h -/ def Od.REDUCE_OVERFLOWS (n : Nat) : Obj := ⟨0x3052 + 0x100 * n, 7, 0⟩
/-- D+52h:08h -/ def Od.BYPASS_FLITS (n : Nat) : Obj := ⟨0x3052 + 0x100 * n, 8, 0⟩
/-- D+52h:09h -/ def Od.BAD_HEADERS (n : Nat) : Obj := ⟨0x3052 + 0x100 * n, 9, 0⟩
/-- D+52h:10h -/ def Od.WRAP_FLAGS_RING (n : Nat) : Obj := ⟨0x3052 + 0x100 * n, 16, 0⟩
/-- D+53h:01h -/ def Od.MERGE_TIMEOUT (n : Nat) : Obj := ⟨0x3053 + 0x100 * n, 1, 0⟩
/-- D+53h:02h -/ def Od.SEG_RETIRE_THRESHOLD (n : Nat) : Obj := ⟨0x3053 + 0x100 * n, 2, 0⟩
/-- 2500h:01h -/ def Od.LINK_SEL (i : Nat) : Obj := ⟨0x2500, 1, i⟩
/-- 2501h:01h -/ def Od.LINK_STATE (i : Nat) : Obj := ⟨0x2501, 1, i⟩
/-- 2501h:02h -/ def Od.LINK_FLITS (i : Nat) : Obj := ⟨0x2501, 2, i⟩
/-- 2501h:03h -/ def Od.LINK_REPLAYS (i : Nat) : Obj := ⟨0x2501, 3, i⟩
/-- 2501h:04h -/ def Od.LINK_POISONED_WORDS (i : Nat) : Obj := ⟨0x2501, 4, i⟩
/-- 2501h:05h -/ def Od.LINK_RETRAIN (i : Nat) : Obj := ⟨0x2501, 5, i⟩
/-- 2501h:10h -/ def Od.WRAP_FLAGS_LINK (i : Nat) : Obj := ⟨0x2501, 16, i⟩
/-- 2502h:01h -/ def Od.LINK_RETIRE_THRESHOLD : Obj := ⟨0x2502, 1, 0⟩
/-- 2600h:01h -/ def Od.JOB_SEL (i : Nat) : Obj := ⟨0x2600, 1, i⟩
/-- 2601h:01h -/ def Od.JOB_STATE (i : Nat) : Obj := ⟨0x2601, 1, i⟩
/-- 2601h:02h -/ def Od.JOB_IMAGE (i : Nat) : Obj := ⟨0x2601, 2, i⟩
/-- 2601h:03h -/ def Od.JOB_TENANT (i : Nat) : Obj := ⟨0x2601, 3, i⟩
/-- 2601h:04h -/ def Od.JOB_NCLUSTERS (i : Nat) : Obj := ⟨0x2601, 4, i⟩
/-- 2601h:05h -/ def Od.JOB_SLICE (i : Nat) : Obj := ⟨0x2601, 5, i⟩
/-- 2601h:06h -/ def Od.JOB_PARAMS (i : Nat) : Obj := ⟨0x2601, 6, i⟩
/-- 2601h:07h -/ def Od.JOB_DEBUG (i : Nat) : Obj := ⟨0x2601, 7, i⟩
/-- 2601h:08h -/ def Od.JOB_REASON (i : Nat) : Obj := ⟨0x2601, 8, i⟩
/-- 2601h:09h -/ def Od.SCHED_FIRST_TICKS (i : Nat) : Obj := ⟨0x2601, 9, i⟩
/-- 2601h:0Ah -/ def Od.SCHED_TOKEN_TICKS (i : Nat) : Obj := ⟨0x2601, 10, i⟩
/-- 2601h:0Bh -/ def Od.JOB_STEPPINGS (i : Nat) : Obj := ⟨0x2601, 11, i⟩
/-- 2602h:01h -/ def Od.JOB_BIND (i : Nat) : Obj := ⟨0x2602, 1, i⟩
/-- 2602h:02h -/ def Od.JOB_ENABLE (i : Nat) : Obj := ⟨0x2602, 2, i⟩
/-- 2602h:03h -/ def Od.JOB_UNLOAD (i : Nat) : Obj := ⟨0x2602, 3, i⟩
/-- 2603h:01h -/ def Od.IMAGE_SEL (i : Nat) : Obj := ⟨0x2603, 1, i⟩
/-- 2603h:02h -/ def Od.IMAGE_LEN (i : Nat) : Obj := ⟨0x2603, 2, i⟩
/-- 2603h:03h -/ def Od.IMAGE_DELETE (i : Nat) : Obj := ⟨0x2603, 3, i⟩
/-- 2604h:01h -/ def Od.LAT_STEPPING_SEL (i : Nat) : Obj := ⟨0x2604, 1, i⟩
/-- 2604h:02h -/ def Od.LAT_VERSION (i : Nat) : Obj := ⟨0x2604, 2, i⟩
/-- 2604h:03h -/ def Od.LAT_ENTRY_SEL (i : Nat) : Obj := ⟨0x2604, 3, i⟩
/-- 2604h:04h -/ def Od.LAT_VALUE (i : Nat) : Obj := ⟨0x2604, 4, i⟩
/-- 2605h:01h -/ def Od.IDLE_GAP_TICKS : Obj := ⟨0x2605, 1, 0⟩
/-- 2605h:10h -/ def Od.WRAP_FLAGS_JOB : Obj := ⟨0x2605, 16, 0⟩
/-- 1200h:01h -/ def Od.SIDEREAL_COUNT : Obj := ⟨0x1200, 1, 0⟩
/-- 1200h:02h -/ def Od.SIDEREAL_SHORT : Obj := ⟨0x1200, 2, 0⟩
/-- 1200h:03h -/ def Od.SYNC_STATE : Obj := ⟨0x1200, 3, 0⟩
/-- 1200h:04h -/ def Od.TIMING_ROOT : Obj := ⟨0x1200, 4, 0⟩
/-- 1200h:05h -/ def Od.ROOT_COORD : Obj := ⟨0x1200, 5, 0⟩
/-- 1200h:06h -/ def Od.BEACON_HOPS : Obj := ⟨0x1200, 6, 0⟩
/-- 1200h:07h -/ def Od.BEACON_OFFSET : Obj := ⟨0x1200, 7, 0⟩
/-- 1200h:08h -/ def Od.PTP_OFFSET_NS : Obj := ⟨0x1200, 8, 0⟩
/-- 1200h:09h -/ def Od.PTP_OFFSET_LIMIT : Obj := ⟨0x1200, 9, 0⟩
/-- 1201h:01h -/ def Od.BEACONS_RX : Obj := ⟨0x1201, 1, 0⟩
/-- 1201h:02h -/ def Od.BEACONS_MISSED : Obj := ⟨0x1201, 2, 0⟩
/-- 1201h:03h -/ def Od.SLEW_TICKS : Obj := ⟨0x1201, 3, 0⟩
/-- 1201h:04h -/ def Od.HOLDS : Obj := ⟨0x1201, 4, 0⟩
/-- 1201h:05h -/ def Od.HOLD_TICKS : Obj := ⟨0x1201, 5, 0⟩
/-- 1201h:06h -/ def Od.PEER_HOLDS_SENT : Obj := ⟨0x1201, 6, 0⟩
/-- 1201h:10h -/ def Od.WRAP_FLAGS_TIME : Obj := ⟨0x1201, 16, 0⟩
/-- 1202h:01h -/ def Od.ELASTIC_TICKS : Obj := ⟨0x1202, 1, 0⟩
/-- 1202h:02h -/ def Od.PEER_THRESHOLD : Obj := ⟨0x1202, 2, 0⟩
/-- 1203h:01h -/ def Od.JOB_LAG (i : Nat) : Obj := ⟨0x1203, 1, i⟩
/-- 1203h:02h -/ def Od.JOB_HOLD_OFFSET (i : Nat) : Obj := ⟨0x1203, 2, i⟩
/-- 1203h:03h -/ def Od.LAST_HOLD_CAUSE (i : Nat) : Obj := ⟨0x1203, 3, i⟩
/-- 5010h:01h -/ def Od.BALLAST_MIN_TICKS : Obj := ⟨0x5010, 1, 0⟩
/-- 5010h:02h -/ def Od.PROMISE_BALLAST_PCT : Obj := ⟨0x5010, 2, 0⟩
/-- 5010h:03h -/ def Od.BREACHES : Obj := ⟨0x5010, 3, 0⟩
/-- 5010h:04h -/ def Od.LAST_BREACH_CAUSE : Obj := ⟨0x5010, 4, 0⟩
/-- 5010h:05h -/ def Od.BALLAST_DRAWN_TICKS : Obj := ⟨0x5010, 5, 0⟩
/-- 5010h:10h -/ def Od.WRAP_FLAGS_BALLAST : Obj := ⟨0x5010, 16, 0⟩
/-- D+60h:01h -/ def Od.SYNC_SEL (n i : Nat) : Obj := ⟨0x3060 + 0x100 * n, 1, i⟩
/-- D+61h:01h -/ def Od.OBJ_STATE (n i : Nat) : Obj := ⟨0x3061 + 0x100 * n, 1, i⟩
/-- D+61h:02h -/ def Od.SYNC_OWNER (n i : Nat) : Obj := ⟨0x3061 + 0x100 * n, 2, i⟩
/-- D+61h:03h -/ def Od.SYNC_VALUE (n i : Nat) : Obj := ⟨0x3061 + 0x100 * n, 3, i⟩
/-- D+61h:04h -/ def Od.SYNC_WAITERS (n i : Nat) : Obj := ⟨0x3061 + 0x100 * n, 4, i⟩
/-- D+61h:05h -/ def Od.NODE_ROLE (n i : Nat) : Obj := ⟨0x3061 + 0x100 * n, 5, i⟩
/-- D+61h:06h -/ def Od.NODE_EXPECTED (n i : Nat) : Obj := ⟨0x3061 + 0x100 * n, 6, i⟩
/-- D+61h:07h -/ def Od.NODE_ARRIVED (n i : Nat) : Obj := ⟨0x3061 + 0x100 * n, 7, i⟩
/-- D+61h:08h -/ def Od.NODE_PARENT (n i : Nat) : Obj := ⟨0x3061 + 0x100 * n, 8, i⟩
/-- D+61h:09h -/ def Od.NODE_FORCE (n i : Nat) : Obj := ⟨0x3061 + 0x100 * n, 9, i⟩
/-- D+61h:0Ah -/ def Od.CONST_BOUND_CLOCKS (n i : Nat) : Obj := ⟨0x3061 + 0x100 * n, 10, i⟩
/-- D+62h:01h -/ def Od.SYNC_OPS (n i : Nat) : Obj := ⟨0x3062 + 0x100 * n, 1, i⟩
/-- D+62h:02h -/ def Od.SSIG_SENT (n i : Nat) : Obj := ⟨0x3062 + 0x100 * n, 2, i⟩
/-- D+62h:03h -/ def Od.SYNC_DISCARDS (n i : Nat) : Obj := ⟨0x3062 + 0x100 * n, 3, i⟩
/-- D+62h:04h -/ def Od.BARRIERS (n i : Nat) : Obj := ⟨0x3062 + 0x100 * n, 4, i⟩
/-- D+62h:05h -/ def Od.ORPHAN_WAKES (n i : Nat) : Obj := ⟨0x3062 + 0x100 * n, 5, i⟩
/-- D+62h:06h -/ def Od.LENDS (n i : Nat) : Obj := ⟨0x3062 + 0x100 * n, 6, i⟩
/-- D+62h:07h -/ def Od.LENT_TICKS (n i : Nat) : Obj := ⟨0x3062 + 0x100 * n, 7, i⟩
/-- D+62h:10h -/ def Od.WRAP_FLAGS_SYNC (n i : Nat) : Obj := ⟨0x3062 + 0x100 * n, 16, i⟩
/-- D+63h:01h -/ def Od.ALLOW_LEND_EN (n : Nat) : Obj := ⟨0x3063 + 0x100 * n, 1, 0⟩
/-- 5021h:01h -/ def Od.CTX_STATE (i : Nat) : Obj := ⟨0x5021, 1, i⟩
/-- 5021h:02h -/ def Od.CTX_JOB (i : Nat) : Obj := ⟨0x5021, 2, i⟩
/-- 5021h:03h -/ def Od.CTX_TENANT (i : Nat) : Obj := ⟨0x5021, 3, i⟩
/-- 5021h:04h -/ def Od.CTX_SESSION (i : Nat) : Obj := ⟨0x5021, 4, i⟩
/-- 5021h:05h -/ def Od.CTX_REQ_ID (i : Nat) : Obj := ⟨0x5021, 5, i⟩
/-- 5021h:06h -/ def Od.CTX_CLASS (i : Nat) : Obj := ⟨0x5021, 6, i⟩
/-- 5021h:07h -/ def Od.CTX_VERSION (i : Nat) : Obj := ⟨0x5021, 7, i⟩
/-- 5021h:08h -/ def Od.CTX_ADAPTER (i : Nat) : Obj := ⟨0x5021, 8, i⟩
/-- 5021h:09h -/ def Od.CTX_ADAPTER_GEN (i : Nat) : Obj := ⟨0x5021, 9, i⟩
/-- 5021h:0Ah -/ def Od.CTX_PREFIX (i : Nat) : Obj := ⟨0x5021, 10, i⟩
/-- 5021h:0Bh -/ def Od.CTX_KV_FMT (i : Nat) : Obj := ⟨0x5021, 11, i⟩
/-- 5021h:0Ch -/ def Od.CTX_SEED (i : Nat) : Obj := ⟨0x5021, 12, i⟩
/-- 5021h:0Dh -/ def Od.CTX_SAMPLING (i : Nat) : Obj := ⟨0x5021, 13, i⟩
/-- 5021h:0Eh -/ def Od.CTX_STOP_IDS (i : Nat) : Obj := ⟨0x5021, 14, i⟩
/-- 5021h:0Fh -/ def Od.CTX_STOP_SEQS (i : Nat) : Obj := ⟨0x5021, 15, i⟩
/-- 5021h:10h -/ def Od.CTX_MAX_TOKENS (i : Nat) : Obj := ⟨0x5021, 16, i⟩
/-- 5021h:11h -/ def Od.CTX_END_LIMIT (i : Nat) : Obj := ⟨0x5021, 17, i⟩
/-- 5021h:12h -/ def Od.CTX_T_ADM (i : Nat) : Obj := ⟨0x5021, 18, i⟩
/-- 5021h:13h -/ def Od.CTX_NEXT_DEADLINE (i : Nat) : Obj := ⟨0x5021, 19, i⟩
/-- 5021h:14h -/ def Od.CTX_INTERVAL (i : Nat) : Obj := ⟨0x5021, 20, i⟩
/-- 5021h:15h -/ def Od.CTX_BALLAST (i : Nat) : Obj := ⟨0x5021, 21, i⟩
/-- 5021h:16h -/ def Od.CTX_NEXT_INDEX (i : Nat) : Obj := ⟨0x5021, 22, i⟩
/-- 5021h:17h -/ def Od.CTX_BREACHES (i : Nat) : Obj := ⟨0x5021, 23, i⟩
/-- 5021h:18h -/ def Od.CTX_FLAGS (i : Nat) : Obj := ⟨0x5021, 24, i⟩
/-- 5021h:19h -/ def Od.CTX_END (i : Nat) : Obj := ⟨0x5021, 25, i⟩
/-- 5021h:1Ah -/ def Od.CTX_END_STATUS (i : Nat) : Obj := ⟨0x5021, 26, i⟩
/-- 5021h:1Bh -/ def Od.CTX_KV_BASE (i : Nat) : Obj := ⟨0x5021, 27, i⟩
/-- 5021h:1Ch -/ def Od.CTX_KV_BLOCKS (i : Nat) : Obj := ⟨0x5021, 28, i⟩
/-- 5021h:1Dh -/ def Od.CTX_PROMPT_LEN (i : Nat) : Obj := ⟨0x5021, 29, i⟩
/-- 5000h:01h -/ def Od.CONTEXTS_IN_USE : Obj := ⟨0x5000, 1, 0⟩
/-- 5000h:02h -/ def Od.LC_RESERVED : Obj := ⟨0x5000, 2, 0⟩
/-- 5000h:03h -/ def Od.RETAIN_TICKS : Obj := ⟨0x5000, 3, 0⟩
/-- 5000h:04h -/ def Od.ADMITTED : Obj := ⟨0x5000, 4, 0⟩
/-- 5000h:05h -/ def Od.REFUSED : Obj := ⟨0x5000, 5, 0⟩
/-- 5000h:06h -/ def Od.SLOT_FULL_REFUSALS : Obj := ⟨0x5000, 6, 0⟩
/-- 5000h:07h -/ def Od.STREAM_RECORDS : Obj := ⟨0x5000, 7, 0⟩
/-- 5000h:08h -/ def Od.STREAM_DISCARDS : Obj := ⟨0x5000, 8, 0⟩
/-- 5000h:09h -/ def Od.EVICTIONS : Obj := ⟨0x5000, 9, 0⟩
/-- 5000h:10h -/ def Od.WRAP_FLAGS_SERV : Obj := ⟨0x5000, 16, 0⟩
/-- 5001h:01h -/ def Od.PREFILL_CHUNK (i : Nat) : Obj := ⟨0x5001, 1, i⟩
/-- 5001h:02h -/ def Od.KV_BYTES_PER_TOKEN (i : Nat) : Obj := ⟨0x5001, 2, i⟩
/-- 5001h:03h -/ def Od.KV_BLOCKS (i : Nat) : Obj := ⟨0x5001, 3, i⟩
/-- 5001h:04h -/ def Od.KV_BLOCKS_FREE (i : Nat) : Obj := ⟨0x5001, 4, i⟩
/-- 5001h:05h -/ def Od.VOCAB_SIZE (i : Nat) : Obj := ⟨0x5001, 5, i⟩
/-- 5001h:06h -/ def Od.MAX_CONTEXT (i : Nat) : Obj := ⟨0x5001, 6, i⟩
/-- 5001h:07h -/ def Od.ADMISSION_PAUSED (i : Nat) : Obj := ⟨0x5001, 7, i⟩
/-- 5001h:08h -/ def Od.TRAIN_PAIR (i : Nat) : Obj := ⟨0x5001, 8, i⟩
/-- 5001h:09h -/ def Od.TRAIN_CEILING_PCT (i : Nat) : Obj := ⟨0x5001, 9, i⟩
/-- 5001h:0Ah -/ def Od.TRAIN_PREEMPT_AT (i : Nat) : Obj := ⟨0x5001, 10, i⟩
/-- 5001h:0Bh -/ def Od.TRAIN_RESUME_AT (i : Nat) : Obj := ⟨0x5001, 11, i⟩
/-- 5001h:0Ch -/ def Od.TRAIN_RESUME_TICKS (i : Nat) : Obj := ⟨0x5001, 12, i⟩
/-- 5001h:0Dh -/ def Od.TRAIN_STEPS (i : Nat) : Obj := ⟨0x5001, 13, i⟩
/-- 5020h:01h -/ def Od.CTX_SEL (i : Nat) : Obj := ⟨0x5020, 1, i⟩
/-- 5022h:01h -/ def Od.CTX_CANCEL : Obj := ⟨0x5022, 1, 0⟩
/-- 5030h:01h -/ def Od.PREFIX_SEL (i : Nat) : Obj := ⟨0x5030, 1, i⟩
/-- 5031h:01h -/ def Od.PREFIX_STATE (i : Nat) : Obj := ⟨0x5031, 1, i⟩
/-- 5031h:02h -/ def Od.PREFIX_TENANT (i : Nat) : Obj := ⟨0x5031, 2, i⟩
/-- 5031h:03h -/ def Od.PREFIX_JOB (i : Nat) : Obj := ⟨0x5031, 3, i⟩
/-- 5031h:04h -/ def Od.PREFIX_VERSION (i : Nat) : Obj := ⟨0x5031, 4, i⟩
/-- 5031h:05h -/ def Od.PREFIX_TOKENS (i : Nat) : Obj := ⟨0x5031, 5, i⟩
/-- 5031h:06h -/ def Od.PREFIX_REFS (i : Nat) : Obj := ⟨0x5031, 6, i⟩
/-- 5031h:07h -/ def Od.PREFIX_KV_FMT (i : Nat) : Obj := ⟨0x5031, 7, i⟩
/-- 5031h:08h -/ def Od.PREFIX_LAST_USE (i : Nat) : Obj := ⟨0x5031, 8, i⟩
/-- 5031h:09h -/ def Od.PREFIX_ADAPTER (i : Nat) : Obj := ⟨0x5031, 9, i⟩
/-- 5031h:0Ah -/ def Od.PREFIX_ADAPTER_GEN (i : Nat) : Obj := ⟨0x5031, 10, i⟩
/-- 5032h:01h -/ def Od.PREFIX_DELETE : Obj := ⟨0x5032, 1, 0⟩
/-- 5033h:01h -/ def Od.PREFIXES_IN_USE : Obj := ⟨0x5033, 1, 0⟩
/-- 6000h:01h -/ def Od.LOAD_FRAGMENTS : Obj := ⟨0x6000, 1, 0⟩
/-- 6000h:02h -/ def Od.CHUNKS_DECODED : Obj := ⟨0x6000, 2, 0⟩
/-- 6000h:03h -/ def Od.CHUNKS_DROPPED : Obj := ⟨0x6000, 3, 0⟩
/-- 6000h:04h -/ def Od.DECRYPT_FAILS : Obj := ⟨0x6000, 4, 0⟩
/-- 6000h:05h -/ def Od.BLOCKS_PROGRAMMED : Obj := ⟨0x6000, 5, 0⟩
/-- 6000h:06h -/ def Od.PEER_AMBIGUOUS : Obj := ⟨0x6000, 6, 0⟩
/-- 6000h:07h -/ def Od.SWITCHES : Obj := ⟨0x6000, 7, 0⟩
/-- 6000h:10h -/ def Od.WRAP_FLAGS_WT : Obj := ⟨0x6000, 16, 0⟩
/-- 6001h:01h -/ def Od.MERIDIAN_TIMEOUT : Obj := ⟨0x6001, 1, 0⟩
/-- 6001h:02h -/ def Od.ADAPTER_IDLE_TICKS : Obj := ⟨0x6001, 2, 0⟩
/-- 6010h:01h -/ def Od.VER_SEL (i : Nat) : Obj := ⟨0x6010, 1, i⟩
/-- 6011h:01h -/ def Od.VER_STATE (i : Nat) : Obj := ⟨0x6011, 1, i⟩
/-- 6011h:02h -/ def Od.VER_NUMBER (i : Nat) : Obj := ⟨0x6011, 2, i⟩
/-- 6011h:03h -/ def Od.VER_JOB (i : Nat) : Obj := ⟨0x6011, 3, i⟩
/-- 6011h:04h -/ def Od.VER_TENANT (i : Nat) : Obj := ⟨0x6011, 4, i⟩
/-- 6011h:05h -/ def Od.VER_SLICE (i : Nat) : Obj := ⟨0x6011, 5, i⟩
/-- 6011h:06h -/ def Od.VER_SOURCE (i : Nat) : Obj := ⟨0x6011, 6, i⟩
/-- 6011h:07h -/ def Od.VER_PEER (i : Nat) : Obj := ⟨0x6011, 7, i⟩
/-- 6011h:08h -/ def Od.VER_LOADER (i : Nat) : Obj := ⟨0x6011, 8, i⟩
/-- 6011h:09h -/ def Od.VER_DRAIN (i : Nat) : Obj := ⟨0x6011, 9, i⟩
/-- 6011h:0Ah -/ def Od.VER_SEALED (i : Nat) : Obj := ⟨0x6011, 10, i⟩
/-- 6011h:0Bh -/ def Od.VER_KEY (i : Nat) : Obj := ⟨0x6011, 11, i⟩
/-- 6011h:0Ch -/ def Od.VER_LOAD_EST_TICKS (i : Nat) : Obj := ⟨0x6011, 12, i⟩
/-- 6011h:0Dh -/ def Od.VER_BLOCKS (i : Nat) : Obj := ⟨0x6011, 13, i⟩
/-- 6011h:0Eh -/ def Od.VER_BLOCKS_DONE (i : Nat) : Obj := ⟨0x6011, 14, i⟩
/-- 6011h:0Fh -/ def Od.VER_PINS (i : Nat) : Obj := ⟨0x6011, 15, i⟩
/-- 6011h:10h -/ def Od.VER_FIXED (i : Nat) : Obj := ⟨0x6011, 16, i⟩
/-- 6011h:11h -/ def Od.VER_REASON (i : Nat) : Obj := ⟨0x6011, 17, i⟩
/-- 6011h:12h -/ def Od.VER_DONE_TIME (i : Nat) : Obj := ⟨0x6011, 18, i⟩
/-- 6012h:01h -/ def Od.VER_CREATE (i : Nat) : Obj := ⟨0x6012, 1, i⟩
/-- 6012h:02h -/ def Od.VER_COMMIT (i : Nat) : Obj := ⟨0x6012, 2, i⟩
/-- 6012h:03h -/ def Od.VER_SWITCH (i : Nat) : Obj := ⟨0x6012, 3, i⟩
/-- 6012h:04h -/ def Od.VER_DELETE (i : Nat) : Obj := ⟨0x6012, 4, i⟩
/-- 6020h:01h -/ def Od.ADAPTER_SEL (i : Nat) : Obj := ⟨0x6020, 1, i⟩
/-- 6021h:01h -/ def Od.AD_TENANT (i : Nat) : Obj := ⟨0x6021, 1, i⟩
/-- 6021h:02h -/ def Od.AD_JOB (i : Nat) : Obj := ⟨0x6021, 2, i⟩
/-- 6021h:03h -/ def Od.AD_CURRENT_GEN (i : Nat) : Obj := ⟨0x6021, 3, i⟩
/-- 6021h:04h -/ def Od.AD_LOADING_GEN (i : Nat) : Obj := ⟨0x6021, 4, i⟩
/-- 6021h:05h -/ def Od.AD_RETIRING (i : Nat) : Obj := ⟨0x6021, 5, i⟩
/-- 6021h:06h -/ def Od.AD_OFFSET (i : Nat) : Obj := ⟨0x6021, 6, i⟩
/-- 6021h:07h -/ def Od.AD_BYTES_PER_RANK (i : Nat) : Obj := ⟨0x6021, 7, i⟩
/-- 6021h:08h -/ def Od.AD_REFS (i : Nat) : Obj := ⟨0x6021, 8, i⟩
/-- 6022h:01h -/ def Od.ADAPTER_DELETE : Obj := ⟨0x6022, 1, 0⟩
/-- 6023h:01h -/ def Od.ADAPTERS_IN_USE : Obj := ⟨0x6023, 1, 0⟩
/-- 7000h:01h -/ def Od.TRANSIT_EN : Obj := ⟨0x7000, 1, 0⟩
/-- 7000h:02h -/ def Od.TRANSIT_PERIOD_S : Obj := ⟨0x7000, 2, 0⟩
/-- 7000h:03h -/ def Od.SHADOW_WINDOW_TICKS : Obj := ⟨0x7000, 3, 0⟩
/-- 7000h:04h -/ def Od.TRANSIT_WINDOW_MAX : Obj := ⟨0x7000, 4, 0⟩
/-- 7000h:05h -/ def Od.TRANSIT_COPY_MAX : Obj := ⟨0x7000, 5, 0⟩
/-- 7000h:06h -/ def Od.SHADOW_MIN_PAIRS : Obj := ⟨0x7000, 6, 0⟩
/-- 7000h:07h -/ def Od.MISMATCH_LSB : Obj := ⟨0x7000, 7, 0⟩
/-- 7000h:08h -/ def Od.MISMATCH_COUNT : Obj := ⟨0x7000, 8, 0⟩
/-- 7000h:09h -/ def Od.MISMATCH_GAIN : Obj := ⟨0x7000, 9, 0⟩
/-- 7000h:0Ah -/ def Od.MISMATCH_OFFSET : Obj := ⟨0x7000, 10, 0⟩
/-- 7001h:01h -/ def Od.TRANSITS_DONE : Obj := ⟨0x7001, 1, 0⟩
/-- 7001h:02h -/ def Od.TRANSIT_RETIREMENTS : Obj := ⟨0x7001, 2, 0⟩
/-- 7001h:03h -/ def Od.TRANSIT_ABANDONS : Obj := ⟨0x7001, 3, 0⟩
/-- 7001h:04h -/ def Od.TRANSIT_UNJUDGED : Obj := ⟨0x7001, 4, 0⟩
/-- 7001h:05h -/ def Od.SHADOW_PAIRS : Obj := ⟨0x7001, 5, 0⟩
/-- 7001h:06h -/ def Od.SHADOW_SKIPS : Obj := ⟨0x7001, 6, 0⟩
/-- 7001h:07h -/ def Od.TRANSIT_AMBIGUOUS : Obj := ⟨0x7001, 7, 0⟩
/-- 7001h:10h -/ def Od.WRAP_FLAGS_CAL : Obj := ⟨0x7001, 16, 0⟩
/-- 7010h:01h -/ def Od.CAL_DIE_SEL (i : Nat) : Obj := ⟨0x7010, 1, i⟩
/-- 7010h:02h -/ def Od.CAL_CLUSTER_SEL (i : Nat) : Obj := ⟨0x7010, 2, i⟩
/-- 7010h:03h -/ def Od.CAL_ARRAY_SEL (i : Nat) : Obj := ⟨0x7010, 3, i⟩
/-- 7011h:01h -/ def Od.SPARE_A (i : Nat) : Obj := ⟨0x7011, 1, i⟩
/-- 7011h:02h -/ def Od.SPARE_B (i : Nat) : Obj := ⟨0x7011, 2, i⟩
/-- 7011h:03h -/ def Od.TRANSIT_STATE (i : Nat) : Obj := ⟨0x7011, 3, i⟩
/-- 7011h:04h -/ def Od.TRANSIT_TARGET (i : Nat) : Obj := ⟨0x7011, 4, i⟩
/-- 7011h:05h -/ def Od.TRANSIT_INCOMING (i : Nat) : Obj := ⟨0x7011, 5, i⟩
/-- 7011h:06h -/ def Od.TRANSIT_START (i : Nat) : Obj := ⟨0x7011, 6, i⟩
/-- 7011h:07h -/ def Od.SPARES_RESTED (i : Nat) : Obj := ⟨0x7011, 7, i⟩
/-- 7012h:01h -/ def Od.LAST_CLEAN_TIME (i : Nat) : Obj := ⟨0x7012, 1, i⟩
/-- 7012h:02h -/ def Od.NEXT_DUE (i : Nat) : Obj := ⟨0x7012, 2, i⟩
/-- 7012h:03h -/ def Od.TRANSIT_COUNT (i : Nat) : Obj := ⟨0x7012, 3, i⟩
/-- 7012h:04h -/ def Od.VERIFY_TEMP (i : Nat) : Obj := ⟨0x7012, 4, i⟩
/-- 7012h:05h -/ def Od.RAMP_LEFT (i : Nat) : Obj := ⟨0x7012, 5, i⟩
/-- 7012h:06h -/ def Od.LAST_VERDICT (i : Nat) : Obj := ⟨0x7012, 6, i⟩
/-- 7013h:01h -/ def Od.CAL_CORR_SEL (i : Nat) : Obj := ⟨0x7013, 1, i⟩
/-- 7013h:02h -/ def Od.OFFSET_TARGET (i : Nat) : Obj := ⟨0x7013, 2, i⟩
/-- 7013h:03h -/ def Od.GAIN_TARGET (i : Nat) : Obj := ⟨0x7013, 3, i⟩
/-- 7013h:04h -/ def Od.OFFSET_REST (i : Nat) : Obj := ⟨0x7013, 4, i⟩
/-- 7013h:05h -/ def Od.GAIN_CONV (i : Nat) : Obj := ⟨0x7013, 5, i⟩
/-- 7020h:01h -/ def Od.EXPOSURE_COUNT : Obj := ⟨0x7020, 1, 0⟩
/-- 7020h:02h -/ def Od.EXPOSURE_SEL (i : Nat) : Obj := ⟨0x7020, 2, i⟩
/-- 7021h:01h -/ def Od.EXPOSURE_RECORD (i : Nat) : Obj := ⟨0x7021, 1, i⟩
/-- 1100h:01h -/ def Od.MAC_ADDRESS : Obj := ⟨0x1100, 1, 0⟩
/-- 1100h:02h -/ def Od.SERVICE_VLAN : Obj := ⟨0x1100, 2, 0⟩
/-- 1100h:03h -/ def Od.MGMT_VLAN : Obj := ⟨0x1100, 3, 0⟩
/-- 1100h:04h -/ def Od.SERVICE_IPV4 : Obj := ⟨0x1100, 4, 0⟩
/-- 1100h:05h -/ def Od.SERVICE_IPV6 : Obj := ⟨0x1100, 5, 0⟩
/-- 1100h:06h -/ def Od.MGMT_IPV4 : Obj := ⟨0x1100, 6, 0⟩
/-- 1100h:07h -/ def Od.MGMT_IPV6 : Obj := ⟨0x1100, 7, 0⟩
/-- 1100h:08h -/ def Od.MBT_UDP_PORT : Obj := ⟨0x1100, 8, 0⟩
/-- 1100h:09h -/ def Od.PFC_ENABLE : Obj := ⟨0x1100, 9, 0⟩
/-- 1100h:0Ah -/ def Od.PCP_MAP : Obj := ⟨0x1100, 10, 0⟩
/-- 1100h:0Bh -/ def Od.MGMT_PCP : Obj := ⟨0x1100, 11, 0⟩
/-- 1100h:0Ch -/ def Od.PTP_DOMAIN : Obj := ⟨0x1100, 12, 0⟩
/-- 1100h:0Dh -/ def Od.PTP_VLAN : Obj := ⟨0x1100, 13, 0⟩
/-- 1101h:01h -/ def Od.SESSION_TIMEOUT : Obj := ⟨0x1101, 1, 0⟩
/-- 1101h:02h -/ def Od.KEEPALIVE_TICKS : Obj := ⟨0x1101, 2, 0⟩
/-- 1101h:03h -/ def Od.RTO_MIN_TICKS : Obj := ⟨0x1101, 3, 0⟩
/-- 1101h:04h -/ def Od.RETX_MAX : Obj := ⟨0x1101, 4, 0⟩
/-- 1101h:05h -/ def Od.ACK_DELAY_TICKS : Obj := ⟨0x1101, 5, 0⟩
/-- 1102h:01h -/ def Od.FRAMES_RX : Obj := ⟨0x1102, 1, 0⟩
/-- 1102h:02h -/ def Od.FRAMES_TX : Obj := ⟨0x1102, 2, 0⟩
/-- 1102h:03h -/ def Od.FRAMES_DISCARDED : Obj := ⟨0x1102, 3, 0⟩
/-- 1102h:04h -/ def Od.FEC_CORRECTED : Obj := ⟨0x1102, 4, 0⟩
/-- 1102h:05h -/ def Od.FEC_UNCORRECTED : Obj := ⟨0x1102, 5, 0⟩
/-- 1102h:06h -/ def Od.MBT_RETRANSMITS : Obj := ⟨0x1102, 6, 0⟩
/-- 1102h:07h -/ def Od.MBT_DUPLICATES : Obj := ⟨0x1102, 7, 0⟩
/-- 1102h:08h -/ def Od.TAG_FAILS : Obj := ⟨0x1102, 8, 0⟩
/-- 1102h:09h -/ def Od.EVENTS_DROPPED : Obj := ⟨0x1102, 9, 0⟩
/-- 1102h:0Ah -/ def Od.SESSIONS_LOST : Obj := ⟨0x1102, 10, 0⟩
/-- 1102h:10h -/ def Od.WRAP_FLAGS_HOST : Obj := ⟨0x1102, 16, 0⟩
/-- 1103h:01h -/ def Od.HOST_LINK_STATE : Obj := ⟨0x1103, 1, 0⟩
/-- 1103h:02h -/ def Od.SYNCE_QL : Obj := ⟨0x1103, 2, 0⟩
/-- 1103h:03h -/ def Od.SESSIONS_OPEN : Obj := ⟨0x1103, 3, 0⟩
/-- 1103h:04h -/ def Od.CREDIT_POOL_FREE : Obj := ⟨0x1103, 4, 0⟩
/-- 4000h:01h -/ def Od.FABRIC_COORD : Obj := ⟨0x4000, 1, 0⟩
/-- 4000h:02h -/ def Od.LOS_DEBOUNCE_TICKS : Obj := ⟨0x4000, 2, 0⟩
/-- 4000h:03h -/ def Od.PROBE_TIMEOUT_TICKS : Obj := ⟨0x4000, 3, 0⟩
/-- 4000h:04h -/ def Od.FAB_RETIRE_THRESHOLD : Obj := ⟨0x4000, 4, 0⟩
/-- 4001h:01h -/ def Od.PORT_SEL (i : Nat) : Obj := ⟨0x4001, 1, i⟩
/-- 4002h:01h -/ def Od.PORT_STATE (i : Nat) : Obj := ⟨0x4002, 1, i⟩
/-- 4002h:02h -/ def Od.NEIGHBOUR_COORD (i : Nat) : Obj := ⟨0x4002, 2, i⟩
/-- 4002h:03h -/ def Od.NEIGHBOUR_EPOCH (i : Nat) : Obj := ⟨0x4002, 3, i⟩
/-- 4002h:04h -/ def Od.LINK_DELAY_PS (i : Nat) : Obj := ⟨0x4002, 4, i⟩
/-- 4002h:05h -/ def Od.PORT_REPLAYS (i : Nat) : Obj := ⟨0x4002, 5, i⟩
/-- 4002h:06h -/ def Od.PORT_DOWN_REASON (i : Nat) : Obj := ⟨0x4002, 6, i⟩
/-- 4002h:07h -/ def Od.PORT_RETRAIN (i : Nat) : Obj := ⟨0x4002, 7, i⟩
/-- 4003h:01h -/ def Od.FAB_FLITS_TX : Obj := ⟨0x4003, 1, 0⟩
/-- 4003h:02h -/ def Od.FAB_FLITS_RX : Obj := ⟨0x4003, 2, 0⟩
/-- 4003h:03h -/ def Od.FAB_REPLAYS : Obj := ⟨0x4003, 3, 0⟩
/-- 4003h:04h -/ def Od.FAB_POISONED_FLITS : Obj := ⟨0x4003, 4, 0⟩
/-- 4003h:05h -/ def Od.FAB_DROPPED_MESSAGES : Obj := ⟨0x4003, 5, 0⟩
/-- 4003h:06h -/ def Od.FAB_RESENDS : Obj := ⟨0x4003, 6, 0⟩
/-- 4003h:07h -/ def Od.MEMBER_NOTICES : Obj := ⟨0x4003, 7, 0⟩
/-- 4003h:08h -/ def Od.RESEND_STORE_WAITS : Obj := ⟨0x4003, 8, 0⟩
/-- 4003h:10h -/ def Od.WRAP_FLAGS_FAB : Obj := ⟨0x4003, 16, 0⟩
/-- 4004h:01h -/ def Od.BYPASS_STATE : Obj := ⟨0x4004, 1, 0⟩
/-- 4004h:02h -/ def Od.REJOIN : Obj := ⟨0x4004, 2, 0⟩
/-- 4004h:03h -/ def Od.EXPECT_PORT : Obj := ⟨0x4004, 3, 0⟩
/-- 4004h:04h -/ def Od.EXPECT_UNTIL : Obj := ⟨0x4004, 4, 0⟩
/-- 4010h:01h -/ def Od.SLICE_SEL (i : Nat) : Obj := ⟨0x4010, 1, i⟩
/-- 4011h:01h -/ def Od.SLICE_ID (i : Nat) : Obj := ⟨0x4011, 1, i⟩
/-- 4011h:02h -/ def Od.SLICE_ORIGIN (i : Nat) : Obj := ⟨0x4011, 2, i⟩
/-- 4011h:03h -/ def Od.SLICE_EXTENT (i : Nat) : Obj := ⟨0x4011, 3, i⟩
/-- 4011h:04h -/ def Od.SLICE_WRAP (i : Nat) : Obj := ⟨0x4011, 4, i⟩
/-- 4011h:05h -/ def Od.SLICE_MASK (i : Nat) : Obj := ⟨0x4011, 5, i⟩
/-- 4011h:06h -/ def Od.SLICE_STATE (i : Nat) : Obj := ⟨0x4011, 6, i⟩
/-- 4011h:07h -/ def Od.SLICE_NCL (i : Nat) : Obj := ⟨0x4011, 7, i⟩
/-- 4011h:08h -/ def Od.SLICE_LOST (i : Nat) : Obj := ⟨0x4011, 8, i⟩
/-- 1000h:01h -/ def Od.VENDOR_ID : Obj := ⟨0x1000, 1, 0⟩
/-- 1000h:02h -/ def Od.PART_NUMBER : Obj := ⟨0x1000, 2, 0⟩
/-- 1000h:03h -/ def Od.SERIAL_NUMBER : Obj := ⟨0x1000, 3, 0⟩
/-- 1000h:04h -/ def Od.STEPPING : Obj := ⟨0x1000, 4, 0⟩
/-- 1000h:05h -/ def Od.FIRMWARE_VERSION : Obj := ⟨0x1000, 5, 0⟩
/-- 1000h:06h -/ def Od.OD_VERSION : Obj := ⟨0x1000, 6, 0⟩
/-- 2000h:01h -/ def Od.MODULE_ENABLE : Obj := ⟨0x2000, 1, 0⟩
/-- 2000h:02h -/ def Od.MODULE_REASON : Obj := ⟨0x2000, 2, 0⟩
/-- 2000h:03h -/ def Od.LAST_CHECK_OBJECT (i : Nat) : Obj := ⟨0x2000, 3, i⟩
/-- 2000h:04h -/ def Od.MODULE_STATE : Obj := ⟨0x2000, 4, 0⟩
/-- 2000h:05h -/ def Od.CHECK_ONLY : Obj := ⟨0x2000, 5, 0⟩
/-- 2000h:06h -/ def Od.RESTORE_DEFAULTS : Obj := ⟨0x2000, 6, 0⟩
/-- 2310h:01h -/ def Od.TRIP_LATCH_A0800 : Obj := ⟨0x2310, 1, 0⟩
/-- 8000h:01h -/ def Od.HEARTBEAT : Obj := ⟨0x8000, 1, 0⟩
/-- 8000h:02h -/ def Od.HEARTBEAT_CORES : Obj := ⟨0x8000, 2, 0⟩
/-- 8000h:03h -/ def Od.HOLD_ALARM_TICKS : Obj := ⟨0x8000, 3, 0⟩
/-- 8001h:01h -/ def Od.RESET_CLUSTER : Obj := ⟨0x8001, 1, 0⟩
/-- 8001h:02h -/ def Od.RESET_DIE : Obj := ⟨0x8001, 2, 0⟩
/-- 8001h:03h -/ def Od.RESET_MODULE : Obj := ⟨0x8001, 3, 0⟩
/-- 8001h:04h -/ def Od.RESETS : Obj := ⟨0x8001, 4, 0⟩
/-- 8001h:05h -/ def Od.LAST_RESET_CAUSE : Obj := ⟨0x8001, 5, 0⟩
/-- 8001h:06h -/ def Od.LAST_RESET_FORESEEN : Obj := ⟨0x8001, 6, 0⟩
/-- 8001h:07h -/ def Od.RECOVERY_STATE : Obj := ⟨0x8001, 7, 0⟩
/-- 8002h:01h -/ def Od.FAULT_LOG_SEQ : Obj := ⟨0x8002, 1, 0⟩
/-- 8002h:02h -/ def Od.FAULT_SEL (i : Nat) : Obj := ⟨0x8002, 2, i⟩
/-- 8002h:03h -/ def Od.FAULT_RECORD (i : Nat) : Obj := ⟨0x8002, 3, i⟩
/-- 8003h:01h -/ def Od.RESIDUE_RETIRE_COUNT : Obj := ⟨0x8003, 1, 0⟩
/-- 8003h:02h -/ def Od.RESIDUE_WINDOW_TICKS : Obj := ⟨0x8003, 2, 0⟩
/-- 8004h:01h -/ def Od.DUMP_VALID : Obj := ⟨0x8004, 1, 0⟩
/-- 8004h:02h -/ def Od.DUMP_LEN : Obj := ⟨0x8004, 2, 0⟩
/-- 8004h:03h -/ def Od.DUMP_TIME : Obj := ⟨0x8004, 3, 0⟩
/-- 8004h:04h -/ def Od.DUMP_LEVEL : Obj := ⟨0x8004, 4, 0⟩
/-- 8004h:05h -/ def Od.DUMP_OFFSET (i : Nat) : Obj := ⟨0x8004, 5, i⟩
/-- 8004h:06h -/ def Od.DUMP_DATA (i : Nat) : Obj := ⟨0x8004, 6, i⟩
/-- 8004h:07h -/ def Od.DUMP_CLEAR : Obj := ⟨0x8004, 7, 0⟩
/-- 8004h:08h -/ def Od.DUMP_LOCK : Obj := ⟨0x8004, 8, 0⟩
/-- 8005h:01h -/ def Od.PREFLIGHT_EN : Obj := ⟨0x8005, 1, 0⟩
/-- 8005h:02h -/ def Od.PACKS_LOADED : Obj := ⟨0x8005, 2, 0⟩
/-- 8005h:03h -/ def Od.FRAGMENTS_RUN : Obj := ⟨0x8005, 3, 0⟩
/-- 8005h:04h -/ def Od.FRAGMENTS_FAILED : Obj := ⟨0x8005, 4, 0⟩
/-- 8005h:05h -/ def Od.FRAGMENTS_STOPPED : Obj := ⟨0x8005, 5, 0⟩
/-- 8005h:06h -/ def Od.ROUND_TICKS_MAX : Obj := ⟨0x8005, 6, 0⟩
/-- 8005h:10h -/ def Od.WRAP_FLAGS_PF : Obj := ⟨0x8005, 16, 0⟩
/-- 8006h:01h -/ def Od.POISONED_REQUESTS : Obj := ⟨0x8006, 1, 0⟩
/-- 8006h:02h -/ def Od.POISONED_JOBS : Obj := ⟨0x8006, 2, 0⟩
/-- 8006h:10h -/ def Od.WRAP_FLAGS_POIS : Obj := ⟨0x8006, 16, 0⟩
/-- D+18h:01h -/ def Od.DIE_RESET_STATE (n : Nat) : Obj := ⟨0x3018 + 0x100 * n, 1, 0⟩
/-- D+18h:02h -/ def Od.DIE_RESETS (n : Nat) : Obj := ⟨0x3018 + 0x100 * n, 2, 0⟩
/-- 2001h:01h -/ def Od.REF_STATE : Obj := ⟨0x2001, 1, 0⟩
/-- 2001h:02h -/ def Od.RING_DIV : Obj := ⟨0x2001, 2, 0⟩
/-- 2001h:03h -/ def Od.SRAM_DIV : Obj := ⟨0x2001, 3, 0⟩
/-- 2001h:04h -/ def Od.REF_LOSSES : Obj := ⟨0x2001, 4, 0⟩
/-- 2002h:01h -/ def Od.RETAIN_IDLE_TICKS : Obj := ⟨0x2002, 1, 0⟩
/-- 2002h:02h -/ def Od.RETAIN_WAKE_S : Obj := ⟨0x2002, 2, 0⟩
/-- 2003h:01h -/ def Od.FAB_PORT_PWR (b : Nat) : Obj := ⟨0x2003, 1 + b, 0⟩
/-- 2300h:01h -/ def Od.VENT_SETPOINT : Obj := ⟨0x2300, 1, 0⟩
/-- 2300h:02h -/ def Od.VENT_GAIN_PCT : Obj := ⟨0x2300, 2, 0⟩
/-- 2300h:03h -/ def Od.VENT_FLOOR_PCT : Obj := ⟨0x2300, 3, 0⟩
/-- 2300h:04h -/ def Od.TRIP_TEMP : Obj := ⟨0x2300, 4, 0⟩
/-- 2300h:05h -/ def Od.THERMAL_STATE : Obj := ⟨0x2300, 5, 0⟩
/-- 2300h:06h -/ def Od.TRIPS : Obj := ⟨0x2300, 6, 0⟩
/-- 2300h:07h -/ def Od.TRIP_DIE : Obj := ⟨0x2300, 7, 0⟩
/-- 2300h:08h -/ def Od.THERMAL_RESTART : Obj := ⟨0x2300, 8, 0⟩
/-- 2301h:01h -/ def Od.SENSOR_SEL (i : Nat) : Obj := ⟨0x2301, 1, i⟩
/-- 2301h:02h -/ def Od.SENSOR_TEMP (i : Nat) : Obj := ⟨0x2301, 2, i⟩
/-- 2301h:03h -/ def Od.SENSOR_PLAUSIBLE (i : Nat) : Obj := ⟨0x2301, 3, i⟩
/-- 2301h:04h -/ def Od.SENSOR_EXCLUDE (i : Nat) : Obj := ⟨0x2301, 4, i⟩
/-- 2301h:05h -/ def Od.SENSOR_TRIM (i : Nat) : Obj := ⟨0x2301, 5, i⟩
/-- D+00h:01h -/ def Od.DIE_IDLE_OPP (n : Nat) : Obj := ⟨0x3000 + 0x100 * n, 1, 0⟩
/-- D+00h:02h -/ def Od.DIE_OPP (n : Nat) : Obj := ⟨0x3000 + 0x100 * n, 2, 0⟩
/-- D+00h:03h -/ def Od.RING_PWR (n : Nat) : Obj := ⟨0x3000 + 0x100 * n, 3, 0⟩
/-- D+01h:01h -/ def Od.CL_PWR_REQ (n i : Nat) : Obj := ⟨0x3001 + 0x100 * n, 1, i⟩
/-- D+01h:02h -/ def Od.CL_COMPUTE_PWR (n i : Nat) : Obj := ⟨0x3001 + 0x100 * n, 2, i⟩
/-- D+01h:03h -/ def Od.CL_SRAM_PWR (n i : Nat) : Obj := ⟨0x3001 + 0x100 * n, 3, i⟩
/-- D+02h:01h -/ def Od.ACT_CEILING (n : Nat) : Obj := ⟨0x3002 + 0x100 * n, 1, 0⟩
/-- D+02h:02h -/ def Od.CEILING_NOW (n : Nat) : Obj := ⟨0x3002 + 0x100 * n, 2, 0⟩
/-- D+02h:03h -/ def Od.VENT_TEMP (n : Nat) : Obj := ⟨0x3002 + 0x100 * n, 3, 0⟩
/-- D+02h:04h -/ def Od.VENT_STATE (n : Nat) : Obj := ⟨0x3002 + 0x100 * n, 4, 0⟩
/-- D+02h:05h -/ def Od.IMPLAUSIBLE_SENSORS (n : Nat) : Obj := ⟨0x3002 + 0x100 * n, 5, 0⟩
/-- D+03h:01h -/ def Od.VENT_WINDOWS (n : Nat) : Obj := ⟨0x3003 + 0x100 * n, 1, 0⟩
/-- D+03h:02h -/ def Od.FLOOR_WINDOWS (n : Nat) : Obj := ⟨0x3003 + 0x100 * n, 2, 0⟩
/-- D+03h:03h -/ def Od.OPP_CHANGES (n : Nat) : Obj := ⟨0x3003 + 0x100 * n, 3, 0⟩
/-- D+03h:10h -/ def Od.WRAP_FLAGS_DIE (n : Nat) : Obj := ⟨0x3003 + 0x100 * n, 16, 0⟩
/-- 9000h:01h -/ def Od.OPERATOR_KEY : Obj := ⟨0x9000, 1, 0⟩
/-- 9000h:02h -/ def Od.OPERATOR_KEY_SET : Obj := ⟨0x9000, 2, 0⟩
/-- 9000h:03h -/ def Od.AUTH_FAILS : Obj := ⟨0x9000, 3, 0⟩
/-- 9000h:10h -/ def Od.WRAP_FLAGS_SEC : Obj := ⟨0x9000, 16, 0⟩
/-- 9010h:01h -/ def Od.TENANT_SEL (i : Nat) : Obj := ⟨0x9010, 1, i⟩
/-- 9011h:01h -/ def Od.TENANT_STATE (i : Nat) : Obj := ⟨0x9011, 1, i⟩
/-- 9011h:02h -/ def Od.TENANT_KEY (i : Nat) : Obj := ⟨0x9011, 2, i⟩
/-- 9011h:03h -/ def Od.TENANT_PRIVILEGED (i : Nat) : Obj := ⟨0x9011, 3, i⟩
/-- 9011h:04h -/ def Od.TENANT_KV8 (i : Nat) : Obj := ⟨0x9011, 4, i⟩
/-- 9011h:05h -/ def Od.TENANT_JOBS (i : Nat) : Obj := ⟨0x9011, 5, i⟩
/-- 9011h:06h -/ def Od.TENANT_SRAM_QUOTA (i : Nat) : Obj := ⟨0x9011, 6, i⟩
/-- 9011h:07h -/ def Od.TENANT_SRAM_USED (i : Nat) : Obj := ⟨0x9011, 7, i⟩
/-- 9011h:08h -/ def Od.TENANT_CONTEXT_LIMIT (i : Nat) : Obj := ⟨0x9011, 8, i⟩
/-- 9011h:09h -/ def Od.TENANT_CONTEXTS (i : Nat) : Obj := ⟨0x9011, 9, i⟩
/-- 9011h:0Ah -/ def Od.TENANT_DELETE (i : Nat) : Obj := ⟨0x9011, 10, i⟩
/-- 9020h:01h -/ def Od.UPDATE_OFFSET (i : Nat) : Obj := ⟨0x9020, 1, i⟩
/-- 9020h:02h -/ def Od.UPDATE_DATA (i : Nat) : Obj := ⟨0x9020, 2, i⟩
/-- 9020h:03h -/ def Od.UPDATE_COMMIT : Obj := ⟨0x9020, 3, 0⟩
/-- 9020h:04h -/ def Od.ITEM_SEL (i : Nat) : Obj := ⟨0x9020, 4, i⟩
/-- 9020h:05h -/ def Od.ITEM_VERSION (i : Nat) : Obj := ⟨0x9020, 5, i⟩
/-- 9030h:01h -/ def Od.IDENTITY_CERT : Obj := ⟨0x9030, 1, 0⟩
/-- 9030h:02h -/ def Od.KEM_PUBLIC : Obj := ⟨0x9030, 2, 0⟩
/-- 9030h:03h -/ def Od.SIGN_INDEX : Obj := ⟨0x9030, 3, 0⟩
/-- 9030h:04h -/ def Od.SIGNS_LEFT : Obj := ⟨0x9030, 4, 0⟩
/-- 9030h:05h -/ def Od.KEM_ROTATE : Obj := ⟨0x9030, 5, 0⟩
/-- 9030h:06h -/ def Od.ATTEST_SIGN : Obj := ⟨0x9030, 6, 0⟩
/-- 9030h:07h -/ def Od.ATTEST_REPORT : Obj := ⟨0x9030, 7, 0⟩
/-- 9030h:08h -/ def Od.ATTEST_MIN_S : Obj := ⟨0x9030, 8, 0⟩
/-- 9040h:01h -/ def Od.KEY_SEL (i : Nat) : Obj := ⟨0x9040, 1, i⟩
/-- 9041h:01h -/ def Od.KEY_STATE (i : Nat) : Obj := ⟨0x9041, 1, i⟩
/-- 9041h:02h -/ def Od.KEY_TENANT (i : Nat) : Obj := ⟨0x9041, 2, i⟩
/-- 9041h:03h -/ def Od.KEY_HANDLE (i : Nat) : Obj := ⟨0x9041, 3, i⟩
/-- 9042h:01h -/ def Od.KEY_INSTALL : Obj := ⟨0x9042, 1, 0⟩
/-- 9042h:02h -/ def Od.KEY_DELETE : Obj := ⟨0x9042, 2, 0⟩
/-- A000h:01h -/ def Od.ZENITH_MODE : Obj := ⟨0xA000, 1, 0⟩
/-- A000h:02h -/ def Od.ZENITH_BAUD : Obj := ⟨0xA000, 2, 0⟩
/-- A000h:03h -/ def Od.BOOT_STAGE : Obj := ⟨0xA000, 3, 0⟩
/-- A001h:01h -/ def Od.DBG_JOB (i : Nat) : Obj := ⟨0xA001, 1, i⟩
/-- A001h:02h -/ def Od.DBG_STOP : Obj := ⟨0xA001, 2, 0⟩
/-- A001h:03h -/ def Od.DBG_RESUME : Obj := ⟨0xA001, 3, 0⟩
/-- A001h:04h -/ def Od.DBG_STEP : Obj := ⟨0xA001, 4, 0⟩
/-- A001h:05h -/ def Od.DBG_JOB_STATE : Obj := ⟨0xA001, 5, 0⟩
/-- A002h:01h -/ def Od.DBG_CL_SEL (i : Nat) : Obj := ⟨0xA002, 1, i⟩
/-- A002h:02h -/ def Od.DBG_PC (i : Nat) : Obj := ⟨0xA002, 2, i⟩
/-- A002h:03h -/ def Od.DBG_REG_SEL (i : Nat) : Obj := ⟨0xA002, 3, i⟩
/-- A002h:04h -/ def Od.DBG_SREG (i : Nat) : Obj := ⟨0xA002, 4, i⟩
/-- A002h:05h -/ def Od.DBG_VREG (i : Nat) : Obj := ⟨0xA002, 5, i⟩
/-- A002h:06h -/ def Od.DBG_PREG (i : Nat) : Obj := ⟨0xA002, 6, i⟩
/-- A002h:07h -/ def Od.DBG_SRAM_OFFSET (i : Nat) : Obj := ⟨0xA002, 7, i⟩
/-- A002h:08h -/ def Od.DBG_SRAM (i : Nat) : Obj := ⟨0xA002, 8, i⟩
/-- A010h:01h -/ def Od.ECL_MODE : Obj := ⟨0xA010, 1, 0⟩
/-- A010h:02h -/ def Od.ECL_SCOPE : Obj := ⟨0xA010, 2, 0⟩
/-- A010h:03h -/ def Od.ECL_SLICE : Obj := ⟨0xA010, 3, 0⟩
/-- A010h:04h -/ def Od.ECL_TICK : Obj := ⟨0xA010, 4, 0⟩
/-- A010h:05h -/ def Od.ECL_STATE : Obj := ⟨0xA010, 5, 0⟩
/-- A010h:06h -/ def Od.ECL_LOCK : Obj := ⟨0xA010, 6, 0⟩
/-- A011h:01h -/ def Od.ECLIPSES : Obj := ⟨0xA011, 1, 0⟩
/-- A011h:02h -/ def Od.ECL_MISSED : Obj := ⟨0xA011, 2, 0⟩
/-- A011h:10h -/ def Od.WRAP_FLAGS_ECL : Obj := ⟨0xA011, 16, 0⟩
/-- A012h:01h -/ def Od.SNAP_LEN : Obj := ⟨0xA012, 1, 0⟩
/-- A012h:02h -/ def Od.SNAP_TIME : Obj := ⟨0xA012, 2, 0⟩
/-- A012h:03h -/ def Od.SNAP_TRIGGER : Obj := ⟨0xA012, 3, 0⟩
/-- A012h:04h -/ def Od.SNAP_OFFSET (i : Nat) : Obj := ⟨0xA012, 4, i⟩
/-- A012h:05h -/ def Od.SNAP_DATA (i : Nat) : Obj := ⟨0xA012, 5, i⟩

def Od.rows0 : List ObjRow := [
  ⟨0x1000, 1, .u32, 4, .ro, 18498, 1, 0x0000, 0⟩,
  ⟨0x1000, 2, .str, 16, .ro, 889061849044700643912, 1, 0x0000, 0⟩,
  ⟨0x1000, 3, .str, 16, .ro, 0, 1, 0x0000, 0⟩,
  ⟨0x1000, 4, .u8, 1, .ro, 0, 1, 0x0000, 0⟩,
  ⟨0x1000, 5, .u32, 4, .ro, 0, 1, 0x0000, 0⟩,
  ⟨0x1000, 6, .u16, 2, .ro, 1, 1, 0x0000, 0⟩,
  ⟨0x1100, 1, .octets, 6, .ro, 0, 1, 0x0000, 0⟩,
  ⟨0x1100, 2, .u16, 2, .rwl, 2, 1, 0x2000, 1⟩,
  ⟨0x1100, 3, .u16, 2, .rwl, 4000, 1, 0x2000, 1⟩,
  ⟨0x1100, 4, .u32, 4, .rwl, 0, 1, 0x2000, 1⟩,
  ⟨0x1100, 5, .octets, 16, .rwl, 0, 1, 0x2000, 1⟩,
  ⟨0x1100, 6, .u32, 4, .rwl, 0, 1, 0x2000, 1⟩,
  ⟨0x1100, 7, .octets, 16, .rwl, 0, 1, 0x2000, 1⟩,
  ⟨0x1100, 8, .u16, 2, .rwl, 19778, 1, 0x2000, 1⟩,
  ⟨0x1100, 9, .u8, 1, .rwl, 0, 1, 0x2000, 1⟩,
  ⟨0x1100, 10, .u16, 2, .rwl, 309, 1, 0x2000, 1⟩,
  ⟨0x1100, 11, .u8, 1, .rwl, 6, 1, 0x2000, 1⟩,
  ⟨0x1100, 12, .u8, 1, .rwl, 0, 1, 0x2000, 1⟩,
  ⟨0x1100, 13, .u16, 2, .rwl, 4000, 1, 0x2000, 1⟩,
  ⟨0x1101, 1, .u32, 4, .rw, 212500000, 1, 0x0000, 0⟩,
  ⟨0x1101, 2, .u32, 4, .rw, 21250000, 1, 0x0000, 0⟩,
  ⟨0x1101, 3, .u32, 4, .rw, 21250, 1, 0x0000, 0⟩,
  ⟨0x1101, 4, .u8, 1, .rw, 8, 1, 0x0000, 0⟩,
  ⟨0x1101, 5, .u16, 2, .rw, 425, 1, 0x0000, 0⟩,
  ⟨0x1102, 1, .u64, 8, .ro, 0, 8, 0x0000, 0⟩,
  ⟨0x1102, 2, .u64, 8, .ro, 0, 8, 0x0000, 0⟩,
  ⟨0x1102, 3, .u64, 8, .ro, 0, 8, 0x0000, 0⟩,
  ⟨0x1102, 4, .u64, 8, .ro, 0, 8, 0x0000, 0⟩,
  ⟨0x1102, 5, .u64, 8, .ro, 0, 8, 0x0000, 0⟩,
  ⟨0x1102, 6, .u64, 8, .ro, 0, 8, 0x0000, 0⟩,
  ⟨0x1102, 7, .u64, 8, .ro, 0, 8, 0x0000, 0⟩,
  ⟨0x1102, 8, .u64, 8, .ro, 0, 8, 0x0000, 0⟩,
  ⟨0x1102, 9, .u64, 8, .ro, 0, 8, 0x0000, 0⟩,
  ⟨0x1102, 10, .u64, 8, .ro, 0, 8, 0x0000, 0⟩,
  ⟨0x1102, 16, .u16, 2, .rw, 0, 0, 0x0000, 0⟩,
  ⟨0x1103, 1, .u8, 1, .ro, 0, 0, 0x0000, 0⟩,
  ⟨0x1103, 2, .u8, 1, .ro, 15, 0, 0x0000, 0⟩,
  ⟨0x1103, 3, .u16, 2, .ro, 0, 0, 0x0000, 0⟩,
  ⟨0x1103, 4, .u16, 2, .ro, 4096, 0, 0x0000, 0⟩,
  ⟨0x1200, 1, .u64, 8, .ro, 0, 0, 0x0000, 0⟩,
  ⟨0x1200, 2, .u32, 4, .ro, 0, 0, 0x0000, 0⟩,
  ⟨0x1200, 3, .u8, 1, .ro, 0, 0, 0x0000, 0⟩,
  ⟨0x1200, 4, .bool, 1, .ro, 0, 0, 0x0000, 0⟩,
  ⟨0x1200, 5, .u32, 4, .ro, 0, 0, 0x0000, 0⟩,
  ⟨0x1200, 6, .u8, 1, .ro, 0, 0, 0x0000, 0⟩,
  ⟨0x1200, 7, .i32, 4, .ro, 0, 0, 0x0000, 0⟩,
  ⟨0x1200, 8, .i32, 4, .ro, 0, 0, 0x0000, 0⟩,
  ⟨0x1200, 9, .u32, 4, .rw, 1000, 1, 0x0000, 0⟩,
  ⟨0x1201, 1, .u64, 8, .ro, 0, 8, 0x0000, 0⟩,
  ⟨0x1201, 2, .u64, 8, .ro, 0, 8, 0x0000, 0⟩]

def Od.rows1 : List ObjRow := [
  ⟨0x1201, 3, .u64, 8, .ro, 0, 8, 0x0000, 0⟩,
  ⟨0x1201, 4, .u64, 8, .ro, 0, 8, 0x0000, 0⟩,
  ⟨0x1201, 5, .u64, 8, .ro, 0, 8, 0x0000, 0⟩,
  ⟨0x1201, 6, .u64, 8, .ro, 0, 8, 0x0000, 0⟩,
  ⟨0x1201, 16, .u16, 2, .rw, 0, 0, 0x0000, 0⟩,
  ⟨0x1202, 1, .u16, 2, .ro, 4096, 0, 0x0000, 0⟩,
  ⟨0x1202, 2, .u16, 2, .ro, 3840, 0, 0x0000, 0⟩,
  ⟨0x1203, 1, .u64, 8, .ro, 0, 4, 0x0000, 0⟩,
  ⟨0x1203, 2, .u64, 8, .ro, 0, 4, 0x0000, 0⟩,
  ⟨0x1203, 3, .u8, 1, .ro, 0, 4, 0x0000, 0⟩,
  ⟨0x2000, 1, .bool, 1, .rw, 0, 0, 0x0000, 0⟩,
  ⟨0x2000, 2, .u16, 2, .ro, 0, 0, 0x0000, 0⟩,
  ⟨0x2000, 3, .u32, 4, .ro, 4294967295, 2, 0x0000, 0⟩,
  ⟨0x2000, 4, .u8, 1, .ro, 0, 0, 0x0000, 0⟩,
  ⟨0x2000, 5, .bool, 1, .wo, 0, 0, 0x0000, 0⟩,
  ⟨0x2000, 6, .bool, 1, .wo, 0, 0, 0x0000, 0⟩,
  ⟨0x2001, 1, .u8, 1, .ro, 0, 0, 0x0000, 0⟩,
  ⟨0x2001, 2, .u8, 1, .rwl, 1, 1, 0x2000, 1⟩,
  ⟨0x2001, 3, .u8, 1, .rwl, 2, 1, 0x2000, 1⟩,
  ⟨0x2001, 4, .u64, 8, .ro, 0, 1, 0x0000, 0⟩,
  ⟨0x2002, 1, .u32, 4, .rw, 425, 1, 0x0000, 0⟩,
  ⟨0x2002, 2, .u32, 4, .rw, 60, 1, 0x0000, 0⟩,
  ⟨0x2003, 1, .u8, 1, .rw, 0, 0, 0x0000, 0⟩,
  ⟨0x2003, 2, .u8, 1, .rw, 0, 0, 0x0000, 0⟩,
  ⟨0x2003, 3, .u8, 1, .rw, 0, 0, 0x0000, 0⟩,
  ⟨0x2003, 4, .u8, 1, .rw, 0, 0, 0x0000, 0⟩,
  ⟨0x2003, 5, .u8, 1, .rw, 0, 0, 0x0000, 0⟩,
  ⟨0x2003, 6, .u8, 1, .rw, 0, 0, 0x0000, 0⟩,
  ⟨0x2300, 1, .i16, 2, .rw, 1520, 1, 0x0000, 0⟩,
  ⟨0x2300, 2, .u8, 1, .rw, 5, 1, 0x0000, 0⟩,
  ⟨0x2300, 3, .u8, 1, .rw, 25, 1, 0x0000, 0⟩,
  ⟨0x2300, 4, .i16, 2, .ro, 1840, 1, 0x0000, 0⟩,
  ⟨0x2300, 5, .u8, 1, .ro, 0, 0, 0x0000, 0⟩,
  ⟨0x2300, 6, .u64, 8, .ro, 0, 1, 0x0000, 0⟩,
  ⟨0x2300, 7, .u8, 1, .ro, 255, 1, 0x0000, 0⟩,
  ⟨0x2300, 8, .bool, 1, .wo, 0, 0, 0x0000, 0⟩,
  ⟨0x2301, 1, .u16, 2, .rw, 0, 2, 0x0000, 0⟩,
  ⟨0x2301, 2, .i16, 2, .ro, 0, 4, 0x0000, 0⟩,
  ⟨0x2301, 3, .bool, 1, .ro, 0, 4, 0x0000, 0⟩,
  ⟨0x2301, 4, .bool, 1, .rw, 0, 5, 0x0000, 0⟩,
  ⟨0x2301, 5, .octets, 8, .ro, 0, 5, 0x0000, 0⟩,
  ⟨0x2310, 1, .bool, 1, .rw, 0, 1, 0x0000, 0⟩,
  ⟨0x2500, 1, .u8, 1, .rw, 0, 2, 0x0000, 0⟩,
  ⟨0x2501, 1, .u8, 1, .ro, 0, 5, 0x0000, 0⟩,
  ⟨0x2501, 2, .u64, 8, .ro, 0, 12, 0x0000, 0⟩,
  ⟨0x2501, 3, .u64, 8, .ro, 0, 12, 0x0000, 0⟩,
  ⟨0x2501, 4, .u64, 8, .ro, 0, 12, 0x0000, 0⟩,
  ⟨0x2501, 5, .bool, 1, .wo, 0, 4, 0x0000, 0⟩,
  ⟨0x2501, 16, .u16, 2, .rw, 0, 4, 0x0000, 0⟩,
  ⟨0x2502, 1, .u32, 4, .rw, 1024, 1, 0x0000, 0⟩]

def Od.rows2 : List ObjRow := [
  ⟨0x2600, 1, .u8, 1, .rw, 0, 2, 0x0000, 0⟩,
  ⟨0x2601, 1, .u8, 1, .ro, 0, 4, 0x0000, 0⟩,
  ⟨0x2601, 2, .u32, 4, .rwl, 0, 4, 0x2602, 2⟩,
  ⟨0x2601, 3, .u16, 2, .rwl, 0, 4, 0x2602, 2⟩,
  ⟨0x2601, 4, .u32, 4, .rwl, 0, 4, 0x2602, 2⟩,
  ⟨0x2601, 5, .u32, 4, .rwl, 0, 4, 0x2602, 2⟩,
  ⟨0x2601, 6, .octets, 64, .rwl, 0, 4, 0x2602, 2⟩,
  ⟨0x2601, 7, .bool, 1, .rwl, 0, 4, 0x2602, 2⟩,
  ⟨0x2601, 8, .u16, 2, .ro, 0, 4, 0x0000, 0⟩,
  ⟨0x2601, 9, .u32, 4, .ro, 0, 4, 0x0000, 0⟩,
  ⟨0x2601, 10, .u32, 4, .ro, 0, 4, 0x0000, 0⟩,
  ⟨0x2601, 11, .u8, 1, .ro, 0, 4, 0x0000, 0⟩,
  ⟨0x2602, 1, .bool, 1, .wo, 0, 4, 0x0000, 0⟩,
  ⟨0x2602, 2, .bool, 1, .rw, 0, 4, 0x0000, 0⟩,
  ⟨0x2602, 3, .bool, 1, .wo, 0, 4, 0x0000, 0⟩,
  ⟨0x2603, 1, .u8, 1, .rw, 0, 2, 0x0000, 0⟩,
  ⟨0x2603, 2, .u32, 4, .ro, 0, 4, 0x0000, 0⟩,
  ⟨0x2603, 3, .bool, 1, .wo, 0, 4, 0x0000, 0⟩,
  ⟨0x2604, 1, .u8, 1, .rw, 0, 2, 0x0000, 0⟩,
  ⟨0x2604, 2, .u16, 2, .ro, 0, 5, 0x0000, 0⟩,
  ⟨0x2604, 3, .u16, 2, .rw, 0, 2, 0x0000, 0⟩,
  ⟨0x2604, 4, .u32, 4, .ro, 0, 5, 0x0000, 0⟩,
  ⟨0x2605, 1, .u64, 8, .ro, 0, 8, 0x0000, 0⟩,
  ⟨0x2605, 16, .u16, 2, .rw, 0, 0, 0x0000, 0⟩,
  ⟨0x3000, 1, .u8, 1, .rw, 0, 1, 0x0000, 0⟩,
  ⟨0x3000, 2, .u8, 1, .ro, 0, 0, 0x0000, 0⟩,
  ⟨0x3000, 3, .u8, 1, .ro, 0, 0, 0x0000, 0⟩,
  ⟨0x3001, 1, .u8, 1, .rw, 0, 5, 0x0000, 0⟩,
  ⟨0x3001, 2, .u8, 1, .ro, 0, 4, 0x0000, 0⟩,
  ⟨0x3001, 3, .u8, 1, .ro, 0, 4, 0x0000, 0⟩,
  ⟨0x3002, 1, .u16, 2, .rw, 128, 1, 0x0000, 0⟩,
  ⟨0x3002, 2, .u16, 2, .ro, 128, 0, 0x0000, 0⟩,
  ⟨0x3002, 3, .i16, 2, .ro, 0, 0, 0x0000, 0⟩,
  ⟨0x3002, 4, .u8, 1, .ro, 0, 0, 0x0000, 0⟩,
  ⟨0x3002, 5, .u8, 1, .ro, 0, 0, 0x0000, 0⟩,
  ⟨0x3003, 1, .u64, 8, .ro, 0, 8, 0x0000, 0⟩,
  ⟨0x3003, 2, .u64, 8, .ro, 0, 8, 0x0000, 0⟩,
  ⟨0x3003, 3, .u64, 8, .ro, 0, 8, 0x0000, 0⟩,
  ⟨0x3003, 16, .u16, 2, .rw, 0, 0, 0x0000, 0⟩,
  ⟨0x3018, 1, .u8, 1, .ro, 0, 0, 0x0000, 0⟩,
  ⟨0x3018, 2, .u64, 8, .ro, 0, 1, 0x0000, 0⟩,
  ⟨0x3020, 1, .u16, 2, .rw, 0, 2, 0x0000, 0⟩,
  ⟨0x3021, 1, .u8, 1, .ro, 0, 4, 0x0000, 0⟩,
  ⟨0x3021, 2, .u8, 1, .ro, 0, 4, 0x0000, 0⟩,
  ⟨0x3021, 3, .u8, 1, .ro, 0, 4, 0x0000, 0⟩,
  ⟨0x3021, 4, .u16, 2, .ro, 256, 4, 0x0000, 0⟩,
  ⟨0x3021, 5, .u8, 1, .ro, 0, 4, 0x0000, 0⟩,
  ⟨0x3021, 6, .u8, 1, .ro, 6, 4, 0x0000, 0⟩,
  ⟨0x3022, 1, .u64, 8, .ro, 0, 12, 0x0000, 0⟩,
  ⟨0x3022, 2, .u64, 8, .ro, 0, 12, 0x0000, 0⟩]

def Od.rows3 : List ObjRow := [
  ⟨0x3022, 3, .u64, 8, .ro, 0, 12, 0x0000, 0⟩,
  ⟨0x3022, 4, .u64, 8, .ro, 0, 12, 0x0000, 0⟩,
  ⟨0x3022, 5, .u64, 8, .ro, 0, 12, 0x0000, 0⟩,
  ⟨0x3022, 6, .u64, 8, .ro, 0, 12, 0x0000, 0⟩,
  ⟨0x3022, 7, .u64, 8, .ro, 0, 12, 0x0000, 0⟩,
  ⟨0x3022, 8, .u64, 8, .ro, 0, 12, 0x0000, 0⟩,
  ⟨0x3022, 9, .u64, 8, .ro, 0, 12, 0x0000, 0⟩,
  ⟨0x3022, 16, .u16, 2, .rw, 0, 4, 0x0000, 0⟩,
  ⟨0x3023, 1, .u64, 8, .ro, 0, 5, 0x0000, 0⟩,
  ⟨0x3023, 2, .u64, 8, .ro, 0, 5, 0x0000, 0⟩,
  ⟨0x3023, 3, .u64, 8, .ro, 0, 5, 0x0000, 0⟩,
  ⟨0x3023, 4, .u8, 1, .ro, 0, 5, 0x0000, 0⟩,
  ⟨0x3023, 5, .u64, 8, .ro, 0, 5, 0x0000, 0⟩,
  ⟨0x3024, 1, .u64, 8, .ro, 0, 12, 0x0000, 0⟩,
  ⟨0x3024, 2, .u64, 8, .ro, 0, 12, 0x0000, 0⟩,
  ⟨0x3024, 3, .u64, 8, .ro, 0, 12, 0x0000, 0⟩,
  ⟨0x3024, 4, .u64, 8, .ro, 0, 12, 0x0000, 0⟩,
  ⟨0x3024, 5, .u64, 8, .ro, 0, 12, 0x0000, 0⟩,
  ⟨0x3024, 6, .u64, 8, .ro, 0, 12, 0x0000, 0⟩,
  ⟨0x3024, 7, .u64, 8, .ro, 0, 12, 0x0000, 0⟩,
  ⟨0x3024, 8, .u64, 8, .ro, 0, 12, 0x0000, 0⟩,
  ⟨0x3024, 9, .u64, 8, .ro, 0, 12, 0x0000, 0⟩,
  ⟨0x3024, 16, .u16, 2, .rw, 0, 4, 0x0000, 0⟩,
  ⟨0x3025, 1, .u32, 4, .ro, 0, 4, 0x0000, 0⟩,
  ⟨0x3025, 2, .u32, 4, .ro, 0, 4, 0x0000, 0⟩,
  ⟨0x3025, 3, .u32, 4, .ro, 0, 4, 0x0000, 0⟩,
  ⟨0x3025, 4, .u32, 4, .ro, 0, 4, 0x0000, 0⟩,
  ⟨0x3025, 5, .u32, 4, .ro, 0, 4, 0x0000, 0⟩,
  ⟨0x3025, 6, .u32, 4, .ro, 0, 4, 0x0000, 0⟩,
  ⟨0x3025, 7, .u32, 4, .ro, 0, 4, 0x0000, 0⟩,
  ⟨0x3025, 8, .u32, 4, .ro, 0, 4, 0x0000, 0⟩,
  ⟨0x3026, 1, .u32, 4, .ro, 0, 5, 0x0000, 0⟩,
  ⟨0x3026, 2, .u32, 4, .ro, 0, 5, 0x0000, 0⟩,
  ⟨0x3026, 3, .u32, 4, .ro, 0, 5, 0x0000, 0⟩,
  ⟨0x3026, 4, .u32, 4, .ro, 0, 5, 0x0000, 0⟩,
  ⟨0x3026, 5, .u32, 4, .ro, 0, 5, 0x0000, 0⟩,
  ⟨0x3026, 6, .u32, 4, .ro, 0, 5, 0x0000, 0⟩,
  ⟨0x3026, 7, .u32, 4, .ro, 0, 5, 0x0000, 0⟩,
  ⟨0x3026, 8, .u32, 4, .ro, 0, 5, 0x0000, 0⟩,
  ⟨0x3026, 9, .u8, 1, .ro, 0, 5, 0x0000, 0⟩,
  ⟨0x3027, 1, .u8, 1, .ro, 0, 4, 0x0000, 0⟩,
  ⟨0x3027, 2, .u8, 1, .ro, 0, 4, 0x0000, 0⟩,
  ⟨0x3027, 3, .u8, 1, .ro, 0, 4, 0x0000, 0⟩,
  ⟨0x3027, 4, .u8, 1, .rw, 0, 2, 0x0000, 0⟩,
  ⟨0x3027, 5, .u64, 8, .rw, 0, 4, 0x0000, 0⟩,
  ⟨0x3027, 6, .u8, 1, .wo, 0, 4, 0x0000, 0⟩,
  ⟨0x3027, 7, .bool, 1, .wo, 0, 4, 0x0000, 0⟩,
  ⟨0x3027, 8, .u8, 1, .ro, 7, 4, 0x0000, 0⟩,
  ⟨0x3028, 1, .u64, 8, .ro, 0, 5, 0x0000, 0⟩,
  ⟨0x3028, 2, .u16, 2, .ro, 0, 5, 0x0000, 0⟩]

def Od.rows4 : List ObjRow := [
  ⟨0x3028, 3, .u16, 2, .ro, 0, 5, 0x0000, 0⟩,
  ⟨0x3028, 4, .u16, 2, .ro, 65535, 5, 0x0000, 0⟩,
  ⟨0x3029, 1, .u16, 2, .rw, 0, 2, 0x0000, 0⟩,
  ⟨0x3029, 2, .i16, 2, .ro, 0, 5, 0x0000, 0⟩,
  ⟨0x3029, 3, .u16, 2, .ro, 16384, 5, 0x0000, 0⟩,
  ⟨0x302A, 1, .u16, 2, .rw, 2048, 1, 0x0000, 0⟩,
  ⟨0x302A, 2, .u16, 2, .rw, 64, 1, 0x0000, 0⟩,
  ⟨0x302A, 3, .u8, 1, .rw, 4, 1, 0x0000, 0⟩,
  ⟨0x3030, 1, .u64, 8, .ro, 0, 8, 0x0000, 0⟩,
  ⟨0x3030, 2, .u64, 8, .ro, 0, 8, 0x0000, 0⟩,
  ⟨0x3030, 3, .u64, 8, .ro, 0, 8, 0x0000, 0⟩,
  ⟨0x3030, 4, .u64, 8, .ro, 0, 8, 0x0000, 0⟩,
  ⟨0x3030, 5, .u64, 8, .ro, 0, 8, 0x0000, 0⟩,
  ⟨0x3030, 6, .u64, 8, .ro, 0, 8, 0x0000, 0⟩,
  ⟨0x3030, 7, .u64, 8, .ro, 0, 8, 0x0000, 0⟩,
  ⟨0x3030, 8, .u64, 8, .ro, 0, 8, 0x0000, 0⟩,
  ⟨0x3030, 9, .u64, 8, .ro, 0, 8, 0x0000, 0⟩,
  ⟨0x3030, 10, .u64, 8, .ro, 0, 8, 0x0000, 0⟩,
  ⟨0x3030, 16, .u16, 2, .rw, 0, 0, 0x0000, 0⟩,
  ⟨0x3031, 1, .bool, 1, .rw, 1, 1, 0x0000, 0⟩,
  ⟨0x3031, 2, .bool, 1, .rw, 1, 1, 0x0000, 0⟩,
  ⟨0x3040, 1, .u8, 1, .rw, 0, 2, 0x0000, 0⟩,
  ⟨0x3041, 1, .u8, 1, .ro, 0, 4, 0x0000, 0⟩,
  ⟨0x3041, 2, .u8, 1, .ro, 0, 4, 0x0000, 0⟩,
  ⟨0x3041, 3, .u8, 1, .ro, 0, 4, 0x0000, 0⟩,
  ⟨0x3041, 4, .u32, 4, .ro, 0, 4, 0x0000, 0⟩,
  ⟨0x3041, 5, .u32, 4, .ro, 0, 4, 0x0000, 0⟩,
  ⟨0x3041, 6, .u64, 8, .ro, 0, 4, 0x0000, 0⟩,
  ⟨0x3041, 7, .u64, 8, .ro, 0, 4, 0x0000, 0⟩,
  ⟨0x3041, 8, .u16, 2, .ro, 0, 4, 0x0000, 0⟩,
  ⟨0x3042, 1, .u64, 8, .ro, 0, 12, 0x0000, 0⟩,
  ⟨0x3042, 2, .u64, 8, .ro, 0, 12, 0x0000, 0⟩,
  ⟨0x3042, 3, .u64, 8, .ro, 0, 12, 0x0000, 0⟩,
  ⟨0x3042, 4, .u64, 8, .ro, 0, 12, 0x0000, 0⟩,
  ⟨0x3042, 5, .u64, 8, .ro, 0, 12, 0x0000, 0⟩,
  ⟨0x3042, 6, .u64, 8, .ro, 0, 12, 0x0000, 0⟩,
  ⟨0x3042, 7, .u64, 8, .ro, 0, 12, 0x0000, 0⟩,
  ⟨0x3042, 8, .u64, 8, .ro, 0, 12, 0x0000, 0⟩,
  ⟨0x3042, 16, .u16, 2, .rw, 0, 4, 0x0000, 0⟩,
  ⟨0x3043, 1, .u64, 8, .ro, 0, 12, 0x0000, 0⟩,
  ⟨0x3043, 2, .u64, 8, .ro, 0, 12, 0x0000, 0⟩,
  ⟨0x3043, 3, .u64, 8, .ro, 0, 12, 0x0000, 0⟩,
  ⟨0x3043, 4, .u64, 8, .ro, 0, 12, 0x0000, 0⟩,
  ⟨0x3043, 16, .u16, 2, .rw, 0, 4, 0x0000, 0⟩,
  ⟨0x3050, 1, .u16, 2, .rw, 0, 2, 0x0000, 0⟩,
  ⟨0x3051, 1, .u8, 1, .ro, 0, 5, 0x0000, 0⟩,
  ⟨0x3051, 2, .u32, 4, .ro, 0, 4, 0x0000, 0⟩,
  ⟨0x3052, 1, .u64, 8, .ro, 0, 8, 0x0000, 0⟩,
  ⟨0x3052, 2, .u64, 8, .ro, 0, 8, 0x0000, 0⟩,
  ⟨0x3052, 3, .u64, 8, .ro, 0, 8, 0x0000, 0⟩]

def Od.rows5 : List ObjRow := [
  ⟨0x3052, 4, .u64, 8, .ro, 0, 8, 0x0000, 0⟩,
  ⟨0x3052, 5, .u64, 8, .ro, 0, 8, 0x0000, 0⟩,
  ⟨0x3052, 6, .u64, 8, .ro, 0, 8, 0x0000, 0⟩,
  ⟨0x3052, 7, .u64, 8, .ro, 0, 8, 0x0000, 0⟩,
  ⟨0x3052, 8, .u64, 8, .ro, 0, 8, 0x0000, 0⟩,
  ⟨0x3052, 9, .u64, 8, .ro, 0, 8, 0x0000, 0⟩,
  ⟨0x3052, 16, .u16, 2, .rw, 0, 0, 0x0000, 0⟩,
  ⟨0x3053, 1, .u16, 2, .rw, 1024, 1, 0x0000, 0⟩,
  ⟨0x3053, 2, .u32, 4, .rw, 256, 1, 0x0000, 0⟩,
  ⟨0x3060, 1, .u8, 1, .rw, 0, 2, 0x0000, 0⟩,
  ⟨0x3061, 1, .u8, 1, .ro, 0, 4, 0x0000, 0⟩,
  ⟨0x3061, 2, .u8, 1, .ro, 255, 4, 0x0000, 0⟩,
  ⟨0x3061, 3, .u32, 4, .rw, 0, 4, 0x0000, 0⟩,
  ⟨0x3061, 4, .u8, 1, .ro, 0, 4, 0x0000, 0⟩,
  ⟨0x3061, 5, .u8, 1, .ro, 0, 4, 0x0000, 0⟩,
  ⟨0x3061, 6, .u16, 2, .ro, 0, 4, 0x0000, 0⟩,
  ⟨0x3061, 7, .u16, 2, .ro, 0, 4, 0x0000, 0⟩,
  ⟨0x3061, 8, .u32, 4, .ro, 4294967295, 4, 0x0000, 0⟩,
  ⟨0x3061, 9, .bool, 1, .wo, 0, 4, 0x0000, 0⟩,
  ⟨0x3061, 10, .u32, 4, .ro, 0, 4, 0x0000, 0⟩,
  ⟨0x3062, 1, .u64, 8, .ro, 0, 12, 0x0000, 0⟩,
  ⟨0x3062, 2, .u64, 8, .ro, 0, 12, 0x0000, 0⟩,
  ⟨0x3062, 3, .u64, 8, .ro, 0, 12, 0x0000, 0⟩,
  ⟨0x3062, 4, .u64, 8, .ro, 0, 12, 0x0000, 0⟩,
  ⟨0x3062, 5, .u64, 8, .ro, 0, 12, 0x0000, 0⟩,
  ⟨0x3062, 6, .u64, 8, .ro, 0, 12, 0x0000, 0⟩,
  ⟨0x3062, 7, .u64, 8, .ro, 0, 12, 0x0000, 0⟩,
  ⟨0x3062, 16, .u16, 2, .rw, 0, 4, 0x0000, 0⟩,
  ⟨0x3063, 1, .bool, 1, .rw, 1, 1, 0x0000, 0⟩,
  ⟨0x4000, 1, .u32, 4, .rwl, 0, 1, 0x2000, 1⟩,
  ⟨0x4000, 2, .u32, 4, .rw, 2125, 1, 0x0000, 0⟩,
  ⟨0x4000, 3, .u32, 4, .rw, 21250, 1, 0x0000, 0⟩,
  ⟨0x4000, 4, .u32, 4, .rw, 1024, 1, 0x0000, 0⟩,
  ⟨0x4001, 1, .u8, 1, .rw, 0, 2, 0x0000, 0⟩,
  ⟨0x4002, 1, .u8, 1, .ro, 0, 4, 0x0000, 0⟩,
  ⟨0x4002, 2, .u32, 4, .ro, 4294967295, 4, 0x0000, 0⟩,
  ⟨0x4002, 3, .u32, 4, .ro, 0, 4, 0x0000, 0⟩,
  ⟨0x4002, 4, .u32, 4, .ro, 0, 4, 0x0000, 0⟩,
  ⟨0x4002, 5, .u32, 4, .ro, 0, 4, 0x0000, 0⟩,
  ⟨0x4002, 6, .u8, 1, .ro, 0, 4, 0x0000, 0⟩,
  ⟨0x4002, 7, .bool, 1, .wo, 0, 4, 0x0000, 0⟩,
  ⟨0x4003, 1, .u64, 8, .ro, 0, 8, 0x0000, 0⟩,
  ⟨0x4003, 2, .u64, 8, .ro, 0, 8, 0x0000, 0⟩,
  ⟨0x4003, 3, .u64, 8, .ro, 0, 8, 0x0000, 0⟩,
  ⟨0x4003, 4, .u64, 8, .ro, 0, 8, 0x0000, 0⟩,
  ⟨0x4003, 5, .u64, 8, .ro, 0, 8, 0x0000, 0⟩,
  ⟨0x4003, 6, .u64, 8, .ro, 0, 8, 0x0000, 0⟩,
  ⟨0x4003, 7, .u64, 8, .ro, 0, 8, 0x0000, 0⟩,
  ⟨0x4003, 8, .u64, 8, .ro, 0, 8, 0x0000, 0⟩,
  ⟨0x4003, 16, .u16, 2, .rw, 0, 0, 0x0000, 0⟩]

def Od.rows6 : List ObjRow := [
  ⟨0x4004, 1, .u8, 1, .ro, 0, 0, 0x0000, 0⟩,
  ⟨0x4004, 2, .u8, 1, .wo, 0, 0, 0x0000, 0⟩,
  ⟨0x4004, 3, .u8, 1, .rw, 255, 0, 0x0000, 0⟩,
  ⟨0x4004, 4, .u64, 8, .rw, 0, 0, 0x0000, 0⟩,
  ⟨0x4010, 1, .u8, 1, .rw, 0, 2, 0x0000, 0⟩,
  ⟨0x4011, 1, .u32, 4, .rwl, 0, 5, 0x4011, 6⟩,
  ⟨0x4011, 2, .u32, 4, .rwl, 0, 5, 0x4011, 6⟩,
  ⟨0x4011, 3, .u32, 4, .rwl, 0, 5, 0x4011, 6⟩,
  ⟨0x4011, 4, .u8, 1, .rwl, 0, 5, 0x4011, 6⟩,
  ⟨0x4011, 5, .octets, 192, .rwl, 0, 5, 0x4011, 6⟩,
  ⟨0x4011, 6, .u8, 1, .ro, 0, 5, 0x0000, 0⟩,
  ⟨0x4011, 7, .u32, 4, .ro, 0, 4, 0x0000, 0⟩,
  ⟨0x4011, 8, .u32, 4, .ro, 4294967295, 5, 0x0000, 0⟩,
  ⟨0x5000, 1, .u16, 2, .ro, 0, 0, 0x0000, 0⟩,
  ⟨0x5000, 2, .u16, 2, .rw, 256, 1, 0x0000, 0⟩,
  ⟨0x5000, 3, .u32, 4, .rw, 212500000, 1, 0x0000, 0⟩,
  ⟨0x5000, 4, .u64, 8, .ro, 0, 8, 0x0000, 0⟩,
  ⟨0x5000, 5, .u64, 8, .ro, 0, 8, 0x0000, 0⟩,
  ⟨0x5000, 6, .u64, 8, .ro, 0, 8, 0x0000, 0⟩,
  ⟨0x5000, 7, .u64, 8, .ro, 0, 8, 0x0000, 0⟩,
  ⟨0x5000, 8, .u64, 8, .ro, 0, 8, 0x0000, 0⟩,
  ⟨0x5000, 9, .u64, 8, .ro, 0, 8, 0x0000, 0⟩,
  ⟨0x5000, 16, .u16, 2, .rw, 0, 0, 0x0000, 0⟩,
  ⟨0x5001, 1, .u32, 4, .rwl, 512, 4, 0x2602, 2⟩,
  ⟨0x5001, 2, .u32, 4, .rwl, 0, 4, 0x2602, 2⟩,
  ⟨0x5001, 3, .u32, 4, .rwl, 0, 4, 0x2602, 2⟩,
  ⟨0x5001, 4, .u32, 4, .ro, 0, 4, 0x0000, 0⟩,
  ⟨0x5001, 5, .u32, 4, .rwl, 0, 4, 0x2602, 2⟩,
  ⟨0x5001, 6, .u32, 4, .rwl, 0, 4, 0x2602, 2⟩,
  ⟨0x5001, 7, .bool, 1, .ro, 0, 4, 0x0000, 0⟩,
  ⟨0x5001, 8, .u8, 1, .ro, 0, 4, 0x0000, 0⟩,
  ⟨0x5001, 9, .u8, 1, .rw, 50, 5, 0x0000, 0⟩,
  ⟨0x5001, 10, .u16, 2, .rw, 32, 5, 0x0000, 0⟩,
  ⟨0x5001, 11, .u16, 2, .rw, 16, 5, 0x0000, 0⟩,
  ⟨0x5001, 12, .u32, 4, .rw, 212500, 5, 0x0000, 0⟩,
  ⟨0x5001, 13, .u64, 8, .ro, 0, 4, 0x0000, 0⟩,
  ⟨0x5010, 1, .u32, 4, .rw, 425, 1, 0x0000, 0⟩,
  ⟨0x5010, 2, .u8, 1, .rw, 8, 1, 0x0000, 0⟩,
  ⟨0x5010, 3, .u64, 8, .ro, 0, 1, 0x0000, 0⟩,
  ⟨0x5010, 4, .u8, 1, .ro, 0, 1, 0x0000, 0⟩,
  ⟨0x5010, 5, .u64, 8, .ro, 0, 8, 0x0000, 0⟩,
  ⟨0x5010, 16, .u16, 2, .rw, 0, 0, 0x0000, 0⟩,
  ⟨0x5020, 1, .u16, 2, .rw, 0, 2, 0x0000, 0⟩,
  ⟨0x5021, 1, .u8, 1, .ro, 0, 4, 0x0000, 0⟩,
  ⟨0x5021, 2, .u8, 1, .ro, 0, 4, 0x0000, 0⟩,
  ⟨0x5021, 3, .u16, 2, .ro, 0, 4, 0x0000, 0⟩,
  ⟨0x5021, 4, .u16, 2, .ro, 0, 4, 0x0000, 0⟩,
  ⟨0x5021, 5, .u64, 8, .ro, 0, 4, 0x0000, 0⟩,
  ⟨0x5021, 6, .u8, 1, .ro, 0, 4, 0x0000, 0⟩,
  ⟨0x5021, 7, .u32, 4, .ro, 0, 4, 0x0000, 0⟩]

def Od.rows7 : List ObjRow := [
  ⟨0x5021, 8, .u32, 4, .ro, 0, 4, 0x0000, 0⟩,
  ⟨0x5021, 9, .u32, 4, .ro, 0, 4, 0x0000, 0⟩,
  ⟨0x5021, 10, .u32, 4, .ro, 0, 4, 0x0000, 0⟩,
  ⟨0x5021, 11, .u8, 1, .ro, 0, 4, 0x0000, 0⟩,
  ⟨0x5021, 12, .u64, 8, .ro, 0, 4, 0x0000, 0⟩,
  ⟨0x5021, 13, .u64, 8, .ro, 0, 4, 0x0000, 0⟩,
  ⟨0x5021, 14, .octets, 68, .ro, 0, 4, 0x0000, 0⟩,
  ⟨0x5021, 15, .octets, 144, .ro, 0, 4, 0x0000, 0⟩,
  ⟨0x5021, 16, .u32, 4, .ro, 0, 4, 0x0000, 0⟩,
  ⟨0x5021, 17, .u64, 8, .ro, 0, 4, 0x0000, 0⟩,
  ⟨0x5021, 18, .u64, 8, .ro, 0, 4, 0x0000, 0⟩,
  ⟨0x5021, 19, .u64, 8, .ro, 0, 4, 0x0000, 0⟩,
  ⟨0x5021, 20, .u32, 4, .ro, 0, 4, 0x0000, 0⟩,
  ⟨0x5021, 21, .i32, 4, .ro, 0, 4, 0x0000, 0⟩,
  ⟨0x5021, 22, .u32, 4, .ro, 0, 4, 0x0000, 0⟩,
  ⟨0x5021, 23, .u16, 2, .ro, 0, 4, 0x0000, 0⟩,
  ⟨0x5021, 24, .u8, 1, .ro, 0, 4, 0x0000, 0⟩,
  ⟨0x5021, 25, .u8, 1, .ro, 0, 4, 0x0000, 0⟩,
  ⟨0x5021, 26, .u16, 2, .ro, 0, 4, 0x0000, 0⟩,
  ⟨0x5021, 27, .u32, 4, .ro, 0, 4, 0x0000, 0⟩,
  ⟨0x5021, 28, .u32, 4, .ro, 0, 4, 0x0000, 0⟩,
  ⟨0x5021, 29, .u32, 4, .ro, 0, 4, 0x0000, 0⟩,
  ⟨0x5022, 1, .u16, 2, .wo, 0, 0, 0x0000, 0⟩,
  ⟨0x5030, 1, .u32, 4, .rw, 0, 2, 0x0000, 0⟩,
  ⟨0x5031, 1, .u8, 1, .ro, 0, 4, 0x0000, 0⟩,
  ⟨0x5031, 2, .u16, 2, .ro, 0, 4, 0x0000, 0⟩,
  ⟨0x5031, 3, .u8, 1, .ro, 0, 4, 0x0000, 0⟩,
  ⟨0x5031, 4, .u32, 4, .ro, 0, 4, 0x0000, 0⟩,
  ⟨0x5031, 5, .u32, 4, .ro, 0, 4, 0x0000, 0⟩,
  ⟨0x5031, 6, .u16, 2, .ro, 0, 4, 0x0000, 0⟩,
  ⟨0x5031, 7, .u8, 1, .ro, 0, 4, 0x0000, 0⟩,
  ⟨0x5031, 8, .u64, 8, .ro, 0, 4, 0x0000, 0⟩,
  ⟨0x5031, 9, .u32, 4, .ro, 0, 4, 0x0000, 0⟩,
  ⟨0x5031, 10, .u32, 4, .ro, 0, 4, 0x0000, 0⟩,
  ⟨0x5032, 1, .u32, 4, .wo, 0, 0, 0x0000, 0⟩,
  ⟨0x5033, 1, .u16, 2, .ro, 0, 0, 0x0000, 0⟩,
  ⟨0x6000, 1, .u64, 8, .ro, 0, 8, 0x0000, 0⟩,
  ⟨0x6000, 2, .u64, 8, .ro, 0, 8, 0x0000, 0⟩,
  ⟨0x6000, 3, .u64, 8, .ro, 0, 8, 0x0000, 0⟩,
  ⟨0x6000, 4, .u64, 8, .ro, 0, 8, 0x0000, 0⟩,
  ⟨0x6000, 5, .u64, 8, .ro, 0, 8, 0x0000, 0⟩,
  ⟨0x6000, 6, .u64, 8, .ro, 0, 8, 0x0000, 0⟩,
  ⟨0x6000, 7, .u64, 8, .ro, 0, 8, 0x0000, 0⟩,
  ⟨0x6000, 16, .u16, 2, .rw, 0, 0, 0x0000, 0⟩,
  ⟨0x6001, 1, .u32, 4, .rw, 212500, 1, 0x0000, 0⟩,
  ⟨0x6001, 2, .u32, 4, .rw, 212500000, 1, 0x0000, 0⟩,
  ⟨0x6010, 1, .u8, 1, .rw, 0, 2, 0x0000, 0⟩,
  ⟨0x6011, 1, .u8, 1, .ro, 0, 5, 0x0000, 0⟩,
  ⟨0x6011, 2, .u32, 4, .ro, 0, 5, 0x0000, 0⟩,
  ⟨0x6011, 3, .u8, 1, .rwl, 0, 5, 0x6011, 1⟩]

def Od.rows8 : List ObjRow := [
  ⟨0x6011, 4, .u16, 2, .rwl, 0, 5, 0x6011, 1⟩,
  ⟨0x6011, 5, .u32, 4, .rwl, 0, 5, 0x6011, 1⟩,
  ⟨0x6011, 6, .u8, 1, .rwl, 0, 4, 0x6011, 1⟩,
  ⟨0x6011, 7, .u64, 8, .rwl, 0, 4, 0x6011, 1⟩,
  ⟨0x6011, 8, .u32, 4, .rwl, 0, 4, 0x6011, 1⟩,
  ⟨0x6011, 9, .bool, 1, .rwl, 0, 4, 0x6011, 1⟩,
  ⟨0x6011, 10, .bool, 1, .rwl, 0, 5, 0x6011, 1⟩,
  ⟨0x6011, 11, .u32, 4, .rwl, 0, 5, 0x6011, 1⟩,
  ⟨0x6011, 12, .u32, 4, .rwl, 0, 4, 0x6011, 1⟩,
  ⟨0x6011, 13, .u32, 4, .ro, 0, 5, 0x0000, 0⟩,
  ⟨0x6011, 14, .u32, 4, .ro, 0, 5, 0x0000, 0⟩,
  ⟨0x6011, 15, .u32, 4, .ro, 0, 4, 0x0000, 0⟩,
  ⟨0x6011, 16, .bool, 1, .rw, 0, 5, 0x0000, 0⟩,
  ⟨0x6011, 17, .u16, 2, .ro, 0, 5, 0x0000, 0⟩,
  ⟨0x6011, 18, .u64, 8, .ro, 0, 5, 0x0000, 0⟩,
  ⟨0x6012, 1, .bool, 1, .wo, 0, 4, 0x0000, 0⟩,
  ⟨0x6012, 2, .bool, 1, .wo, 0, 4, 0x0000, 0⟩,
  ⟨0x6012, 3, .bool, 1, .wo, 0, 4, 0x0000, 0⟩,
  ⟨0x6012, 4, .bool, 1, .wo, 0, 4, 0x0000, 0⟩,
  ⟨0x6020, 1, .u32, 4, .rw, 0, 2, 0x0000, 0⟩,
  ⟨0x6021, 1, .u16, 2, .ro, 0, 4, 0x0000, 0⟩,
  ⟨0x6021, 2, .u8, 1, .ro, 0, 4, 0x0000, 0⟩,
  ⟨0x6021, 3, .u32, 4, .ro, 0, 4, 0x0000, 0⟩,
  ⟨0x6021, 4, .u32, 4, .ro, 0, 4, 0x0000, 0⟩,
  ⟨0x6021, 5, .bool, 1, .ro, 0, 4, 0x0000, 0⟩,
  ⟨0x6021, 6, .u32, 4, .ro, 0, 4, 0x0000, 0⟩,
  ⟨0x6021, 7, .u32, 4, .ro, 0, 4, 0x0000, 0⟩,
  ⟨0x6021, 8, .u16, 2, .ro, 0, 4, 0x0000, 0⟩,
  ⟨0x6022, 1, .u32, 4, .wo, 0, 0, 0x0000, 0⟩,
  ⟨0x6023, 1, .u16, 2, .ro, 0, 0, 0x0000, 0⟩,
  ⟨0x7000, 1, .bool, 1, .rw, 1, 1, 0x0000, 0⟩,
  ⟨0x7000, 2, .u32, 4, .rw, 3600, 1, 0x0000, 0⟩,
  ⟨0x7000, 3, .u32, 4, .rw, 212500000, 1, 0x0000, 0⟩,
  ⟨0x7000, 4, .u32, 4, .rw, 2125000000, 1, 0x0000, 0⟩,
  ⟨0x7000, 5, .u32, 4, .rw, 212500000, 1, 0x0000, 0⟩,
  ⟨0x7000, 6, .u32, 4, .rw, 65536, 1, 0x0000, 0⟩,
  ⟨0x7000, 7, .u8, 1, .rw, 3, 1, 0x0000, 0⟩,
  ⟨0x7000, 8, .u16, 2, .rw, 8, 1, 0x0000, 0⟩,
  ⟨0x7000, 9, .u16, 2, .rw, 512, 1, 0x0000, 0⟩,
  ⟨0x7000, 10, .u8, 1, .rw, 2, 1, 0x0000, 0⟩,
  ⟨0x7001, 1, .u64, 8, .ro, 0, 8, 0x0000, 0⟩,
  ⟨0x7001, 2, .u64, 8, .ro, 0, 8, 0x0000, 0⟩,
  ⟨0x7001, 3, .u64, 8, .ro, 0, 8, 0x0000, 0⟩,
  ⟨0x7001, 4, .u64, 8, .ro, 0, 8, 0x0000, 0⟩,
  ⟨0x7001, 5, .u64, 8, .ro, 0, 8, 0x0000, 0⟩,
  ⟨0x7001, 6, .u64, 8, .ro, 0, 8, 0x0000, 0⟩,
  ⟨0x7001, 7, .u64, 8, .ro, 0, 8, 0x0000, 0⟩,
  ⟨0x7001, 16, .u16, 2, .rw, 0, 0, 0x0000, 0⟩,
  ⟨0x7010, 1, .u8, 1, .rw, 0, 2, 0x0000, 0⟩,
  ⟨0x7010, 2, .u8, 1, .rw, 0, 2, 0x0000, 0⟩]

def Od.rows9 : List ObjRow := [
  ⟨0x7010, 3, .u8, 1, .rw, 0, 2, 0x0000, 0⟩,
  ⟨0x7011, 1, .u8, 1, .ro, 0, 5, 0x0000, 0⟩,
  ⟨0x7011, 2, .u8, 1, .ro, 0, 5, 0x0000, 0⟩,
  ⟨0x7011, 3, .u8, 1, .ro, 0, 4, 0x0000, 0⟩,
  ⟨0x7011, 4, .u8, 1, .ro, 255, 4, 0x0000, 0⟩,
  ⟨0x7011, 5, .u8, 1, .ro, 255, 4, 0x0000, 0⟩,
  ⟨0x7011, 6, .u64, 8, .ro, 0, 4, 0x0000, 0⟩,
  ⟨0x7011, 7, .u8, 1, .ro, 0, 4, 0x0000, 0⟩,
  ⟨0x7012, 1, .u64, 8, .ro, 0, 5, 0x0000, 0⟩,
  ⟨0x7012, 2, .u64, 8, .ro, 0, 4, 0x0000, 0⟩,
  ⟨0x7012, 3, .u64, 8, .ro, 0, 5, 0x0000, 0⟩,
  ⟨0x7012, 4, .i16, 2, .ro, 0, 5, 0x0000, 0⟩,
  ⟨0x7012, 5, .u8, 1, .ro, 0, 4, 0x0000, 0⟩,
  ⟨0x7012, 6, .u8, 1, .ro, 0, 5, 0x0000, 0⟩,
  ⟨0x7013, 1, .u16, 2, .rw, 0, 2, 0x0000, 0⟩,
  ⟨0x7013, 2, .i16, 2, .ro, 0, 5, 0x0000, 0⟩,
  ⟨0x7013, 3, .u16, 2, .ro, 16384, 5, 0x0000, 0⟩,
  ⟨0x7013, 4, .i16, 2, .ro, 0, 5, 0x0000, 0⟩,
  ⟨0x7013, 5, .u16, 2, .ro, 16384, 5, 0x0000, 0⟩,
  ⟨0x7020, 1, .u64, 8, .ro, 0, 1, 0x0000, 0⟩,
  ⟨0x7020, 2, .u8, 1, .rw, 0, 2, 0x0000, 0⟩,
  ⟨0x7021, 1, .octets, 32, .ro, 0, 5, 0x0000, 0⟩,
  ⟨0x8000, 1, .u32, 4, .rw, 0, 0, 0x0000, 0⟩,
  ⟨0x8000, 2, .u8, 1, .ro, 0, 0, 0x0000, 0⟩,
  ⟨0x8000, 3, .u32, 4, .rw, 212500, 1, 0x0000, 0⟩,
  ⟨0x8001, 1, .u16, 2, .wo, 0, 0, 0x0000, 0⟩,
  ⟨0x8001, 2, .u8, 1, .wo, 0, 0, 0x0000, 0⟩,
  ⟨0x8001, 3, .bool, 1, .wo, 0, 0, 0x0000, 0⟩,
  ⟨0x8001, 4, .u64, 8, .ro, 0, 1, 0x0000, 0⟩,
  ⟨0x8001, 5, .u8, 1, .ro, 0, 1, 0x0000, 0⟩,
  ⟨0x8001, 6, .bool, 1, .ro, 0, 1, 0x0000, 0⟩,
  ⟨0x8001, 7, .u8, 1, .ro, 0, 0, 0x0000, 0⟩,
  ⟨0x8002, 1, .u64, 8, .ro, 0, 1, 0x0000, 0⟩,
  ⟨0x8002, 2, .u16, 2, .rw, 0, 2, 0x0000, 0⟩,
  ⟨0x8002, 3, .octets, 64, .ro, 0, 5, 0x0000, 0⟩,
  ⟨0x8003, 1, .u8, 1, .rw, 4, 1, 0x0000, 0⟩,
  ⟨0x8003, 2, .u32, 4, .rw, 212500000, 1, 0x0000, 0⟩,
  ⟨0x8004, 1, .bool, 1, .ro, 0, 1, 0x0000, 0⟩,
  ⟨0x8004, 2, .u32, 4, .ro, 0, 1, 0x0000, 0⟩,
  ⟨0x8004, 3, .u64, 8, .ro, 0, 1, 0x0000, 0⟩,
  ⟨0x8004, 4, .u8, 1, .ro, 0, 1, 0x0000, 0⟩,
  ⟨0x8004, 5, .u32, 4, .rw, 0, 2, 0x0000, 0⟩,
  ⟨0x8004, 6, .octets, 4096, .ro, 0, 5, 0x0000, 0⟩,
  ⟨0x8004, 7, .bool, 1, .wo, 0, 0, 0x0000, 0⟩,
  ⟨0x8004, 8, .bool, 1, .rw, 0, 1, 0x0000, 0⟩,
  ⟨0x8005, 1, .bool, 1, .rwl, 1, 1, 0x2000, 1⟩,
  ⟨0x8005, 2, .u8, 1, .ro, 0, 1, 0x0000, 0⟩,
  ⟨0x8005, 3, .u64, 8, .ro, 0, 8, 0x0000, 0⟩,
  ⟨0x8005, 4, .u64, 8, .ro, 0, 8, 0x0000, 0⟩,
  ⟨0x8005, 5, .u64, 8, .ro, 0, 8, 0x0000, 0⟩]

def Od.rows10 : List ObjRow := [
  ⟨0x8005, 6, .u64, 8, .ro, 0, 0, 0x0000, 0⟩,
  ⟨0x8005, 16, .u16, 2, .rw, 0, 0, 0x0000, 0⟩,
  ⟨0x8006, 1, .u64, 8, .ro, 0, 8, 0x0000, 0⟩,
  ⟨0x8006, 2, .u64, 8, .ro, 0, 8, 0x0000, 0⟩,
  ⟨0x8006, 16, .u16, 2, .rw, 0, 0, 0x0000, 0⟩,
  ⟨0x9000, 1, .octets, 32, .wo, 0, 1, 0x0000, 0⟩,
  ⟨0x9000, 2, .bool, 1, .ro, 0, 1, 0x0000, 0⟩,
  ⟨0x9000, 3, .u64, 8, .ro, 0, 8, 0x0000, 0⟩,
  ⟨0x9000, 16, .u16, 2, .rw, 0, 0, 0x0000, 0⟩,
  ⟨0x9010, 1, .u16, 2, .rw, 0, 2, 0x0000, 0⟩,
  ⟨0x9011, 1, .u8, 1, .ro, 0, 5, 0x0000, 0⟩,
  ⟨0x9011, 2, .octets, 32, .wo, 0, 5, 0x0000, 0⟩,
  ⟨0x9011, 3, .bool, 1, .rw, 0, 5, 0x0000, 0⟩,
  ⟨0x9011, 4, .bool, 1, .rw, 0, 5, 0x0000, 0⟩,
  ⟨0x9011, 5, .u64, 8, .rw, 0, 5, 0x0000, 0⟩,
  ⟨0x9011, 6, .u64, 8, .rw, 18446744073709551615, 5, 0x0000, 0⟩,
  ⟨0x9011, 7, .u64, 8, .ro, 0, 4, 0x0000, 0⟩,
  ⟨0x9011, 8, .u16, 2, .rw, 4096, 5, 0x0000, 0⟩,
  ⟨0x9011, 9, .u16, 2, .ro, 0, 4, 0x0000, 0⟩,
  ⟨0x9011, 10, .bool, 1, .wo, 0, 4, 0x0000, 0⟩,
  ⟨0x9020, 1, .u32, 4, .rw, 0, 2, 0x0000, 0⟩,
  ⟨0x9020, 2, .octets, 4096, .wo, 0, 4, 0x0000, 0⟩,
  ⟨0x9020, 3, .bool, 1, .wo, 0, 0, 0x0000, 0⟩,
  ⟨0x9020, 4, .u8, 1, .rw, 0, 2, 0x0000, 0⟩,
  ⟨0x9020, 5, .u32, 4, .ro, 0, 5, 0x0000, 0⟩,
  ⟨0x9030, 1, .octets, 2904, .ro, 0, 1, 0x0000, 0⟩,
  ⟨0x9030, 2, .octets, 1568, .ro, 0, 1, 0x0000, 0⟩,
  ⟨0x9030, 3, .u32, 4, .ro, 0, 1, 0x0000, 0⟩,
  ⟨0x9030, 4, .u32, 4, .ro, 1048576, 1, 0x0000, 0⟩,
  ⟨0x9030, 5, .bool, 1, .wo, 0, 0, 0x0000, 0⟩,
  ⟨0x9030, 6, .bool, 1, .wo, 0, 0, 0x0000, 0⟩,
  ⟨0x9030, 7, .octets, 3700, .ro, 0, 1, 0x0000, 0⟩,
  ⟨0x9030, 8, .u32, 4, .rw, 3600, 1, 0x0000, 0⟩,
  ⟨0x9040, 1, .u8, 1, .rw, 0, 2, 0x0000, 0⟩,
  ⟨0x9041, 1, .u8, 1, .ro, 0, 5, 0x0000, 0⟩,
  ⟨0x9041, 2, .u16, 2, .ro, 0, 5, 0x0000, 0⟩,
  ⟨0x9041, 3, .u32, 4, .ro, 0, 5, 0x0000, 0⟩,
  ⟨0x9042, 1, .octets, 1620, .wo, 0, 1, 0x0000, 0⟩,
  ⟨0x9042, 2, .u32, 4, .wo, 0, 0, 0x0000, 0⟩,
  ⟨0xA000, 1, .u8, 1, .rw, 2, 1, 0x0000, 0⟩,
  ⟨0xA000, 2, .u32, 4, .ro, 115200, 0, 0x0000, 0⟩,
  ⟨0xA000, 3, .u8, 1, .ro, 0, 0, 0x0000, 0⟩,
  ⟨0xA001, 1, .u8, 1, .rw, 0, 2, 0x0000, 0⟩,
  ⟨0xA001, 2, .bool, 1, .wo, 0, 0, 0x0000, 0⟩,
  ⟨0xA001, 3, .bool, 1, .wo, 0, 0, 0x0000, 0⟩,
  ⟨0xA001, 4, .u16, 2, .wo, 0, 0, 0x0000, 0⟩,
  ⟨0xA001, 5, .u8, 1, .ro, 0, 0, 0x0000, 0⟩,
  ⟨0xA002, 1, .u16, 2, .rw, 0, 2, 0x0000, 0⟩,
  ⟨0xA002, 2, .u16, 2, .rw, 0, 4, 0x0000, 0⟩,
  ⟨0xA002, 3, .u8, 1, .rw, 0, 2, 0x0000, 0⟩]

def Od.rows11 : List ObjRow := [
  ⟨0xA002, 4, .u32, 4, .rw, 0, 4, 0x0000, 0⟩,
  ⟨0xA002, 5, .octets, 1024, .rw, 0, 4, 0x0000, 0⟩,
  ⟨0xA002, 6, .octets, 32, .rw, 0, 4, 0x0000, 0⟩,
  ⟨0xA002, 7, .u32, 4, .rw, 0, 2, 0x0000, 0⟩,
  ⟨0xA002, 8, .octets, 4096, .rw, 0, 4, 0x0000, 0⟩,
  ⟨0xA010, 1, .u8, 1, .rw, 0, 0, 0x0000, 0⟩,
  ⟨0xA010, 2, .u8, 1, .rw, 0, 0, 0x0000, 0⟩,
  ⟨0xA010, 3, .u32, 4, .rw, 0, 0, 0x0000, 0⟩,
  ⟨0xA010, 4, .u64, 8, .rw, 0, 0, 0x0000, 0⟩,
  ⟨0xA010, 5, .u8, 1, .ro, 0, 0, 0x0000, 0⟩,
  ⟨0xA010, 6, .bool, 1, .rw, 0, 0, 0x0000, 0⟩,
  ⟨0xA011, 1, .u64, 8, .ro, 0, 8, 0x0000, 0⟩,
  ⟨0xA011, 2, .u64, 8, .ro, 0, 8, 0x0000, 0⟩,
  ⟨0xA011, 16, .u16, 2, .rw, 0, 0, 0x0000, 0⟩,
  ⟨0xA012, 1, .u32, 4, .ro, 0, 0, 0x0000, 0⟩,
  ⟨0xA012, 2, .u64, 8, .ro, 0, 0, 0x0000, 0⟩,
  ⟨0xA012, 3, .u8, 1, .ro, 0, 0, 0x0000, 0⟩,
  ⟨0xA012, 4, .u32, 4, .rw, 0, 2, 0x0000, 0⟩,
  ⟨0xA012, 5, .octets, 4096, .ro, 0, 4, 0x0000, 0⟩]

/-- Every object of the dictionary, in ascending address order. -/
def Od.rows : List ObjRow :=
  Od.rows0 ++ Od.rows1 ++ Od.rows2 ++ Od.rows3 ++ Od.rows4 ++ Od.rows5 ++ Od.rows6 ++ Od.rows7 ++ Od.rows8 ++ Od.rows9 ++ Od.rows10 ++ Od.rows11

def Od.ranges0 : List ((Nat × Nat) × (Nat × Nat)) := [
  ((0x1100, 2), (1, 4094)),
  ((0x1100, 3), (1, 4094)),
  ((0x1100, 8), (1024, 65535)),
  ((0x1100, 11), (0, 7)),
  ((0x1100, 12), (0, 127)),
  ((0x1101, 1), (2125000, 2147483647)),
  ((0x1101, 3), (2125, 21250000)),
  ((0x1101, 4), (1, 16)),
  ((0x1101, 5), (1, 21250)),
  ((0x2001, 2), (1, 4)),
  ((0x2001, 3), (1, 4)),
  ((0x2002, 1), (213, 2147483647)),
  ((0x2002, 2), (1, 86400)),
  ((0x2003, 1), (0, 2)),
  ((0x2003, 2), (0, 2)),
  ((0x2003, 3), (0, 2)),
  ((0x2003, 4), (0, 2)),
  ((0x2003, 5), (0, 2)),
  ((0x2003, 6), (0, 2)),
  ((0x2300, 1), (1120, 1680)),
  ((0x2300, 2), (1, 25)),
  ((0x2300, 3), (25, 100)),
  ((0x2301, 1), (0, 1563)),
  ((0x2500, 1), (0, 32)),
  ((0x2600, 1), (0, 63)),
  ((0x2601, 3), (0, 1023)),
  ((0x2603, 1), (0, 15)),
  ((0x2604, 1), (0, 2)),
  ((0x3000, 1), (0, 2)),
  ((0x3001, 1), (0, 1)),
  ((0x3002, 1), (32, 256)),
  ((0x3020, 1), (0, 3263)),
  ((0x3027, 4), (0, 31)),
  ((0x3027, 6), (0, 31)),
  ((0x3029, 1), (0, 3071)),
  ((0x302A, 2), (1, 65535)),
  ((0x302A, 3), (1, 255)),
  ((0x3040, 1), (0, 95)),
  ((0x3050, 1), (0, 399)),
  ((0x3053, 1), (16, 65535))]

def Od.ranges1 : List ((Nat × Nat) × (Nat × Nat)) := [
  ((0x3060, 1), (0, 47)),
  ((0x4000, 2), (213, 21250)),
  ((0x4000, 3), (2125, 106250)),
  ((0x4001, 1), (0, 5)),
  ((0x4010, 1), (0, 63)),
  ((0x5000, 2), (0, 4096)),
  ((0x5001, 1), (1, 65536)),
  ((0x5001, 9), (0, 100)),
  ((0x5001, 10), (1, 4096)),
  ((0x5001, 11), (1, 4096)),
  ((0x5010, 2), (0, 100)),
  ((0x5020, 1), (0, 4095)),
  ((0x5022, 1), (0, 4095)),
  ((0x6001, 1), (2125, 2147483647)),
  ((0x6010, 1), (0, 15)),
  ((0x6011, 3), (1, 64)),
  ((0x6011, 4), (0, 1023)),
  ((0x6011, 6), (0, 1)),
  ((0x7000, 2), (600, 86400)),
  ((0x7000, 3), (2125000, 2147483647)),
  ((0x7000, 4), (2125000, 2147483647)),
  ((0x7000, 5), (2125000, 2147483647)),
  ((0x7000, 6), (1024, 4294967295)),
  ((0x7000, 7), (1, 255)),
  ((0x7000, 9), (1, 16384)),
  ((0x7000, 10), (1, 255)),
  ((0x7010, 1), (0, 15)),
  ((0x7010, 2), (0, 95)),
  ((0x7010, 3), (0, 33)),
  ((0x7013, 1), (0, 3071)),
  ((0x7020, 2), (0, 63)),
  ((0x8000, 1), (1, 4294967295)),
  ((0x8000, 3), (2125, 2147483647)),
  ((0x8001, 1), (0, 1535)),
  ((0x8001, 2), (0, 19)),
  ((0x8003, 1), (1, 255)),
  ((0x8003, 2), (2125, 2147483647)),
  ((0x9010, 1), (0, 1023)),
  ((0x9011, 8), (0, 4096)),
  ((0x9020, 4), (0, 7))]

def Od.ranges2 : List ((Nat × Nat) × (Nat × Nat)) := [
  ((0x9030, 8), (60, 86400)),
  ((0xA000, 1), (0, 2)),
  ((0xA001, 1), (0, 64)),
  ((0xA001, 4), (0, 3071)),
  ((0xA002, 1), (0, 3071)),
  ((0xA002, 2), (0, 8191)),
  ((0xA002, 3), (0, 31)),
  ((0xA010, 1), (0, 3)),
  ((0xA010, 2), (0, 1))]

/-- The ranges that the Meaning columns and the rules state (R368); every other object takes its whole type. -/
def Od.ranges : List ((Nat × Nat) × (Nat × Nat)) := Od.ranges0 ++ Od.ranges1 ++ Od.ranges2

/-- The objects whose Default column is not 0 (R371). -/
def Od.nonzero : List ((Nat × Nat) × Nat) := [
  (((0x1000, 1), 18498)),
  (((0x1000, 2), 889061849044700643912)),
  (((0x1000, 6), 1)),
  (((0x1100, 2), 2)),
  (((0x1100, 3), 4000)),
  (((0x1100, 8), 19778)),
  (((0x1100, 10), 309)),
  (((0x1100, 11), 6)),
  (((0x1100, 13), 4000)),
  (((0x1101, 1), 212500000)),
  (((0x1101, 2), 21250000)),
  (((0x1101, 3), 21250)),
  (((0x1101, 4), 8)),
  (((0x1101, 5), 425)),
  (((0x1103, 2), 15)),
  (((0x1103, 4), 4096)),
  (((0x1200, 9), 1000)),
  (((0x1202, 1), 4096)),
  (((0x1202, 2), 3840)),
  (((0x2000, 3), 4294967295)),
  (((0x2001, 2), 1)),
  (((0x2001, 3), 2)),
  (((0x2002, 1), 425)),
  (((0x2002, 2), 60)),
  (((0x2300, 1), 1520)),
  (((0x2300, 2), 5)),
  (((0x2300, 3), 25)),
  (((0x2300, 4), 1840)),
  (((0x2300, 7), 255)),
  (((0x2502, 1), 1024)),
  (((0x3002, 1), 128)),
  (((0x3002, 2), 128)),
  (((0x3021, 4), 256)),
  (((0x3021, 6), 6)),
  (((0x3027, 8), 7)),
  (((0x3028, 4), 65535)),
  (((0x3029, 3), 16384)),
  (((0x302A, 1), 2048)),
  (((0x302A, 2), 64)),
  (((0x302A, 3), 4))] ++ [
  (((0x3031, 1), 1)),
  (((0x3031, 2), 1)),
  (((0x3053, 1), 1024)),
  (((0x3053, 2), 256)),
  (((0x3061, 2), 255)),
  (((0x3061, 8), 4294967295)),
  (((0x3063, 1), 1)),
  (((0x4000, 2), 2125)),
  (((0x4000, 3), 21250)),
  (((0x4000, 4), 1024)),
  (((0x4002, 2), 4294967295)),
  (((0x4004, 3), 255)),
  (((0x4011, 8), 4294967295)),
  (((0x5000, 2), 256)),
  (((0x5000, 3), 212500000)),
  (((0x5001, 1), 512)),
  (((0x5001, 9), 50)),
  (((0x5001, 10), 32)),
  (((0x5001, 11), 16)),
  (((0x5001, 12), 212500)),
  (((0x5010, 1), 425)),
  (((0x5010, 2), 8)),
  (((0x6001, 1), 212500)),
  (((0x6001, 2), 212500000)),
  (((0x7000, 1), 1)),
  (((0x7000, 2), 3600)),
  (((0x7000, 3), 212500000)),
  (((0x7000, 4), 2125000000)),
  (((0x7000, 5), 212500000)),
  (((0x7000, 6), 65536)),
  (((0x7000, 7), 3)),
  (((0x7000, 8), 8)),
  (((0x7000, 9), 512)),
  (((0x7000, 10), 2)),
  (((0x7011, 4), 255)),
  (((0x7011, 5), 255)),
  (((0x7013, 3), 16384)),
  (((0x7013, 5), 16384)),
  (((0x8000, 3), 212500)),
  (((0x8003, 1), 4)),
  (((0x8003, 2), 212500000)),
  (((0x8005, 1), 1)),
  (((0x9011, 6), 18446744073709551615)),
  (((0x9011, 8), 4096)),
  (((0x9030, 4), 1048576)),
  (((0x9030, 8), 3600)),
  (((0xA000, 1), 2)),
  (((0xA000, 2), 115200))]

/-- A per-die index taken to die 0 (R367). -/
def Od.norm (idx : Nat) : Nat := if 0x3000 ≤ idx ∧ idx < 0x4000 then 0x3000 + idx % 0x100 else idx

/-- The table row of an address, if the address is implemented with a subindex from 01h up (R367). -/
def Od.row? (idx sub : Nat) : Option ObjRow :=
  Od.rows.find? fun r => r.idx == Od.norm idx && r.sub == sub

/-- The Default column of an address (R371). -/
def Od.dflt (idx sub : Nat) : Nat :=
  match Od.nonzero.find? fun e => e.1.1 == Od.norm idx && e.1.2 == sub with
  | some e => e.2
  | none => 0

/-- The range of an address where a table or rule states one. -/
def Od.range? (idx sub : Nat) : Option (Nat × Nat) :=
  (Od.ranges.find? fun e => e.1.1 == Od.norm idx && e.1.2 == sub).map Prod.snd

end Sys2Proof.Machine
end

