-- ==== Sys2Proof/Machine/State.lean ====
section
/-!
DEFINITION. The state of one module as plain data. The object dictionary (`regs`) is the register file: every object
of the object tables has its one home there. What the spec gives the machine besides (register files, SRAM, arrays,
queues, messages in flight, sessions, stores of HB) stands in the typed tables below. Tables are sparse: an entry that
is not listed holds the value after reset that its `new` definition gives.
-/
namespace Sys2Proof.Machine

/-- A vector register: 256 lane words (Table IS-1). -/
abbrev VReg := Vector PWord 256

/-- A predicate register: 256 bits, and one tag per 32-bit word (Table IS-1). -/
structure PredReg where
  bits : BitVec 256
  poison : BitVec 8
  deriving DecidableEq, Repr

/-- A receive channel: landing window and notify object, 63 for none (R157). -/
structure Chan where
  off : Nat
  len : Nat
  notify : Nat
  deriving DecidableEq, Repr

/-- What a stalled instruction of a strand waits for (R155, R158, R228, R229, R232, R26; a STEP at which a freeze is pending, R137). `met`: the latched result of
R229. -/
inductive Stall where
  | sync (obj : Nat) (eq : Bool) (target : Word) (met : Bool)
  | arrive (obj : Nat) (met : Bool)
  | tick (target : Nat)
  | dmaFull
  | sendFull
  | arrFull (slots : List Nat)
  | ceiling (slots : List Nat) (cls busy deadline : Nat)
  | buffer (slots : List Nat)
  | boundary
  deriving DecidableEq, Repr

/-- A REPLAY site of the image (R94, R190, R196). -/
structure ReplaySite where
  staging : Nat
  groups : Nat
  span : Nat
  deriving DecidableEq, Repr

/-- A degenerate operand scheduled for its one replay (R95). -/
structure Replay where
  staging : Nat
  widths : List Nat
  group : Bool
  a4 : Bool
  buf : Nat
  slots : List Nat
  span : Nat
  ctx : Nat
  deriving DecidableEq, Repr

/-- A slot as the strand's image uses it (Table PC-3, SLOTS). `own`: bits 0 to 3 for IB0, IB1, RB0, RB1. -/
structure SlotUse where
  trainShare : Bool
  servingSlot : Bool
  own : Nat
  wfmt : Nat
  budget : Nat
  fs : Nat
  tfs : Nat
  economy : Bool
  block : Nat
  deriving DecidableEq, Repr

/-- One strand of a cluster (R141, R142, R151, R157 to R161). `dlnAt`: the tick and clock in which the last DLN issued (R159); `late`: a
request for the missed deadline is raised; `stepping`: a step of DEBUG is not complete (R163); `wasFrozen`: the
strand was FROZEN before the stop (R461). -/
structure Strand where
  sreg : Store PWord
  vreg : Store VReg
  preg : Store PredReg
  pc : Nat
  entry : Nat
  imem : Store Word
  base : Nat
  deadline : Option Nat
  dlnAt : Nat × Nat
  late : Bool
  stall : Option Stall
  stallSince : Nat
  idleOffered : Bool
  gap : Option (Nat × Nat)
  gaps : Store Nat
  chans : Store Chan
  points : Store Nat
  params : Store Word
  rank : Nat
  ncl : Nat
  tenant : Nat
  coord : Nat
  slots : Store SlotUse
  sites : Store ReplaySite
  replay : Option Replay
  floors : Store Int
  bank : Nat
  freezeReq : Bool
  frozenAt : Nat
  lastStep : Nat
  stepPrecision : Bool
  stepping : Bool
  wasFrozen : Bool
  deriving DecidableEq, Repr

/-- A strand after reset and after clearing (R126, R141); BALLAST_FLOOR is the value of R96 while no request runs. -/
def Strand.new : Strand where
  sreg := []
  vreg := []
  preg := []
  pc := 0
  entry := 0
  imem := []
  base := 0
  deadline := none
  dlnAt := (0, 0)
  late := false
  stall := none
  stallSince := 0
  idleOffered := false
  gap := none
  gaps := []
  chans := []
  points := []
  params := []
  rank := 0
  ncl := 0
  tenant := 0
  coord := 0
  slots := []
  sites := []
  replay := none
  floors := []
  bank := 0
  freezeReq := false
  frozenAt := 0
  lastStep := 0
  stepPrecision := false
  stepping := false
  wasFrozen := false

/-- BALLAST_FLOOR of a strand's cluster (R96): the smallest of the floors that HB of each entry module sent; 7FFFFFFFh where no request of
the slice runs. -/
def Strand.floor (t : Strand) : Int := t.floors.foldl (fun a e => if e.2 < a then e.2 else a) 0x7FFFFFFF

/-- The tag of one 4 KiB page (R125). -/
structure PageTag where
  valid : Bool
  strand : Nat
  tenant : Nat
  deriving DecidableEq, Repr

/-- A DMA descriptor (R155). -/
structure Dma where
  strand : Nat
  src : Nat
  dst : Nat
  len : Nat
  notify : Nat
  deriving DecidableEq, Repr

/-- A constellation node's links (R231): parent rank (none at the root) and child ranks in ascending order. -/
structure NodeLinks where
  job : Nat
  strand : Nat
  parent : Option Nat
  children : List Nat
  waiting : Bool
  deriving DecidableEq, Repr

/-- A column's pair sums in the shadow comparator (R307). -/
structure PairSum where
  n : Nat
  sa : Int
  sb : Int
  saa : Int
  sab : Int
  lo : Int
  hi : Int
  dis : Nat
  deriving DecidableEq, Repr

/-- The objects of Table CA-4 as they stood when a cluster's transit started: a change applies from the next transit (R317). -/
structure TransitSet where
  window : Nat
  windowMax : Nat
  copyMax : Nat
  minPairs : Nat
  lsb : Nat
  count : Nat
  gain : Nat
  offset : Nat
  deriving DecidableEq, Repr

/-- A preflight fragment of a loaded pack: class, length in ticks and expected signature (R390). -/
structure Fragment where
  cls : Nat
  ticks : Nat
  sig : Nat
  deriving DecidableEq, Repr

/-- A preflight fragment that runs (R390): the tick it started in, its place (0, 1 a declared test gap of that strand; 2, 3 an
idle gap; 4 both strands EMPTY) and the array of a SEQUENCER fragment. -/
structure PfRun where
  start : Nat
  place : Nat
  array : Nat
  deriving DecidableEq, Repr

/-- A retirement that follows the reset in progress: reason 1 preflight, 2 residue, and the start of its window (Table RL-5). -/
structure Retire where
  why : Nat
  start : Nat
  deriving DecidableEq, Repr

/-- The state of a cluster that no object holds. `slotMap0`, `slotMap1`: the bindings of banks 0 and 1 that differ from
slot s to array s (R52, R272); `pendingSlots`: bindings that wait for a BATCH at `64 · k + 32 · bank + slot`, k = 0 for a
meridian switch and 1 for replacements and swaps (R52, R161); `installed`: the version entry whose bindings the last
BATCH installed and that is not yet reported (R291); `idleFrom`, `restFrom`: the `State.ticks` from which the conditions of R236
and of R414 have held; `pcsr`: the control registers of PCSRR and PCSRW (Table IS-5); `port`: the
ring stop's port queue, oldest first, each entry a flit by the MID of its message (R113, R129). -/
structure Cluster where
  dma0 : List Dma
  dma1 : List Dma
  nodes : Store NodeLinks
  slotMap0 : Store Nat
  slotMap1 : Store Nat
  pendingSlots : Store Nat
  switching : Option Nat
  installed : Option Nat
  clearing : Option Nat
  pcsr : Store Word
  lent : Bool
  idleFrom : Nat
  residues : List Nat
  retireAfterReset : Option Retire
  restFrom : Nat
  wakeAt : Option Nat
  port : List Nat
  lastRound : Nat
  roundStart : Nat
  roundLen : Nat
  inRound : Bool
  packs : List (List Fragment)
  pfPack : Nat
  pfFrag : Nat
  pfRunning : Option PfRun
  pfMismatch : Bool
  pfPassed : Store Nat
  transitFor : Nat
  copiedRows : Nat
  rowBufs : List (List Byte)
  pairs : Store PairSum
  transitSet : TransitSet
  deriving DecidableEq, Repr

def Cluster.new : Cluster where
  dma0 := []
  dma1 := []
  nodes := []
  slotMap0 := []
  slotMap1 := []
  pendingSlots := []
  switching := none
  installed := none
  clearing := none
  pcsr := []
  lent := false
  idleFrom := 0
  residues := []
  retireAfterReset := none
  restFrom := 0
  wakeAt := none
  port := []
  lastRound := 0
  roundStart := 0
  roundLen := 0
  inRound := false
  packs := []
  pfPack := 0
  pfFrag := 0
  pfRunning := none
  pfMismatch := false
  pfPassed := []
  transitFor := 0
  copiedRows := 0
  rowBufs := []
  pairs := []
  transitSet := ⟨0, 0, 0, 0, 0, 0, 0, 0⟩

/-- An array command: kind 0 MVM, 1 TREAD, 2 SEQ0, 3 SEQ6 (Table IS-8), with the strand that issued it and the clock at
which it entered or will enter the queue (R41). -/
structure ArrCmd where
  strand : Nat
  kind : Nat
  ib : Nat
  rb : Nat
  ext : Nat
  fp32 : Bool
  lc : Bool
  clock : Nat
  deriving DecidableEq, Repr

/-- A read in progress (R36, R41, R45): the captured input after realignment, E_max, what poisons the whole result, the
start clock, actual phases and the next phase to start, the tick in which the result becomes visible, the accumulated
lines (doubled level-units for a transposed read, R49), the array that mirrors the read (R307), and the correction entries of the array
and of its mirror that have changed since the start (R313). -/
structure ArrRun where
  cmd : ArrCmd
  a4 : Bool
  start : Nat
  acts : List Int
  emax : Nat
  poison : Bool
  nan : Bool
  inactive : Bool
  phases : Nat
  next : Nat
  visible : Nat
  acc : List Int
  mirror : Option Nat
  held : Store (Int × Nat)
  heldMirror : Store (Int × Nat)
  deriving DecidableEq, Repr

/-- One cell array (R29): cells by 1024 · row + column, reference cells by 32 · row + 2 · group (REF8) and + 1 (REF0), column scales,
buffers, queues, reads in progress, sequencer, calibration and programming. `seqIb`, `seqExt`: the input buffer and row extent that an
entry with DRIVE drives (R70, R154); `seqHeld`: the clock until which a suspended sequence holds the sense lines (R74); `owLines`: the
lines that the sequence has reported (R79); `bins`: samples by 8 · monitor window + bin (R80); `eqFrom`: the cluster's
equivalent time at which DRIFT_EQ_TIME held its register's value (R59). `cmds` holds commands that have issued and not yet entered a queue (R41); `free0` and
`free1` are the clocks from which the next command of the serving and TRAIN queue may start; `phaseEnd`, `phaseTrain`
the phase in progress; `convEnd` the end of the last conversion (R42); `bias` 0 OFF, 1 IDLE, 2 ON (R413). -/
structure ArrayU where
  cells : Store (BitVec 4)
  refs : Store (BitVec 4)
  scales : Store (BitVec 16)
  inBytes : Store (BitVec 8)
  inPoison : NSet
  inA4 : NSet
  results : Store PWord
  cmds : List ArrCmd
  q0 : List ArrCmd
  q1 : List ArrCmd
  runs : List ArrRun
  free0 : Nat
  free1 : Nat
  phaseEnd : Nat
  phaseTrain : Bool
  convEnd : Nat
  progRow : Option Nat
  progBlock : Option (Nat × Nat)
  seq : Store (BitVec 64)
  seqRep : Nat
  seqFound : Nat
  seqSkipped : Bool
  seqOw : Bool
  seqIb : Nat
  seqExt : Nat
  seqHeld : Nat
  owLines : List Nat
  calAcc : Store Int
  bins : Store Nat
  eqFrom : Nat
  excursions : Nat
  learned : Nat
  envLow : Store Nat
  envHigh : Store Nat
  ramps : Store (Int × Int × Nat)
  zeroRest : Store Int
  targetsTemp : Int
  leftActive : Nat
  cleanBefore : Nat
  overdue : Option Nat
  rampTick : Nat
  bias : Nat
  biasFrom : Nat
  sweep : Nat
  deriving DecidableEq, Repr

def ArrayU.new : ArrayU where
  cells := []
  refs := []
  scales := []
  inBytes := []
  inPoison := []
  inA4 := []
  results := []
  cmds := []
  q0 := []
  q1 := []
  runs := []
  free0 := 0
  free1 := 0
  phaseEnd := 0
  phaseTrain := false
  convEnd := 0
  progRow := none
  progBlock := none
  seq := []
  seqRep := 0
  seqFound := 0
  seqSkipped := false
  seqOw := false
  seqIb := 0
  seqExt := 31
  seqHeld := 0
  owLines := []
  calAcc := []
  bins := []
  eqFrom := 0
  excursions := 0
  learned := 0
  envLow := []
  envHigh := []
  ramps := []
  zeroRest := []
  targetsTemp := 0
  leftActive := 0
  cleanBefore := 0
  overdue := none
  rampTick := 0
  bias := 0
  biasFrom := 0
  sweep := 0

/-- How a message is carried: AUTO chose its ring, so that it keeps no order (R173); PACK (Table DN-5), and whether the blocks of a
packed payload have exponent bytes of their own (log entry 21); its payload bytes as carried (LEN + 1); its source stop as die · 128 +
position and the count of its MID (R170); the flits that its source stop has not injected yet (R162, R173); the module it is for. -/
structure Carried where
  auto : Bool
  pack : Nat
  exps : Bool
  len : Nat
  stop : Nat
  count : Nat
  left : Nat
  mod : Nat
  deriving DecidableEq, Repr

/-- An unpacked message of `n` payload bytes on a ring that is bound or named; `State.post` gives it its MID. -/
def Carried.plain (n : Nat) : Carried := ⟨false, 0, false, n, 0, 0, 0, 0⟩

/-- A message of the die network (Tables DN-5, DN-6). `src` and `dst` are strand numbers of a module, or 10000h + die for
PH, PF0, PF1 and HB; `srcMod` the sender's module; `ring` the ring bound, named or chosen by AUTO (R173); `op` the OP
of a CONSTELLATION message (Table SY-2); `part` the part index of a DATA message from HB (R251); `value` VALUE or GEN; `payload` the
words as carried, the last one filled up with zeros. -/
structure NetMsg where
  type : Nat
  srcMod : Nat
  src : Nat
  dst : Nat
  ring : Nat
  chan : Nat
  obj : Nat
  op : Nat
  tenant : Nat
  job : Nat
  rgid : Nat
  part : Nat
  value : Word
  payload : List PWord
  how : Carried
  deriving DecidableEq, Repr

/-- A fabric message (Table FB-4): destination and source module, DIR, RESENT, VC, SPF, STAMP and FSEQ with its die
message. -/
structure FabMsg where
  dst : Nat
  src : Nat
  dir : Nat
  resent : Bool
  vc : Nat
  spf : Nat
  stamp : Nat
  fseq : Nat
  msg : NetMsg
  deriving DecidableEq, Repr

/-- An input of a merge point (R177): its place in the order of addition, and what enters there: contributor rank r as r,
the output of the group's merge point i as 1000000h + i. -/
structure MergeSrc where
  order : Nat
  src : Nat
  deriving DecidableEq, Repr

/-- A merge point of a group (R176): module, node of the die network and inputs in the order of addition. -/
structure MergePt where
  mod : Nat
  node : Nat
  inputs : List MergeSrc
  deriving DecidableEq, Repr

/-- A message that waits at an input of a merge point: the input, its number among the group's messages there, and by flit position
the job time of arrival and the words (R179). -/
structure MergeIn where
  src : Nat
  num : Nat
  flits : Store (Nat × List PWord)
  deriving DecidableEq, Repr

/-- The state of a merge point of this module (R177, R179): messages of the group that each input has begun to deliver, messages
forwarded, messages that wait, the next flit, the words forwarded so far, and whether the timeout has passed for the message due. -/
structure MergeRun where
  delivered : Store Nat
  fwd : Nat
  waiting : List MergeIn
  flit : Nat
  out : List PWord
  late : Bool
  deriving DecidableEq, Repr

def MergeRun.new : MergeRun := ⟨[], 0, [], 0, [], false⟩

/-- The module and cluster that a rank of a job is bound to (R188). -/
structure Place where
  coord : Nat
  cl : Nat
  deriving DecidableEq, Repr

/-- A hold request of a job (R214): the requesting strand (none: HB), its cause (Table ST-5), its span (none: open),
the tick it was raised in and the tick it was withdrawn in; `after`: a replay's hold that starts when the current hold ends (Table
NF-5). -/
structure HoldReq where
  src : Option Nat
  cause : Nat
  span : Option Nat
  raised : Nat
  withdrawn : Option Nat
  after : Bool
  deriving DecidableEq, Repr

/-- A reduction group as bound (R176). -/
structure Group where
  rgid : Nat
  dst : Nat
  chan : Nat
  fp : Bool
  len : Nat
  contrib : List Nat
  points : List MergePt
  deriving DecidableEq, Repr

/-- A fabric message in an elastic buffer and the job time of its release, stamp plus priced latency (R217). -/
structure Elastic where
  msg : FabMsg
  release : Nat
  deriving DecidableEq, Repr

/-- The state of a job that no object holds. `up`: the die links that were UP when its routes were fixed (R172, R174); `links`, `ports`: the die links and fabric ports of its bound routes (R172);
`reqs`, `holdStart`: the requests of the hold in progress and its start (R215); `peers`: HOLD_OFFSET of the job's other
modules by coordinate, and `peerHolds` the start and end (0 while open) of the hold that each reported last (R216, R218); `senders`: the
other modules that send to this one; `asked` the peers that a PEER request was sent to, `peerHold` the module whose PEER request
holds this one; `groups`: R176; `startTick`: R203; `elastic`: R217; `roleOf`: the role of each rank; `pools`: KV_POOL and
ADAPTER_POOL regions as (kind, rank, offset, length), kind 4 or 5; `query`: a
multi-module enable in progress: replies by module, the session that wrote it and the tick the query was sent in (R355). -/
structure Job where
  train : Bool
  ranks : List Place
  roleOf : List Nat
  stale : Bool
  image : Nat
  sliceRev : Nat
  up : List Nat
  links : List Nat
  ports : List Nat
  reqs : List HoldReq
  holdStart : Option Nat
  alarmed : Bool
  peers : Store Nat
  peerHolds : Store (Nat × Nat)
  senders : List Nat
  asked : List Nat
  peerHold : Option Nat
  groups : List Group
  startTick : Option Nat
  elastic : List Elastic
  entries : Store Nat
  lowSince : Option Nat
  pools : List (Nat × Nat × Nat × Nat)
  query : Option (Store EnableReply × Nat × Nat)
  delay : Nat
  lat : Store Nat
  dbgStopAt : Option Nat
  pair : Nat
  deriving DecidableEq, Repr

def Job.new : Job where
  train := false
  ranks := []
  roleOf := []
  stale := false
  image := 0
  sliceRev := 0
  up := List.range 33
  links := []
  ports := []
  reqs := []
  holdStart := none
  alarmed := false
  peers := []
  peerHolds := []
  senders := []
  asked := []
  peerHold := none
  groups := []
  startTick := none
  elastic := []
  entries := []
  lowSince := none
  pools := []
  query := none
  delay := 0
  lat := []
  dbgStopAt := none
  pair := 0

/-- What a context entry holds beyond the objects of Table SV-1: the tick it went to ENDING in, the expiry tick in RETAINED,
the prefix's length and runs of KV blocks as (first, count), the ballasts of the first token and of a step (R220), the ticks
drawn by hold cause, the prompt, whether the admission record has landed, `waits`: t_adm + W while the record waits for a
freeze (R265), whether a die of the slice was at its floor since the last delivery (R422), and the breach of this tick that is
not yet reported: cause, source, token index, deadline and delivery (R224, Table ST-6). -/
structure Ctx where
  endTick : Nat
  expiry : Nat
  prefixLen : Nat
  prefixRuns : List (Nat × Nat)
  stepBallast : Nat
  drawn : Store Nat
  prompt : List Word
  adapterOff : Nat
  landed : Bool
  waits : Option Nat
  floorSeen : Bool
  breachDue : Option (Nat × Nat × Nat × Nat × Nat)
  out : Option (Nat × Nat)
  deriving DecidableEq, Repr

def Ctx.new : Ctx where
  endTick := 0
  expiry := 0
  prefixLen := 0
  prefixRuns := []
  stepBallast := 0
  drawn := []
  prompt := []
  adapterOff := 0xFFFFFFFF
  landed := false
  waits := none
  floorSeen := false
  breachDue := none
  out := none

/-- What a prefix handle entry holds beyond its objects (R258, R261): reuse count, runs of KV blocks as (first, count); of
an import the deadline, the bytes announced, the ranges landed, the header bytes and the session. -/
structure Prefix where
  reuse : Nat
  runs : List (Nat × Nat)
  deadline : Nat
  total : Nat
  landed : List (Nat × Nat)
  head : Store (BitVec 8)
  session : Nat
  deriving DecidableEq, Repr

def Prefix.new : Prefix where
  reuse := 0
  runs := []
  deadline := 0
  total := 0
  landed := []
  head := []
  session := 0

/-- A sequenced message received from the host (Table HP-2); `found`: what the module finds at the entries of an OD message. -/
structure InMsg where
  cls : Nat
  kind : Nat
  flags : Nat
  seq : Nat
  ctx : Nat
  reqId : Nat
  payload : List Byte
  found : List Found
  deriving DecidableEq, Repr

/-- A message of the host port (Table HP-2) that the module sends; `eng`: its engine class, 0 LC, 1 STANDARD, 2 BULK. -/
structure OutMsg where
  session : Nat
  cls : Nat
  kind : Nat
  flags : Nat
  seq : Nat
  reason : Nat
  ctx : Nat
  reqId : Nat
  payload : List Byte
  eng : Nat
  deriving DecidableEq, Repr

/-- A datagram on the wire: the message with its TXN, acknowledgement fields and credit (Table HP-2), the address it goes to,
whether it leaves on MGMT_VLAN, and its PCP (R321). -/
structure Wire where
  msg : OutMsg
  txn : Nat
  cumAck : Nat
  sack : Nat
  credit : Nat
  time : Nat
  peer : Nat
  mgmt : Bool
  pcp : Nat
  deriving DecidableEq, Repr

/-- An unacknowledged message (R329); `fast`: SACK has shown three messages of higher SEQ received. -/
structure Unacked where
  msg : OutMsg
  sent : Nat
  rto : Nat
  tries : Nat
  fast : Bool
  deriving DecidableEq, Repr

/-- A prefix handle on its way to the host (R261, R340): handle entry, the next byte of the copy, and SEQ, CTX and REQ_ID
of the EXPORT message. -/
structure Export where
  entry : Nat
  offset : Nat
  seq : Nat
  ctx : Nat
  reqId : Nat
  deriving DecidableEq, Repr

/-- A MBT session (R323 to R333): `rxBuf` holds received messages that wait for an earlier SEQ (R328), `submit` the open
PARAMS payload with its REQ_ID and the prompt so far, `peer` the address of the last authenticated message (R321). -/
structure Session where
  isOpen : Bool
  tenant : Option Nat
  protect : Bool
  key : List Byte
  peer : Nat
  rxNext : Nat
  rxBuf : List InMsg
  credit : Nat
  txns : List Nat
  txnMax : Nat
  txnNext : Nat
  txSeq : Nat
  txQueue : List OutMsg
  unacked : List Unacked
  hostCredit : Nat
  lastRx : Nat
  lastTx : Nat
  ackDue : Option Nat
  submit : Option (List Byte × Nat × List Word)
  exporting : List Export
  deriving DecidableEq, Repr

def Session.new : Session where
  isOpen := false
  tenant := none
  protect := false
  key := []
  peer := 0
  rxNext := 0
  rxBuf := []
  credit := 0
  txns := []
  txnMax := 0
  txnNext := 0
  txSeq := 0
  txQueue := []
  unacked := []
  hostCredit := 0
  lastRx := 0
  lastTx := 0
  ackDue := none
  submit := none
  exporting := []

/-- A message that waits for its answer: session, SEQ, CTX and REQ_ID (R335). -/
structure MsgRef where
  session : Nat
  seq : Nat
  ctx : Nat
  reqId : Nat
  deriving DecidableEq, Repr

/-- A stored or loading program image (R187, R339); `last`: the LAST message, while bytes are missing. -/
structure Image where
  bytes : Store (BitVec 8)
  total : Nat
  landed : List (Nat × Nat)
  loading : Bool
  last : Option MsgRef
  firmware : Bool
  deriving DecidableEq, Repr

def Image.new : Image where
  bytes := []
  total := 0
  landed := []
  loading := false
  last := none
  firmware := false

/-- A stored fragment of a coded chunk (Table WT-3): its offset and plaintext bytes, and whether it ends the chunk. -/
structure Frag where
  off : Nat
  bytes : List Byte
  last : Bool
  deriving DecidableEq, Repr

/-- A chunk of a block: the fragments stored and the string it decodes to (R104, R281). -/
structure Chunk where
  frags : List Frag
  text : Option (List Byte)
  deriving DecidableEq, Repr

def Chunk.new : Chunk := ⟨[], none⟩

/-- A block of this module (Table WT-2): BLOCK, the index in the slice's cluster order and the cluster of this module,
WFMT, SRC, NROW, NCOL and NCHUNK, the array reserved for it or holding it (R278, R283), whether it is ACTIVE, and its
chunks. -/
structure Block where
  num : Nat
  rank : Nat
  cl : Nat
  wfmt : Nat
  src : Nat
  nrow : Nat
  ncol : Nat
  nchunk : Nat
  array : Option Nat
  done : Bool
  chunks : Store Chunk
  deriving DecidableEq, Repr

/-- A version entry's state beyond its objects (R271 to R301): the manifest's records, their number once LAST came, the
blocks of this module, the session that created it, when it FAILED, the tick its switch started in, the modules and
clusters that reported (module · 2^16 + cluster), the tick in which the pointer moves, and the modules whose peer copy reads it. -/
structure Version where
  manifest : Store (List Byte)
  total : Option Nat
  blocks : List Block
  session : Nat
  failedAt : Nat
  switchAt : Option Nat
  reported : List Nat
  pointerAt : Option Nat
  readers : List Nat
  deriving DecidableEq, Repr

def Version.new : Version where
  manifest := []
  total := none
  blocks := []
  session := 0
  failedAt := 0
  switchAt := none
  reported := []
  pointerAt := none
  readers := []

/-- A generation of an adapter (R297): its number, state of Table WT-4, pool offset, references; of a load the bytes of the
image, the ranges landed, the tick of the last message and the LAST message; the bytes it counts against the quota; and the tick of its
last change between LOADING, CURRENT and SUPERSEDED. -/
structure AdGen where
  num : Nat
  state : Nat
  off : Nat
  perRank : Nat
  refs : Nat
  total : Nat
  landed : List (Nat × Nat)
  lastMsg : Nat
  last : Option MsgRef
  quota : Nat
  since : Nat
  deriving DecidableEq, Repr

structure Adapter where
  reuse : Nat
  gens : List AdGen
  deriving DecidableEq, Repr

def Adapter.new : Adapter := ⟨0, []⟩

/-- A fabric port's state beyond its objects (R350, R361, R364): of its link (R348, R349) the LSEQ of the last flit sent, of the last one
received in order and of the last one acknowledged, the buffer credits of VC0 and VC1 owed to the neighbour and held from it, and
NAK. -/
structure Port where
  darkSince : Nat
  departed : Bool
  probeUntil : Option Nat
  replays : Nat
  forward : Bool
  lastMeasure : Nat
  sentSeq : Nat
  gotSeq : Nat
  ackSeq : Nat
  owe0 : Nat
  owe1 : Nat
  have0 : Nat
  have1 : Nat
  nak : Bool
  deriving DecidableEq, Repr

def Port.new : Port where
  darkSince := 0
  departed := false
  probeUntil := none
  replays := 0
  forward := false
  lastMeasure := 0
  sentSeq := 0
  gotSeq := 0
  ackSeq := 0
  owe0 := 0
  owe1 := 0
  have0 := 0
  have1 := 0
  nak := false

/-- A message held for resending (R359). -/
structure Resend where
  sent : Nat
  msg : FabMsg
  deriving DecidableEq, Repr

/-- A VC1 record that HB sends over the fabric to another module (R205, R216, R220, R355, R362, R363). -/
structure Notice where
  dst : Nat
  kind : Nat
  body : List Nat
  deriving DecidableEq, Repr

/-- A record of the fault log (Table RL-4). -/
structure FaultRec where
  seq : Nat
  time : Nat
  timed : Bool
  epoch : Nat
  kind : Nat
  die : Nat
  cluster : Nat
  unit : Nat
  rpt : Nat
  detail : Nat
  body : List Byte
  deriving DecidableEq, Repr

/-- A crash dump that HB writes (R401): reset level 1 cluster, 2 die, 3 module; the unit; the cause of Table RL-7; and the tick
it began in. -/
structure ResetJob where
  level : Nat
  unit : Nat
  cause : Nat
  started : Nat
  deriving DecidableEq, Repr

/-- Security (R429 to R443). `staged`: the envelope under UPDATE_DATA; `items`: the envelopes held, 0 and 8 the two firmware slots,
1 to 4 the packs, 5 to 7 the tables (ITEM_SEL); `failures`, `lockouts`: ticks of failed OPENs and the end of a lockout by role ·
1024 + tenant; `lastSign`: the tick of the last ATTEST_SIGN; `modelKeys` by key entry. -/
structure Security where
  staged : Store (BitVec 8)
  items : Store (List Byte)
  tenantKeys : Store (List Byte)
  operatorKey : List Byte
  failures : Store (List Nat)
  lockouts : Store Nat
  lastSign : Option Nat
  modelKeys : Store (List Byte)
  deriving DecidableEq, Repr

def Security.new : Security where
  staged := []
  items := []
  tenantKeys := []
  operatorKey := []
  failures := []
  lockouts := []
  lastSign := none
  modelKeys := []

/-- Synchronisation to the root (R207 to R210, R364): good beacons in a row, the tick of the last beacon or missed
interval, the slew pending (+1 or −1), PTP_TRACEABLE, reload from the next beacon, and the port of a BEACON_REQ; `step`: the slew
that the next tick makes; `skipped`: the tick before this one skipped a count value (R213). -/
structure Sync where
  good : Nat
  lastBeacon : Nat
  slew : Int
  ptpTraceable : Bool
  reload : Bool
  alt : Option Nat
  step : Int
  skipped : Bool
  deriving DecidableEq, Repr

/-- A pin's level and the tick since which it holds (R455). -/
structure PinChange where
  level : Bool
  since : Nat
  deriving DecidableEq, Repr

/-- An entry of an OD message (Table OD-4). -/
structure OdEntry where
  op : Nat
  sub : Nat
  idx : Nat
  val : List Byte
  deriving DecidableEq, Repr

/-- An OD message whose entry waits for a multi-module enable (R376): the message, the session, the job, STOP, what the module finds
at each entry, the entries left, the results so far as bytes, their number, and the status of the first failed entry. -/
structure OdRun where
  session : Nat
  msg : InMsg
  job : Nat
  stop : Bool
  left : List (OdEntry × Found)
  results : List Byte
  count : Nat
  failed : Nat
  deriving DecidableEq, Repr

/-- Pins, straps, bring-up and the steps of a module reset or trip in progress (R398, R423, R454 to R458). `mrstN`, `pwrgd`: the
pins; `rescue`: no firmware slot verified; `latched`: the module is off until its rails are cycled (R425); `strap`: the
level of TIMING_ROOT; `slot`: the firmware slot that runs; `closing`: the reason of the CLOSE that every session gets
once the answer to the reset's write has left (R334); `departAt`: the tick in which the module enters reset, with the cause;
`phReset`: the tick from which PH resets the module; `tripAt`: the tick of the trip, while THERMAL_STATE is TRIPPED or the
response runs (`tripping`); `ecIn`: the level of
EC_IN; `ecEdge`: the tick in which an EXTERNAL eclipse latches; `ecOutUntil`: the end of the EC_OUT pulse. -/
structure Bring where
  mrstN : Bool
  pwrgd : Bool
  rescue : Bool
  latched : Bool
  strap : PinChange
  slot : Nat
  signalAt : Nat
  closing : Option Nat
  departAt : Option (Nat × Nat)
  phReset : Option Nat
  tripAt : Nat
  tripping : Bool
  ecIn : Bool
  ecEdge : Option Nat
  ecOutUntil : Nat
  deriving DecidableEq, Repr

def Bring.new : Bring where
  mrstN := true
  pwrgd := true
  rescue := false
  latched := false
  strap := ⟨false, 0⟩
  slot := 0
  signalAt := 0
  closing := none
  departAt := none
  phReset := none
  tripAt := 0
  tripping := false
  ecIn := false
  ecEdge := none
  ecOutUntil := 0

/-- Eclipses (R462 to R464). `nowAt`: the tick of a NOW eclipse; `remote`: the tick that another module armed, and whether it was
past; `held`: the snapshot under collection, with its tick and trigger. -/
structure Ecl where
  nowAt : Option Nat
  remote : Option (Nat × Bool)
  held : Option (List Byte × Nat × Nat)
  deriving DecidableEq, Repr

def Ecl.new : Ecl := ⟨none, none, none⟩

/-- A frame that the host port sends besides MBT: an ARP reply or a neighbour advertisement for one of its addresses on a VLAN, or
an ESMC PDU with QL-DNU (R320, R322). -/
inductive EthFrame where
  | arpReply (vlan addr : Nat)
  | neighbourAdvert (vlan addr : Nat)
  | esmcDnu
  deriving DecidableEq, Repr

/-- The result of the last object-dictionary entry executed (Table OD-6): STATUS, STATE (FFh unless WRONG_STATE) and
the value bytes of a READ, DESCRIBE or NEXT. -/
structure Answer where
  status : Nat
  state : Nat
  value : List Byte
  deriving DecidableEq, Repr

/-- The state of one module. -/
structure State where
  /-- The object dictionary, by `Obj.key`. -/
  regs : Store Nat
  /-- The sidereal count (R206). -/
  count : BitVec 64
  /-- Ticks since the module's reset. -/
  ticks : Nat
  /-- Strands by `StrandId.num`. -/
  strands : Store Strand
  /-- Clusters by `ClusterId.num`. -/
  clusters : Store Cluster
  /-- SRAM bytes at `cluster · 2^22 + offset` (R122). -/
  sram : Mem
  /-- Words of SRAM with their poison tag set, at `cluster · 2^20 + offset / 4` (R123). -/
  sramPoison : NSet
  /-- Words of SRAM whose stored parity is bad (R123). -/
  sramParity : NSet
  /-- Page tags at `cluster · 1024 + page` (R125). -/
  pages : Store PageTag
  /-- Arrays by `ArrayId.num`. -/
  arrays : Store ArrayU
  /-- SYNC_DISCARD events at firmware: sender, target and object, newest first (R230). -/
  syncDiscards : List (Nat × Nat × Nat)
  /-- RESIDUE events at firmware: cluster, strand and lane, newest first (R134). -/
  residueEvents : List (Nat × Nat × Nat)
  /-- RANGE_EXCURSION events at firmware: array numbers, newest first (R82). -/
  excursionEvents : List Nat
  /-- Equivalent time at 85 °C by cluster since the factory, in 2^-20 ms (R58, R59). -/
  eqTime : Store Nat
  /-- Messages of the die network in flight, in the order sent (R173). -/
  net : List NetMsg
  /-- The message counter of each source stop, by die · 128 + position (R170). -/
  mids : Store Nat
  jobs : Store Job
  ctxs : Store Ctx
  prefixes : Store Prefix
  sessions : Store Session
  /-- Datagrams sent on the host port, oldest first. -/
  wire : List Wire
  /-- Datagrams that wait for the end of a PFC pause, oldest first (R320, Table HP-8). -/
  txHeld : List Wire
  /-- Time slices of the protocol engine so far, and the last session served in each class (R342). -/
  engineSlices : Nat
  engineTurns : Store Nat
  /-- Contexts that became FREE, with the tick (Table SV-11). -/
  freedAt : Store Nat
  images : Store Image
  versions : Store Version
  adapters : Store Adapter
  ports : Store Port
  resend : List Resend
  /-- Messages that wait for room in the resend store of their departure PF (R359). -/
  fabWait : List FabMsg
  /-- Fabric messages sent, oldest first. -/
  fabOut : List FabMsg
  /-- Next FSEQ by destination module; next expected FSEQ by source module (R359). -/
  fseqTx : Store Nat
  fseqRx : Store Nat
  /-- FSEQ values received above the next expected one: source module · 2^32 + FSEQ (R359). -/
  fseqAhead : NSet
  /-- Highest FSEQ acknowledged back, by source module. -/
  ackedRx : Store Nat
  /-- Records sent to other modules, oldest first. -/
  notices : List Notice
  /-- Membership notices already acted on: (module, epoch) (R362). -/
  seen : List (Nat × Nat)
  /-- Revision of each slice record (Table OD-10, row 4). -/
  sliceRev : Store Nat
  faults : List FaultRec
  exposures : List (List Byte)
  dump : List Byte
  packs : List (List Fragment)
  resets : List ResetJob
  security : Security
  sync : Sync
  bring : Bring
  snapshot : List Byte
  ecl : Ecl
  /-- PFC pause end by priority (R320). -/
  pfc : Store Nat
  /-- The last ESMC PDU received and the last one sent (R322). -/
  esmcAt : Nat
  esmcTx : Nat
  /-- Frames other than MBT datagrams that the host port sent, oldest first (R320, R322). -/
  ethOut : List EthFrame
  /-- The operating point that a die is changing to (R410). -/
  oppTarget : Store Nat
  /-- The point whose core voltage each die requests (R410, R452). -/
  volt : Store Nat
  /-- Replays in the running monitor window and DOWNs in it, by link (R183); replays by die and segment (R184). -/
  linkReplays : Store Nat
  linkDowns : Store Nat
  /-- The tick in which a link's training began (R183). -/
  linkTrainAt : Store Nat
  /-- Objects written in a tick whose value at its start still counts: the tick and that value, by `Obj.key` (Table ST-6, R226). -/
  startRegs : Store (Nat × Nat)
  /-- CEILING_NOW of the dies of other modules as reported, at `coordinates · 16 + die` (R220). -/
  peerCeil : Store Nat
  segReplays : Store Nat
  /-- Merge points of this module by `mergeKey` (R177, R179). -/
  merges : Store MergeRun
  /-- Latency tables by stepping: VERSION and entries (R195). -/
  tables : Store (Nat × Store Nat)
  refHold : Option Nat
  hbPending : Option Nat
  fwStopped : Bool
  /-- OD messages that wait for an enable (R376). -/
  odRuns : List OdRun
  /-- The bytes that the I2C target answered last; none: NACK (R456). -/
  i2c : Option (List Byte)
  /-- The result of the last object entry. -/
  answer : Answer
  /-- The model's own counter that a free value is applied to (log entry 1). -/
  freeN : Nat
  /-- The commands that wait, first in, first out. -/
  pending : List Instr
  deriving DecidableEq, Repr

/-- Why a step stops with a fault. The specification stops the module with no fault of its own: every error it names is
an effect on the state (poison, a reason code, an event), so nothing raises one. Safe. -/
inductive Fault where
  deriving DecidableEq, Repr

/-- Why a command has no meaning. -/
inductive Refusal where
  /-- The command is not modelled yet: raised by `exec`'s arms by name. Safe: the machine stops. -/
  | notModelled (mnemonic : String)
  /-- The operands spell an instruction word that R145 makes the loader refuse, so that the cluster never meets it:
  raised by the meanings of the cluster instructions on an ill-formed instruction. Safe: the machine stops. -/
  | illegalEncoding
  /-- The instruction names a sync object, channel, schedule point or test gap that the strand's image does not declare.
  The loader refuses such an image (R145, R192, R194), so that the cluster never meets it but through a JR that the
  loader does not follow, for which the spec gives no effect: raised by the meanings of the cluster instructions that
  name one. Safe: the machine stops. -/
  | undeclared
  deriving DecidableEq, Repr

/-- The state right after reset: no object written, nothing in flight, no command waiting. -/
def State.reset : State where
  regs := []
  count := 0
  ticks := 0
  strands := []
  clusters := []
  sram := []
  sramPoison := []
  sramParity := []
  pages := []
  arrays := []
  syncDiscards := []
  residueEvents := []
  excursionEvents := []
  eqTime := []
  net := []
  mids := []
  jobs := []
  ctxs := []
  prefixes := []
  sessions := []
  wire := []
  txHeld := []
  engineSlices := 0
  engineTurns := []
  freedAt := []
  images := []
  versions := []
  adapters := []
  ports := []
  resend := []
  fabWait := []
  fabOut := []
  fseqTx := []
  fseqRx := []
  fseqAhead := []
  ackedRx := []
  notices := []
  seen := []
  sliceRev := []
  faults := []
  exposures := []
  dump := []
  packs := []
  resets := []
  security := Security.new
  sync := ⟨0, 0, 0, false, false, none, 0, false⟩
  bring := Bring.new
  snapshot := []
  ecl := Ecl.new
  pfc := []
  esmcAt := 0
  esmcTx := 0
  ethOut := []
  oppTarget := []
  volt := []
  linkReplays := []
  linkDowns := []
  linkTrainAt := []
  startRegs := []
  peerCeil := []
  segReplays := []
  merges := []
  tables := []
  refHold := none
  hbPending := none
  fwStopped := false
  odRuns := []
  i2c := some []
  answer := ⟨0, 0xFF, []⟩
  freeN := 0
  pending := []

/-- What a meaning answers. -/
abbrev Out := Host.Outcome State Fault Refusal

end Sys2Proof.Machine
end

