-- ==== Sys2Proof/Machine/Routes.lean ====
section
/-!
DEFINITION. Routes of the die network and the fabric (R167, R168, R172, R174, R356), their latency (R180, R358), and the
merge points of a reduction group (R176, R177). A node is die · 128 + position: positions 0 to 99 are the stops of Table
DN-2, 100 a die's crossbar; dies are coded as DDIE (Table DN-5). All rings have the same positions, so a route names its
nodes once and its ring number beside them.
-/
namespace Sys2Proof.Machine

/-- Cluster, die and position numbers of a strand number (96n + K) · 2 + strand. -/
def clOf (u : Nat) : Nat := u / 2
def stOf (u : Nat) : Nat := u % 2
def dieOf (c : Nat) : Nat := c / 96
def kOf (c : Nat) : Nat := c % 96

/-- Position of cluster K (Table DN-2). -/
def posOf (k : Nat) : Nat := k + 1 + k / 24

def nodeOf (die pos : Nat) : Nat := 128 * die + pos
/-- The stop of a cluster. -/
def stopOf (c : Nat) : Nat := nodeOf (dieOf c) (posOf (kOf c))
def nodeDie (v : Nat) : Nat := v / 128

abbrev PH : Nat := 16
abbrev PF0 : Nat := 17
abbrev PF1 : Nat := 18
abbrev HB : Nat := 19

/-- The two ends of a die link as (die, edge stop) pairs; crossbar 100 stands for the ends at PH, PF0, PF1 and HB (Table
DN-3). -/
def linkEnds (l : Nat) : (Nat × Nat) × (Nat × Nat) :=
  if l < 12 then ((4 * (l / 3) + l % 3, 25), (4 * (l / 3) + l % 3 + 1, 75))
  else if l < 24 then ((l - 12, 50), (l - 8, 0))
  else if l = 24 then ((PH, 100), (1, 0))
  else if l = 25 then ((PH, 100), (2, 0))
  else if l = 26 then ((PF0, 100), (4, 75))
  else if l = 27 then ((PF0, 100), (8, 75))
  else if l = 28 then ((PF1, 100), (7, 25))
  else if l = 29 then ((PF1, 100), (11, 25))
  else if l = 30 then ((HB, 100), (13, 50))
  else if l = 31 then ((HB, 100), (14, 50))
  else ((PH, 100), (HB, 100))

/-- The edge stop of link `l` on die `d`. -/
def portAt (l d : Nat) : Nat := if (linkEnds l).1.1 = d then (linkEnds l).1.2 else (linkEnds l).2.2

/-- The attached compute dies of PH, PF0, PF1 and HB with their links (Table DN-3). -/
def attached (x : Nat) : List (Nat × Nat) :=
  if x = PH then [(1, 24), (2, 25)] else if x = PF0 then [(4, 26), (8, 27)] else if x = PF1 then [(7, 28), (11, 29)]
  else [(13, 30), (14, 31)]

/-- Grid steps between two compute dies. -/
def gridDist (a b : Nat) : Nat :=
  (Nat.max (a % 4) (b % 4) - Nat.min (a % 4) (b % 4)) + (Nat.max (a / 4) (b / 4) - Nat.min (a / 4) (b / 4))

/-- Moves along a row from column `c1` to `c2`: links and the dies they lead to. -/
def rowMoves (r c1 c2 : Nat) : List (Nat × Nat) :=
  if c1 ≤ c2 then (List.range (c2 - c1)).map fun i => (3 * r + c1 + i, 4 * r + c1 + i + 1)
  else (List.range (c1 - c2)).map fun i => (3 * r + c1 - i - 1, 4 * r + c1 - i - 1)

/-- Moves along a column from row `r1` to `r2`. -/
def colMoves (c r1 r2 : Nat) : List (Nat × Nat) :=
  if r1 ≤ r2 then (List.range (r2 - r1)).map fun i => (12 + 4 * (r1 + i) + c, 4 * (r1 + i + 1) + c)
  else (List.range (r1 - r2)).map fun i => (12 + 4 * (r1 - i - 1) + c, 4 * (r1 - i - 1) + c)

/-- The moves between two compute dies: row first; around a link that is not UP, column first (R172, R174); none where
neither way exists. -/
def gridMoves (up : Nat → Bool) (a b : Nat) : Option (List (Nat × Nat)) :=
  let rc := rowMoves (a / 4) (a % 4) (b % 4) ++ colMoves (b % 4) (a / 4) (b / 4)
  let cr := colMoves (a % 4) (a / 4) (b / 4) ++ rowMoves (b / 4) (a % 4) (b % 4)
  if rc.all (fun m => up m.1) then some rc else if cr.all (fun m => up m.1) then some cr else none

/-- The attached die nearest to a compute die, the lower number on a tie. -/
def nearest (x b : Nat) : Nat × Nat :=
  match attached x with
  | [p, q] => if gridDist q.1 b < gridDist p.1 b then q else p
  | _ => (0, 0)

/-- The pair of attached dies with the fewest grid steps, lower numbers first (R172). -/
def nearestPair (x y : Nat) : (Nat × Nat) × (Nat × Nat) :=
  let ps := (attached x).flatMap fun p => (attached y).map fun q => (p, q)
  ps.foldl (fun a e => if gridDist e.1.1 e.2.1 < gridDist a.1.1 a.2.1 then e else a) (ps.getD 0 ((0, 0), (0, 0)))

/-- The links that a flit crosses from one die to another and the dies they lead to (R172). -/
def dieMoves (up : Nat → Bool) (a b : Nat) : Option (List (Nat × Nat)) :=
  let grid (x y : Nat) := gridMoves up x y
  if a = b then some []
  else if a < 16 ∧ b < 16 then grid a b
  else if a < 16 then
    let t := nearest b a
    if up t.2 then (grid a t.1).map fun g => g ++ [(t.2, b)] else none
  else if b < 16 then
    let t := nearest a b
    if up t.2 then (grid t.1 b).map fun g => (t.2, t.1) :: g else none
  else if (a = PH ∧ b = HB) ∨ (a = HB ∧ b = PH) then (if up 32 then some [(32, b)] else none)
  else
    let t := nearestPair a b
    if up t.1.2 && up t.2.2 then (grid t.1.1 t.2.1).map fun g => (t.1.2, t.1.1) :: (g ++ [(t.2.2, b)]) else none

/-- A route on one module: the nodes after the source, each with the input it is entered by (1 + 2r ring r
counter-clockwise, 2 + 2r clockwise, 9 to 12 ports N, E, S, W; R177), the links crossed, the ring segments crossed as
(die, position), and H of R180. -/
structure Route where
  nodes : List (Nat × Nat)
  links : List Nat
  segs : List (Nat × Nat)
  h : Nat
  deriving DecidableEq, Repr

def Route.empty : Route := ⟨[], [], [], 0⟩

def Route.append (a b : Route) : Route := ⟨a.nodes ++ b.nodes, a.links ++ b.links, a.segs ++ b.segs, a.h + b.h⟩

/-- From position `p` to `q` of a die: the shorter direction, clockwise on a tie (R172). -/
def ringRoute (ring d p q : Nat) : Route :=
  let cw := (q + 100 - p) % 100
  if cw ≤ 50 then
    ⟨(List.range cw).map fun i => (nodeOf d ((p + i + 1) % 100), 2 + 2 * ring), [],
      (List.range cw).map fun i => (d, (p + i) % 100), cw⟩
  else
    ⟨(List.range (100 - cw)).map fun i => (nodeOf d ((p + 200 - i - 1) % 100), 1 + 2 * ring), [],
      (List.range (100 - cw)).map fun i => (d, (p + 200 - i - 1) % 100), 100 - cw⟩

/-- The input by which link `l` enters die `d`: ports N, E, S, W as 9 to 12. -/
def portInput (l d : Nat) : Nat := portAt l d / 25 + 9

/-- The rest of a route that has reached die `d` over link `l`: a crossbar where the flit goes on over another link, the
edge stop of the port where the die is its destination. -/
def afterLink (ring d l dstPos : Nat) : List (Nat × Nat) → Route
  | [] =>
    if d < 16 ∧ dstPos ≠ 100 then
      (Route.mk [(nodeOf d (portAt l d), portInput l d)] [l] [] 0).append (ringRoute ring d (portAt l d) dstPos)
    else ⟨[(nodeOf d 100, portInput l d)], [l], [], 0⟩
  | (l', d') :: t =>
    (Route.mk [(nodeOf d 100, portInput l d)] [l] [] 0).append (afterLink ring d' l' dstPos t)

/-- The route from node (die, position) to node (die, position) on a ring number; none where no link leads there. -/
def route (up : Nat → Bool) (ring : Nat) (a b : Nat × Nat) : Option Route :=
  match dieMoves up a.1 b.1 with
  | none => none
  | some [] => some (if a.1 < 16 then ringRoute ring a.1 a.2 b.2 else Route.empty)
  | some ((l, d) :: t) =>
    let out := if a.1 < 16 then ringRoute ring a.1 a.2 (portAt l a.1) else Route.empty
    some (out.append (afterLink ring d l b.2 t))

/-- The end of a strand number or of PH, PF0, PF1, HB as (die, position). -/
def endOf (x : Nat) : Nat × Nat := if x < 0x10000 then (dieOf (clOf x), posOf (kOf (clOf x))) else (x - 0x10000, 100)

/-- Flits of a message of `n` payload bytes on the die network (R169). -/
def dieFlits (n : Nat) : Nat := if n ≤ 48 then 1 else 1 + (n - 48 + 63) / 64
/-- Flits of a fabric message (R357). -/
def fabFlits (n : Nat) : Nat := if n ≤ 32 then 1 else 1 + (n - 32 + 63) / 64

/-! ## The fabric (R351 to R358) -/

/-- Coordinates as FABRIC_COORD packs them. -/
def cx (m : Nat) : Nat := m % 256
def cy (m : Nat) : Nat := m / 256 % 256
def cz (m : Nat) : Nat := m / 65536 % 256
def coordOf (x y z : Nat) : Nat := x + 256 * y + 65536 * z

/-- The neighbour through a port (Table FB-1). -/
def neighbour (m p : Nat) : Nat :=
  let step (v : Nat) : Nat := if p % 2 = 0 then (v + 1) % 16 else (v + 15) % 16
  if p / 2 = 0 then coordOf (step (cx m)) (cy m) (cz m)
  else if p / 2 = 1 then coordOf (cx m) (step (cy m)) (cz m)
  else coordOf (cx m) (cy m) (step (cz m))

/-- A block of modules: origin, extent and WRAP bits (R352). -/
structure Box where
  origin : Nat
  extent : Nat
  wrap : Nat
  deriving DecidableEq, Repr

/-- The whole torus, for traffic of no job (R356). -/
def Box.torus : Box := ⟨0, coordOf 16 16 16, 7⟩

def axisOf (a m : Nat) : Nat := if a = 0 then cx m else if a = 1 then cy m else cz m

/-- The module lies in the block (R352). -/
def Box.has (b : Box) (m : Nat) : Bool :=
  [0, 1, 2].all fun a => decide ((axisOf a m + 16 - axisOf a b.origin) % 16 < axisOf a b.extent)

/-- The modules of a block in the order of R353. -/
def Box.modules (b : Box) : List Nat :=
  (List.range (cx b.extent * cy b.extent * cz b.extent)).map fun m =>
    let dx := m % cx b.extent
    let dy := m / cx b.extent % cy b.extent
    let dz := m / (cx b.extent * cy b.extent)
    coordOf ((cx b.origin + dx) % 16) ((cy b.origin + dy) % 16) ((cz b.origin + dz) % 16)

/-- Steps along axis `a` from one module to another: the port taken and how often (R356). -/
def Box.axisSteps (b : Box) (a m n : Nat) : Nat × Nat :=
  let o := axisOf a b.origin
  let e := axisOf a b.extent
  let i := (axisOf a m + 16 - o) % 16
  let j := (axisOf a n + 16 - o) % 16
  if b.wrap.testBit a then
    let f := (j + e - i) % Nat.max 1 e
    if 2 * f ≤ e then (2 * a, f) else (2 * a + 1, e - f)
  else if i ≤ j then (2 * a, j - i) else (2 * a + 1, i - j)

/-- The ports that a route takes, hop by hop: along X, then Y, then Z. -/
def Box.hops (b : Box) (m n : Nat) : List Nat :=
  [0, 1, 2].flatMap fun a => let t := b.axisSteps a m n; List.replicate t.2 t.1

/-- The PF die of a port (Table FB-1). -/
def pfOf (p : Nat) : Nat := if p % 2 = 0 then PF0 else PF1
/-- The port at which a hop through port `p` enters its neighbour. -/
def facing (p : Nat) : Nat := if p % 2 = 0 then p + 1 else p - 1

/-- DIR of a route (Table FB-4). -/
def Box.dir (b : Box) (m n : Nat) : Nat :=
  (List.range 3).foldl (fun d a => if (b.axisSteps a m n).1 % 2 = 1 ∧ (b.axisSteps a m n).2 ≠ 0 then d + 2 ^ a else d) 0

/-- The PF dies and ports of a route through its modules: for each module after the first, (module, port entered,
port left or none). -/
def Box.passes (b : Box) (m n : Nat) : List (Nat × Nat × Option Nat) :=
  let hs := b.hops m n
  (List.range hs.length).map fun i =>
    let at' := (hs.take (i + 1)).foldl neighbour m
    (at', facing (hs.getD i 0), hs[i + 1]?)

/-! ## Latency (R180, R358) -/

/-- One route of a message and what prices it: H, links, merge points, bypassed segments crossed. -/
structure Priced where
  h : Nat
  c : Nat
  m : Nat
  byp : Nat
  deriving DecidableEq, Repr

/-- Ring clocks of a route part without issue, landing and serialisation: H + 3C + 2M and 2 for each bypassed
segment. -/
def Priced.ring (p : Priced) (stop link merge byp : Nat) : Nat :=
  p.h * stop + p.c * link + p.m * merge + p.byp * byp

/-! ## Merge points (R176, R177) -/

/-- A node of a route across modules: module, node, and the input by which it is entered (0 local injection). -/
structure Hop where
  mod : Nat
  node : Nat
  input : Nat
  deriving DecidableEq, Repr

/-- A place at which merging can happen: a stop or crossbar of a compute die (R357). -/
def Hop.merges (h : Hop) : Bool := decide (h.node / 128 < 16)

/-- The hops of a contribution on the die network of module `mod`, its source stop first. -/
def routeHops (up : Nat → Bool) (mod ring : Nat) (a b : Nat × Nat) (withSrc : Bool) : List Hop :=
  (if withSrc then [Hop.mk mod (nodeOf a.1 a.2) 0] else []) ++
    (match route up ring a b with
      | some r => r.nodes.map fun n => Hop.mk mod n.1 n.2
      | none => [])

/-- The hops of a contribution from a cluster of module `m` to a cluster of module `n` (R356). -/
def groupHops (up : Nat → Bool) (b : Box) (ring m c n d : Nat) : List Hop :=
  let e (k : Nat) : Nat × Nat := (dieOf k, posOf (kOf k))
  if m = n then routeHops up m ring (e c) (e d) true
  else
    let hs := b.hops m n
    let first := pfOf (hs.getD 0 0)
    let last := pfOf (facing (hs.getD (hs.length - 1) 0))
    routeHops up m ring (e c) (first, 100) true ++ routeHops up n ring (last, 100) (e d) false

/-- A contribution on its way: the stream that carries it and the hops it has still to make. -/
structure Flow where
  stream : Nat
  rest : List Hop
  deriving DecidableEq, Repr

/-- The flows that stand `n` hops before the destination, where at least two streams meet at one node: a new merge
point for each such node; every contribution through it goes on in the merged stream. -/
def mergeAt (n : Nat) (acc : List MergePt × List Flow) : List MergePt × List Flow :=
  let here (f : Flow) : Option Hop :=
    if n < f.rest.length then (match f.rest[f.rest.length - 1 - n]? with
      | some h => if h.merges then some h else none
      | none => none) else none
  let nodes := (acc.2.filterMap fun f => (here f).map fun h => (h.mod, h.node)).eraseDups
  nodes.foldl (fun (a : List MergePt × List Flow) v =>
    let at' (f : Flow) : Bool := match here f with
      | some h => h.mod == v.1 && h.node == v.2
      | none => false
    let inputs := ((a.2.filter at').map fun f =>
      MergeSrc.mk (match here f with | some h => h.input | none => 0) f.stream).eraseDups
    let streams := (inputs.map fun i => i.src).eraseDups
    if 2 ≤ streams.length then
      let sorted := (List.range 13).flatMap fun k => inputs.filter fun i => i.order == k
      let id := 0x1000000 + a.1.length
      (a.1 ++ [MergePt.mk v.1 v.2 sorted], a.2.map fun f => if at' f then { f with stream := id } else f)
    else a) acc

/-- The merge points of a group from the hops of its contributors, those farthest from the destination first. -/
def mergePoints (paths : List (Nat × List Hop)) : List MergePt :=
  let flows := paths.map fun p => Flow.mk p.1 p.2
  let longest := flows.foldl (fun a f => Nat.max a f.rest.length) 0
  ((List.range longest).foldl (fun acc i => mergeAt (longest - 1 - i) acc) (([] : List MergePt), flows)).1

/-- The merge point that stream `src` enters, if any. -/
def Group.into (g : Group) (src : Nat) : Option (Nat × MergePt) :=
  (List.range g.points.length).findSome? fun i => match g.points[i]? with
    | some p => if p.inputs.any fun x => x.src == src then some (i, p) else none
    | none => none

/-- The contributors that a stream carries. -/
def Group.carried (g : Group) : Nat → Nat → List Nat
  | 0, _ => []
  | fuel + 1, src =>
    if src < 0x1000000 then [src]
    else match g.points[src - 0x1000000]? with
      | some p => p.inputs.flatMap fun i => g.carried fuel i.src
      | none => []

/-- The lowest-ranked contributor of a stream, whose header the merged message carries. -/
def Group.lead (g : Group) (src : Nat) : Nat :=
  (g.carried (g.points.length + 1) src).foldl Nat.min 0xFFFFFF

end Sys2Proof.Machine
end

