-- ==== Sys2Proof/Machine/Units.lean ====
section
/-!
DEFINITION. The codes of the object tables, objects and their counters, strands, clusters, arrays, jobs and contexts by number, the flit counts of the die network, and
slices and job time.
-/
namespace Sys2Proof.Machine

/-! ## Codes of the object tables -/

abbrev Code.OK : Nat := 0
abbrev Code.SLOT_FULL : Nat := 0x0101
abbrev Code.NO_BALLAST : Nat := 0x0102
abbrev Code.TENANT_QUOTA : Nat := 0x0103
abbrev Code.KV_FORMAT_MISMATCH : Nat := 0x0104
abbrev Code.DRAINING : Nat := 0x0105
abbrev Code.KV_FULL : Nat := 0x0106
abbrev Code.WRONG_STATE : Nat := 0x0201
abbrev Code.LOCKED : Nat := 0x0202
abbrev Code.NOT_EXECUTED : Nat := 0x0203
abbrev Code.MISSING_OBJECT : Nat := 0x0301
abbrev Code.RANGE_CONFLICT : Nat := 0x0302
abbrev Code.SRAM_OVERLAP : Nat := 0x0303
abbrev Code.TOPOLOGY_MISMATCH : Nat := 0x0304
abbrev Code.VERSION_MISMATCH : Nat := 0x0305
abbrev Code.BAD_CODING : Nat := 0x0306
abbrev Code.ILLEGAL_INSTRUCTION : Nat := 0x0307
abbrev Code.BAD_IMAGE : Nat := 0x0308
abbrev Code.TIME_UNLOCKED : Nat := 0x0309
abbrev Code.BAD_MESSAGE : Nat := 0x030A
abbrev Code.OUT_OF_WINDOW : Nat := 0x030B
abbrev Code.ACCESS_CONFLICT : Nat := 0x030C
abbrev Code.TYPE_CONFLICT : Nat := 0x030D
abbrev Code.DOES_NOT_FIT : Nat := 0x0401
abbrev Code.NO_SHADOW_CAPACITY : Nat := 0x0402
abbrev Code.NO_TEST_GAP : Nat := 0x0403
abbrev Code.AUTH_FAIL : Nat := 0x0501
abbrev Code.DECRYPT_FAIL : Nat := 0x0502
abbrev Code.PRIVILEGED_INSTRUCTION : Nat := 0x0503
abbrev Code.SIGNATURE_FAIL : Nat := 0x0504
abbrev Code.ORPHANED : Nat := 0x0601
abbrev Code.MEMBER_LOST : Nat := 0x0602
abbrev Code.POISONED : Nat := 0x0603
abbrev Code.LINK_LOST : Nat := 0x0605
abbrev Code.TIME_LOST : Nat := 0x0606
abbrev Code.MERIDIAN_TIMEOUT : Nat := 0x0607
abbrev Code.SESSION_LOST : Nat := 0x0608
abbrev Code.FLOW_STALL : Nat := 0x0609
abbrev Code.RESET : Nat := 0x060A
abbrev Code.THERMAL_TRIP : Nat := 0x060B

/-- Strand states of Table CL-6. -/
abbrev SS.EMPTY : Nat := 0
abbrev SS.LOADED : Nat := 1
abbrev SS.RUNNING : Nat := 2
abbrev SS.HELD : Nat := 3
abbrev SS.FROZEN : Nat := 4
abbrev SS.DEBUG : Nat := 5
abbrev SS.RELEASING : Nat := 6

/-- Cluster states of Table CL-5. -/
abbrev CS.OFF : Nat := 0
abbrev CS.RETENTION : Nat := 1
abbrev CS.RESET : Nat := 2
abbrev CS.READY : Nat := 3
abbrev CS.RETIRED : Nat := 4

/-- Job states of Table PC-6. -/
abbrev JS.NONE : Nat := 0
abbrev JS.BOUND : Nat := 1
abbrev JS.ENABLED : Nat := 2
abbrev JS.ENDING : Nat := 3

/-- Context states of Table SV-2. -/
abbrev XS.FREE : Nat := 0
abbrev XS.ADMITTED : Nat := 1
abbrev XS.PREFILL : Nat := 2
abbrev XS.DECODE : Nat := 3
abbrev XS.ENDING : Nat := 4
abbrev XS.RETAINED : Nat := 5

/-! ## Objects -/

/-- The value an object holds where nothing has written it: its Default column (R371), and the factory state that the
rules give: arrays A32 and A33 SPARE and the rest FREE (R52), spare pair A32, A33 (R302), tenant 0 ACTIVE (Table SE-2), the
tether bypasses closed (R360; log entry 47). -/
def regDefault (o : Obj) : Nat :=
  if o.idx = 0xA000 ∧ o.sub = 3 then 1 else
  if o.idx = 0x7011 ∧ o.sub = 1 then 32
  else if o.idx = 0x7011 ∧ o.sub = 2 then 33
  else if o.idx = 0x4004 ∧ o.sub = 1 then 7
  else if o.idx = 0x9011 ∧ o.sub = 1 ∧ o.inst = 0 then 1
  else if Od.norm o.idx = 0x3021 ∧ o.sub = 1 ∧ 0x3000 ≤ o.idx ∧ 32 ≤ o.inst % 34 then 3
  else Od.dflt o.idx o.sub

def State.reg (s : State) (o : Obj) : Nat :=
  match Store.get? s.regs o.key with
  | some v => v
  | none => regDefault o

def State.setReg (s : State) (o : Obj) (v : Nat) : State := { s with regs := Store.set s.regs o.key v }

/-- The count now, as a number. -/
def State.now (s : State) : Nat := s.count.toNat

/-- A write after which the value that the object had at the start of the tick can still be read. -/
def State.setTicked (s : State) (o : Obj) (v : Nat) : State :=
  let old := s.startRegs.filter fun (e : Nat × Nat × Nat) => e.2.1 == s.now
  { s with startRegs := match Store.get? old o.key with
      | some _ => old
      | none => Store.set old o.key (s.now, s.reg o) }.setReg o v

/-- The value of an object at the start of the tick. -/
def State.startReg (s : State) (o : Obj) : Nat :=
  match Store.get? s.startRegs o.key with
  | some e => if e.1 = s.now then e.2 else s.reg o
  | none => s.reg o

/-- The ticks by which a deadline moves because its count value may have been skipped (R213). -/
def State.grace (s : State) : Nat := if s.sync.skipped then 1 else 0

/-- Bits [31:0] of a count (R212). -/
def short32 (n : Nat) : Nat := n % 0x100000000

/-- A short form expanded against a local value: `L + d` with `d` read as signed (R212). -/
def expand32 (l sh : Nat) : Nat :=
  let d := (sh + 0x100000000 - l % 0x100000000) % 0x100000000
  if d < 0x80000000 then l + d else l + d - 0x100000000

/-- The wrap-flag object of a counter: subindex 10h of the same index (R60). -/
def wrapFlags (o : Obj) : Obj := ⟨o.idx, 0x10, o.inst⟩

/-- A 48-bit counter with its 16-bit wrap count in [63:48], saturating at FFFFh, and its wrap flag (R15, R60). -/
def State.bump (s : State) (o : Obj) (n : Nat) : State :=
  let v := s.reg o
  let c := v % 0x1000000000000 + n
  let w := v / 0x1000000000000
  if c < 0x1000000000000 then s.setReg o (v + n)
  else
    let s := s.setReg o (c % 0x1000000000000 + 0x1000000000000 * Nat.min 0xFFFF (w + 1))
    s.setReg (wrapFlags o) (s.reg (wrapFlags o) ||| 2 ^ (o.sub - 1))

/-- A lifetime counter of 64 bits. -/
def State.inc64 (s : State) (o : Obj) : State := s.setReg o ((s.reg o + 1) % 0x10000000000000000)

/-- The indexes of `n` free values are used up (log entry 1). -/
def State.spend (s : State) (n : Nat) : State := { s with freeN := s.freeN + n }

/-! ## Units -/

def State.strand (s : State) (u : Nat) : Strand := Store.get Strand.new s.strands u
def State.setStrand (s : State) (u : Nat) (t : Strand) : State := { s with strands := Store.set s.strands u t }
def State.modStrand (s : State) (u : Nat) (f : Strand → Strand) : State := s.setStrand u (f (s.strand u))
def State.cluster (s : State) (c : Nat) : Cluster := Store.get Cluster.new s.clusters c
def State.setCluster (s : State) (c : Nat) (t : Cluster) : State := { s with clusters := Store.set s.clusters c t }
def State.modCluster (s : State) (c : Nat) (f : Cluster → Cluster) : State := s.setCluster c (f (s.cluster c))
def State.array (s : State) (a : Nat) : ArrayU := Store.get ArrayU.new s.arrays a
def State.setArray (s : State) (a : Nat) (t : ArrayU) : State := { s with arrays := Store.set s.arrays a t }
def State.modArray (s : State) (a : Nat) (f : ArrayU → ArrayU) : State := s.setArray a (f (s.array a))
def State.job (s : State) (j : Nat) : Job := Store.get Job.new s.jobs j
def State.setJob (s : State) (j : Nat) (t : Job) : State := { s with jobs := Store.set s.jobs j t }
def State.modJob (s : State) (j : Nat) (f : Job → Job) : State := s.setJob j (f (s.job j))
def State.ctx (s : State) (x : Nat) : Ctx := Store.get Ctx.new s.ctxs x
def State.setCtx (s : State) (x : Nat) (t : Ctx) : State := { s with ctxs := Store.set s.ctxs x t }
def State.session (s : State) (n : Nat) : Session := Store.get Session.new s.sessions n
def State.setSession (s : State) (n : Nat) (t : Session) : State := { s with sessions := Store.set s.sessions n t }
def State.modSession (s : State) (n : Nat) (f : Session → Session) : State := s.setSession n (f (s.session n))

/-- STRANDn_STATE, STRANDn_JOB, HOLD_OFFSETn of a strand (Table CL-7). -/
def ssObj (u : Nat) : Obj := ⟨0x3041 + 0x100 * dieOf (clOf u), 2 + stOf u, kOf (clOf u)⟩
def sjObj (u : Nat) : Obj := ⟨0x3041 + 0x100 * dieOf (clOf u), 4 + stOf u, kOf (clOf u)⟩
def hoObj (u : Nat) : Obj := ⟨0x3041 + 0x100 * dieOf (clOf u), 6 + stOf u, kOf (clOf u)⟩
/-- CL_STATE of a cluster. -/
def csObj (c : Nat) : Obj := Od.CL_STATE (dieOf c) (kOf c)
/-- Objects of a sync object: D+61h, sub, of object `b` of cluster `c` (Table SY-4). -/
def syObj (c b sub : Nat) : Obj := ⟨0x3061 + 0x100 * dieOf c, sub, 64 * kOf c + b⟩
/-- Counter `sub` of D+42h, D+43h and D+62h of cluster `c`. -/
def clCnt (c sub : Nat) : Obj := ⟨0x3042 + 0x100 * dieOf c, sub, kOf c⟩
def isaCnt (c sub : Nat) : Obj := ⟨0x3043 + 0x100 * dieOf c, sub, kOf c⟩
def syCnt (c sub : Nat) : Obj := ⟨0x3062 + 0x100 * dieOf c, sub, kOf c⟩
/-- Counter `sub` of D+30h of the die of cluster `c` (Table NF-12). -/
def fmtCnt (c sub : Nat) : Obj := ⟨0x3030 + 0x100 * dieOf c, sub, 0⟩

/-- The strand's state (Table CL-6): EMPTY unless its cluster is READY or RETENTION (R136). -/
def State.strandState (s : State) (u : Nat) : Nat :=
  if s.reg (csObj (clOf u)) = CS.READY ∨ s.reg (csObj (clOf u)) = CS.RETENTION then s.reg (ssObj u) else SS.EMPTY

def State.strandJob (s : State) (u : Nat) : Nat := s.reg (sjObj u)

/-- Job time of a strand: the sidereal count minus HOLD_OFFSET (R131). -/
def State.jobTime (s : State) (u : Nat) : Nat :=
  (s.now + 0x10000000000000000 - s.reg (hoObj u)) % 0x10000000000000000

/-- This module's coordinates (FABRIC_COORD). -/
def State.coord (s : State) : Nat := s.reg Od.FABRIC_COORD

/-! ## Flit counts (Tables DN-10, DN-11) -/

/-- A link carries traffic: UP (2501h:01). -/
def State.linkUp (s : State) (l : Nat) : Bool := s.reg (Od.LINK_STATE l) == 2

/-- New routes may use a link: it is UP, and no compute die at its ends has its ring domain OFF (R174, R415). -/
def State.routable (s : State) (l : Nat) : Bool :=
  s.linkUp l && [(linkEnds l).1.1, (linkEnds l).2.1].all fun d => !(decide (d < 16) && s.reg (Od.RING_PWR d) == 2)

/-- A ring segment is BYPASSED (R184). -/
def State.bypassed (s : State) (d ring p : Nat) : Bool := s.reg ⟨0x3051 + 0x100 * d, 1, 100 * ring + p⟩ == 1

/-- The links over which the routes of job `j` run: those that new routes could use when they were fixed (R172, R174);
for traffic of no job those of now. -/
def State.upOf (s : State) (j l : Nat) : Bool := if j = 0 then s.routable l else (s.job j).up.contains l

/-- `n` flits of job `j` go from place `a` to place `b` of the die network on a ring: RING_FLITS where they are injected at `a`,
LINK_FLITS, BYPASS_FLITS. -/
def State.carry (s : State) (j : Nat) (inject : Bool) (a b : Nat × Nat) (ring vc n : Nat) : State :=
  let s := if inject && a.1 < 16 then s.bump ⟨0x3052 + 0x100 * a.1, 1 + vc, 0⟩ n else s
  match route (s.upOf j) (ring % 4) a b with
  | none => s
  | some r =>
    let s := r.links.foldl (fun s l => s.bump (Od.LINK_FLITS l) n) s
    (r.segs.filter fun g => s.bypassed g.1 (ring % 4) g.2).foldl (fun s g => s.bump ⟨0x3052 + 0x100 * g.1, 8, 0⟩ n) s

/-- One VC1 flit of a job between two places of this module (Table DN-6). -/
def State.vc1Flit (s : State) (j : Nat) (a b : Nat × Nat) : State := s.carry j true a b 0 1 1

/-- The source stop of an end: die · 128 + position, position 0 on port dies and HB (Table DN-4). -/
def sourceStop (x : Nat) : Nat := if x < 0x10000 then stopOf (clOf x) else nodeOf (x - 0x10000) 0

/-- Messages in injection at a source stop (R170). -/
def State.injecting (s : State) (stop : Nat) : Nat := (s.net.filter fun m => m.how.stop == stop && decide (0 < m.how.left)).length

/-- The strands of a job on this module: one for each rank bound here, strand 0 for serving and 1 for TRAIN (R114). -/
def State.jobStrands (s : State) (j : Nat) : List Nat :=
  (s.job j).ranks.filterMap fun p =>
    if p.coord = s.coord then some (2 * p.cl + (if (s.job j).train then 1 else 0)) else none

/-- A fold of state changes over a list. -/
def forAll {α : Type} (l : List α) (s : State) (f : State → α → State) : State := l.foldl f s

/-! ## Slices and job time -/

/-- The slice record (SLICE_SEL number) that holds a SLICE_ID, if any (R352). -/
def State.sliceOf (s : State) (id : Nat) : Option Nat :=
  if id = 0 then none else (List.range 64).find? fun k => s.reg (Od.SLICE_ID k) == id

/-- The block of a slice record. -/
def State.box (s : State) (k : Nat) : Box :=
  ⟨s.reg (Od.SLICE_ORIGIN k), s.reg (Od.SLICE_EXTENT k), s.reg (Od.SLICE_WRAP k)⟩

/-- The slice record of a job. -/
def State.jobSlice (s : State) (j : Nat) : Option Nat := s.sliceOf (s.reg (Od.JOB_SLICE j))

/-- The block of a job's slice; this module alone where there is none. -/
def State.jobBox (s : State) (j : Nat) : Box :=
  match s.jobSlice j with
  | some k => s.box k
  | none => ⟨s.coord, coordOf 1 1 1, 0⟩

/-- The modules that a job's ranks are bound to. -/
def State.jobModules (s : State) (j : Nat) : List Nat := ((s.job j).ranks.map fun p => p.coord).eraseDups

/-- The job has clusters on this module and on another one (R211). -/
def State.spans (s : State) (j : Nat) : Bool :=
  ((s.jobModules j).any fun m => m == s.coord) && (s.jobModules j).any fun m => m != s.coord

/-- Job time of a job on this module (R131): the count minus its HOLD_OFFSET. -/
def State.jobNow (s : State) (j : Nat) : Nat :=
  (s.now + 0x10000000000000000 - s.reg (Od.JOB_HOLD_OFFSET j)) % 0x10000000000000000

/-- The lead module of a job, the module at ORIGIN of its slice (R355). -/
def State.leadOf (s : State) (j : Nat) : Nat := (s.jobBox j).origin

/-- The entry module of context `x` of a job (R21), as the BALLAST_FLOOR before its admission record said; where none did, and for step
reports, the lead module (log entry 20). -/
def State.entryOf (s : State) (j x : Nat) : Nat := Store.get (s.leadOf j) (s.job j).entries x

/-- The strand number of a rank of a job on its module: strand 0 for serving and 1 for TRAIN. -/
def Job.strandOf (t : Job) (p : Place) : Nat := 2 * p.cl + (if t.train then 1 else 0)

/-- The strands on this module of the TRAIN job paired with a serving job. -/
def State.pairStrands (s : State) (j : Nat) : List Nat :=
  let p := s.reg (Od.TRAIN_PAIR j)
  if p = 0 then [] else s.jobStrands p

/-- The paired TRAIN job is RUNNING: neither FROZEN nor absent (R264). -/
def State.pairRuns (s : State) (j : Nat) : Bool :=
  (s.pairStrands j).any fun u => s.strandState u == SS.RUNNING || s.strandState u == SS.HELD || s.strandState u == SS.DEBUG

/-- The rank of a strand in its job. -/
def State.rankOf (s : State) (u : Nat) : Nat := (s.strand u).rank

end Sys2Proof.Machine
end

