-- ==== Sys2Proof/Machine/Post.lean ====
section
/-!
DEFINITION. Sending over the die network and the fabric: message numbers and injection queues (R162, R170, R173), routes and flit
counts (R172), fabric headers, FSEQ and the resend store (R357, R359).
-/
namespace Sys2Proof.Machine

/-! ## The fabric -/

/-- The block whose rule routes the messages of job `j` (R356). -/
def State.routeBox (s : State) (j : Nat) : Box := if j = 0 then Box.torus else s.jobBox j

/-- The hops from `m` to `n` with the directions of DIR on the axes that wrap. -/
def Box.hopsDir (b : Box) (dir m n : Nat) : List Nat :=
  [0, 1, 2].flatMap fun a =>
    let t := b.axisSteps a m n
    if b.wrap.testBit a ∧ t.2 ≠ 0 then
      let e := axisOf a b.extent
      let f := (axisOf a n + 16 - axisOf a b.origin) % 16 + e - (axisOf a m + 16 - axisOf a b.origin) % 16
      if dir.testBit a then List.replicate (e - f % e) (2 * a + 1) else List.replicate (f % e) (2 * a)
    else List.replicate t.2 t.1

/-- The hops of a message of the resend store. -/
def State.hopsOf (s : State) (m : FabMsg) : List Nat := (s.routeBox m.msg.job).hopsDir m.dir s.coord m.dst

/-- A fabric port beyond its objects. -/
def State.port (s : State) (p : Nat) : Port := Store.get Port.new s.ports p
def State.modPort (s : State) (p : Nat) (f : Port → Port) : State := { s with ports := Store.set s.ports p (f (s.port p)) }

/-- `n` flits of a VC leave through port `p` (R348, R349): LSEQ counts, the credits owed go with the first, and credits held are used. -/
def State.sentOn (s : State) (p vc n : Nat) : State :=
  s.modPort p fun t => { t with
    sentSeq := (t.sentSeq + n) % 4096
    owe0 := t.owe0 - Nat.min 255 t.owe0
    owe1 := t.owe1 - Nat.min 15 t.owe1
    have0 := if vc = 1 then t.have0 else t.have0 - n
    have1 := if vc = 1 then t.have1 - n else t.have1 }

/-- A message leaves through the first port of its route. -/
def State.fabSend (s : State) (m : FabMsg) : State :=
  let n := if m.vc = 1 then 1 else fabFlits m.msg.how.len
  let s := match (s.hopsOf m).head? with
    | some p => s.sentOn p m.vc n
    | none => s
  { s with fabOut := s.fabOut ++ [m] }.bump Od.FAB_FLITS_TX n

/-- Bytes of a fabric message in the resend store. -/
def FabMsg.bytes (m : FabMsg) : Nat := 64 * fabFlits m.msg.how.len

/-- Bytes of the resend store of a departure PF in use; it holds 8 MiB (R359). -/
def State.storeUsed (s : State) (spf : Nat) : Nat :=
  s.resend.foldl (fun a r => if r.msg.spf = spf then a + r.msg.bytes else a) 0

/-- Injection of a fabric message at its departure PF: VC0 messages take the next FSEQ and enter the resend store, or
wait while it is full (R359). -/
def State.fabInject (s : State) (m : FabMsg) : State :=
  if m.vc = 1 then s.fabSend m
  else if 0x800000 < s.storeUsed m.spf + m.bytes then
    { s with fabWait := s.fabWait ++ [m] }.bump Od.RESEND_STORE_WAITS 1
  else
    let n := Store.get 1 s.fseqTx m.dst
    let m := { m with fseq := n }
    { s with
      fseqTx := Store.set s.fseqTx m.dst ((n + 1) % 0x100000000)
      resend := s.resend ++ [Resend.mk s.now m] }.fabSend m

/-- The fabric header of a message of job `j` (0 for none) to module `n` (Table FB-4). -/
def State.fabHeader (s : State) (j vc n : Nat) (m : NetMsg) : FabMsg :=
  let b := if j = 0 then Box.torus else s.jobBox j
  let hs := b.hops s.coord n
  ⟨n, s.coord, b.dir s.coord n, false, vc, if hs.getD 0 0 % 2 = 0 then 0 else 1,
    if j = 0 then 0 else short32 (s.jobNow j), 0, m⟩

/-- The flits of VC0 messages that a source stop still has to inject on a ring. -/
def State.queued (s : State) (stop ring : Nat) : Nat :=
  s.net.foldl (fun a m => if m.how.stop = stop ∧ m.ring = ring then a + m.how.left else a) 0

/-- The ring whose injection queue is shortest, the lowest number on a tie (R130, R173). -/
def State.shortest (s : State) (stop : Nat) : Nat :=
  [1, 2, 3].foldl (fun a r => if s.queued stop r < s.queued stop a then r else a) 0

/-- A message has left its source stop whole: it crosses the links of its route (R172) and is in flight to its end on this module, or
enters the fabric at its departure PF. -/
def State.goOff (s : State) (vc : Nat) (m : NetMsg) : State :=
  let f := if vc = 1 then 1 else dieFlits m.how.len
  if m.how.mod = s.coord then { s.carry m.job false (endOf m.src) (endOf m.dst) m.ring vc f with net := s.net ++ [m] }
  else
    let pf := pfOf (((if m.job = 0 then Box.torus else s.jobBox m.job).hops s.coord m.how.mod).getD 0 0)
    (s.carry m.job false (endOf m.src) (pf, 100) m.ring vc f).fabInject (s.fabHeader m.job vc m.how.mod m)

/-- The next message of a source stop: its number, and the counter after it (R170). -/
def State.numbered (s : State) (stop n : Nat) (m : NetMsg) : State × NetMsg :=
  let c := Store.get 0 s.mids stop
  ({ s with mids := Store.set s.mids stop ((c + 1) % 16) }, { m with how := { m.how with stop := stop, count := c, mod := n } })

/-- A message leaves for an end of this module or of module `n`: it takes its number; a VC0 message of a cluster enters the injection
queue of its ring, any other one is injected at once (R162, R173). -/
def State.netSend (s : State) (vc n : Nat) (m : NetMsg) : State :=
  let stop := sourceStop m.src
  let r := s.numbered stop n m
  let s := r.1
  if vc = 0 ∧ m.src < 0x10000 then
    let m := { r.2 with
      ring := if m.how.auto then s.shortest stop else m.ring
      how := { r.2.how with left := dieFlits m.how.len } }
    { s with net := s.net ++ [m] }
  else
    let s := if stop / 128 < 16 then s.bump ⟨0x3052 + 0x100 * (stop / 128), 1 + vc, 0⟩ 1 else s
    s.goOff vc r.2

end Sys2Proof.Machine
end

