-- ==== Sys2Proof/Machine/Ops.lean ====
section
/-!
DEFINITION. The named operations that the meanings share: events and host messages, the end of contexts and jobs, orphaning, fault
records, and the reset of a cluster.
-/
namespace Sys2Proof.Machine

/-! ## Messages to the host -/

/-- The bytes of a number, most significant first. -/
def beBytes : Nat → Nat → List Byte
  | 0, _ => []
  | n + 1, v => BitVec.ofNat 8 (v / 256 ^ n) :: beBytes n v

/-- The bytes of a number, least significant first (R11). -/
def leBytes : Nat → Nat → List Byte
  | 0, _ => []
  | n + 1, v => BitVec.ofNat 8 v :: leBytes n (v / 256)

/-- The number that bytes spell, most significant first. -/
def beNat (l : List Byte) : Nat := l.foldl (fun a b => a * 256 + b.toNat) 0

/-- The number that bytes spell, least significant first. -/
def leNat : List Byte → Nat
  | [] => 0
  | b :: t => b.toNat + 256 * leNat t

/-- `n` bytes of a list from offset `o`. -/
def slice (l : List Byte) (o n : Nat) : List Byte := (l.drop o).take n

/-! ## CRC-32 (R348, R355) -/

/-- One bit of CRC-32 with the polynomial 1EDC6F41h, least significant bit first (log entry 126). -/
def crcBit (c : Nat) : Nat := if c % 2 = 1 then c / 2 ^^^ 0x82F63B78 else c / 2

def crcByte (c : Nat) (b : Byte) : Nat := (List.range 8).foldl (fun c _ => crcBit c) (c ^^^ b.toNat)

/-- CRC-32 of bytes. -/
def crc32 (bs : List Byte) : Nat := bs.foldl crcByte 0xFFFFFFFF ^^^ 0xFFFFFFFF

/-- Message classes of Table HP-3. -/
abbrev MC.ACCEPT : Nat := 2
abbrev MC.REFUSE : Nat := 3
abbrev MC.STREAM : Nat := 4
abbrev MC.KVPUT : Nat := 7
abbrev MC.EVENT : Nat := 9
abbrev MC.ACK : Nat := 10
abbrev MC.SESSION : Nat := 11

/-- Selectors and other objects kept for a session return to their defaults when it ends (R60). -/
def State.dropSessionObjs (s : State) (n : Nat) : State :=
  { s with regs := s.regs.filter fun e =>
      let o := Obj.ofKey e.1
      match Od.row? o.idx o.sub with
      | some r => !(r.perSession && o.inst == n)
      | none => true }

/-- The credit that session `n` sends with its next message (R330): at least 1 message, and up to 32 from the shared pool. -/
def State.grantCredit (s : State) (n : Nat) : State :=
  let t := s.session n
  if t.isOpen then
    let base := Nat.max 1 ((t.credit + 0x100000000 - t.rxNext) % 0x100000000)
    let more := Nat.min (32 - base) (s.reg Od.CREDIT_POOL_FREE)
    (s.setReg Od.CREDIT_POOL_FREE (s.reg Od.CREDIT_POOL_FREE - more)).setSession n
      { t with credit := (t.rxNext + base + more) % 0x100000000 }
  else s

/-- The PCP of a datagram of engine class `eng` (R321, R343). -/
def State.pcp (s : State) (mgmt : Bool) (eng : Nat) : Nat :=
  if mgmt then s.reg Od.MGMT_PCP else s.reg Od.PCP_MAP / 2 ^ (8 - 4 * eng) % 8

/-- The pause of a priority is over: its datagrams leave in order. -/
def State.unpause (s : State) (p : Nat) : State :=
  let ws := s.txHeld.filter fun (w : Wire) => w.pcp == p
  ({ s with
    pfc := Store.erase s.pfc p
    txHeld := s.txHeld.filter fun (w : Wire) => w.pcp != p
    wire := s.wire ++ ws }).bump Od.FRAMES_TX ws.length

/-- A datagram reaches the wire, or waits where a PFC pause covers its priority (R320, Table HP-8). -/
def State.putWire (s : State) (w : Wire) : State :=
  match Store.get? s.pfc w.pcp with
  | some t => if s.now < t then { s with txHeld := s.txHeld ++ [w] }
      else
        let s := s.unpause w.pcp
        { s with wire := s.wire ++ [w] }.bump Od.FRAMES_TX 1
  | none => { s with wire := s.wire ++ [w] }.bump Od.FRAMES_TX 1

/-- A message leaves in its own datagram, with the acknowledgements and the credit of its session (R329, R330). -/
def State.sendNow (s : State) (m : OutMsg) : State :=
  let s := s.grantCredit m.session
  let t := s.session m.session
  let sack := (List.range 32).foldl (fun a i => if t.rxBuf.any (fun (m : InMsg) => m.seq == (t.rxNext + 1 + i) % 0x100000000)
    then a + 2 ^ i else a) 0
  let w : Wire := ⟨m, t.txnNext, t.rxNext, sack, t.credit, short32 s.now, t.peer, t.tenant.isNone, s.pcp t.tenant.isNone m.eng⟩
  (s.modSession m.session fun t => { t with txnNext := t.txnNext + 1, lastTx := s.now, ackDue := none }).putWire w

/-- The cancel of a context by the end of its session: no record, no breach (R333). -/
def State.cancelQuiet (s : State) (x : Nat) : State :=
  let st := s.reg (Od.CTX_STATE x)
  if 1 ≤ st ∧ st ≤ 3 then
    let s := (s.setReg (Od.CTX_STATE x) XS.ENDING).setReg (Od.CTX_END x) 5
    (s.setReg (Od.CTX_FLAGS x) (s.reg (Od.CTX_FLAGS x) ||| 4)).setCtx x { s.ctx x with endTick := s.now }
  else s

/-- The contexts in use. -/
def State.ctxList (s : State) : List Nat := s.ctxs.map Prod.fst

/-- The handle value of an entry: index in [13:0], reuse count in [31:14] (R258). -/
def State.prefixHandle (s : State) (e : Nat) : Nat := (Store.get Prefix.new s.prefixes e).reuse * 16384 + e

/-- The bytes of KV blocks held by a prefix handle's runs (R260). -/
def State.prefixBytes (s : State) (e : Nat) : Nat :=
  16 * s.reg (Od.KV_BYTES_PER_TOKEN (s.reg (Od.PREFIX_JOB e))) *
    ((Store.get Prefix.new s.prefixes e).runs.foldl (fun a r => a + r.2) 0)

/-- A prefix handle returns to NONE and its blocks are freed, but for those that a context still reads (R389). -/
def State.dropPrefix (s : State) (e : Nat) : State :=
  let t := s.reg (Od.PREFIX_TENANT e)
  let s := s.setReg (Od.TENANT_SRAM_USED t) (s.reg (Od.TENANT_SRAM_USED t) - s.prefixBytes e)
  let s := (s.setReg (Od.PREFIX_STATE e) 0).setReg (Od.PREFIX_REFS e) 0
  let s := { s with prefixes := Store.set s.prefixes e { Store.get Prefix.new s.prefixes e with runs := [], landed := [], head := [] } }
  s.setReg Od.PREFIXES_IN_USE (s.reg Od.PREFIXES_IN_USE - 1)

/-- A reference to a prefix handle ends (Table SV-9): a DELETING handle without references returns to NONE. -/
def State.unrefPrefix (s : State) (h : Nat) : State :=
  let e := h % 16384
  if h = 0 ∨ s.prefixHandle e ≠ h ∨ s.reg (Od.PREFIX_STATE e) = 0 then s
  else
    let s := (s.setReg (Od.PREFIX_REFS e) (s.reg (Od.PREFIX_REFS e) - 1)).setReg (Od.PREFIX_LAST_USE e) s.now
    if s.reg (Od.PREFIX_STATE e) = 3 ∧ s.reg (Od.PREFIX_REFS e) = 0 then s.dropPrefix e else s

/-- A session leaves the table: its selectors and its credit (R330) return. -/
def State.dropSession (s : State) (n : Nat) : State :=
  let s := s.dropSessionObjs n
  let t := s.session n
  let s := s.setReg Od.CREDIT_POOL_FREE
    (Nat.min 4096 (s.reg Od.CREDIT_POOL_FREE + ((t.credit + 0x100000000 - t.rxNext) % 0x100000000 - 1)))
  let s := s.setReg Od.SESSIONS_OPEN (s.reg Od.SESSIONS_OPEN - 1)
  { s with sessions := Store.erase s.sessions n }

/-- The end of a session (R333): CLOSE with the reason unless the host closed it, queue discarded, contexts cancelled,
SESSIONS_LOST unless the host closed it; an export that it runs ends (Table SV-9); its credit returns to the pool (R330). -/
def State.endSession (s : State) (n : Nat) (reason : Option Nat) : State :=
  let t := s.session n
  if t.isOpen then
    let s := match reason with
      | some r => (s.sendNow (OutMsg.mk n MC.SESSION 2 3 t.txSeq r 0 0 [] 0)).bump Od.SESSIONS_LOST 1
      | none => s
    let s := forAll s.ctxList s fun s x => if s.reg (Od.CTX_SESSION x) = n then s.cancelQuiet x else s
    (forAll (s.session n).exporting s fun s e => s.unrefPrefix (s.prefixHandle e.entry)).dropSession n
  else s

/-- The engine class of a message (Table HP-3), REFUSE as STANDARD. -/
def engineClass (cls flags : Nat) : Nat :=
  if cls = 2 ∨ cls = 4 then (if flags / 4 % 2 = 1 then 0 else 1)
  else if cls = 7 then 2
  else if cls = 10 ∨ cls = 11 then 0
  else 1

/-- A sequenced message of an engine class (STANDARD in an operator session, R343): it takes the next SEQ and enters the session's transmit queue of 256 (R328,
R331); a full queue ends the session with FLOW_STALL. -/
def State.sendAs (s : State) (eng n cls kind flags reason ctx reqId : Nat) (payload : List Byte) : State :=
  let t := s.session n
  if t.isOpen then
    if 256 ≤ t.txQueue.length then s.endSession n (some Code.FLOW_STALL)
    else
      let m : OutMsg := ⟨n, cls, kind, flags, t.txSeq, reason, ctx, reqId, payload, if t.tenant.isNone then 1 else eng⟩
      s.setSession n { t with txQueue := t.txQueue ++ [m], txSeq := (t.txSeq + 1) % 0x100000000 }
  else s

/-- A sequenced message in the engine class of its kind. -/
def State.send (s : State) (n cls kind flags reason ctx reqId : Nat) (payload : List Byte) : State :=
  s.sendAs (engineClass cls flags) n cls kind flags reason ctx reqId payload

/-- The response prefix of Table HP-4. -/
def respPrefix (refSeq : Nat) (retry : Option Nat) (state : Nat) : List Byte :=
  beBytes 4 refSeq ++ beBytes 4 (short32 (retry.getD 0)) ++ beBytes 1 state ++
    beBytes 1 (if retry.isSome then 1 else 0) ++ beBytes 2 0

/-- The lowest-numbered open session that satisfies `p`. -/
def State.lowestSession (s : State) (p : Session → Bool) : Option Nat :=
  (s.sessions.find? fun e => e.2.isOpen && p e.2).map Prod.fst

/-- Where an event goes (R341). -/
inductive EventTo where
  | req (ctx : Nat)
  | tenant (t : Nat)
  | mgmt
  | session (n : Nat)
  deriving DecidableEq, Repr

/-- An EVENT message with one record (R341); with no session to receive it, EVENTS_DROPPED counts it. -/
def State.event (s : State) (ev : Nat) (dest : EventTo) (body : List Byte) : State :=
  let rec' := beBytes 2 ev ++ beBytes 2 body.length ++ beBytes 4 (short32 s.now) ++ body
  let toTenant (s : State) (t : Nat) : State :=
    match s.lowestSession fun x => x.tenant == some t with
    | some n => s.send n MC.EVENT 0 3 0 0 0 rec'
    | none => s.bump Od.EVENTS_DROPPED 1
  match dest with
  | .session n => if (s.session n).isOpen then s.send n MC.EVENT 0 3 0 0 0 rec' else s.bump Od.EVENTS_DROPPED 1
  | .req x =>
    let n := s.reg (Od.CTX_SESSION x)
    if (s.session n).isOpen then s.send n MC.EVENT 0 3 0 x (s.reg (Od.CTX_REQ_ID x)) rec'
    else toTenant s (s.reg (Od.CTX_TENANT x))
  | .tenant t => toTenant s t
  | .mgmt =>
    let ns := (s.sessions.filter fun e => e.2.isOpen && e.2.tenant.isNone).map Prod.fst
    if ns = [] then s.bump Od.EVENTS_DROPPED 1
    else forAll ns s fun s n => s.send n MC.EVENT 0 3 0 0 0 rec'

/-! ## The fault log -/

/-- The 64 bytes of a fault record (Table RL-4). -/
def FaultRec.bytes (f : FaultRec) : List Byte :=
  let b := leBytes 8 f.seq ++ leBytes 8 (if f.timed then f.time else 0) ++ leBytes 4 f.epoch ++ leBytes 2 f.kind ++ leBytes 1 f.die ++
    leBytes 1 f.cluster ++ leBytes 2 f.unit ++ leBytes 2 f.rpt ++ leBytes 4 f.detail ++ f.body
  (b ++ List.replicate 64 0).take 64

/-- A fault record is written, or merged into a like one of the last 2^16 ticks (R394); a FAULT event reports it. -/
def State.fault (s : State) (kind die cl unit detail : Nat) (body : List Byte) : State :=
  let same (f : FaultRec) : Bool := f.kind == kind && f.die == die && f.cluster == cl && f.unit == unit &&
    decide (s.now ≤ f.time + 0x10000) && kind != 8
  if s.faults.any same then
    { s with faults := s.faults.map fun f => if same f then { f with rpt := Nat.min 0xFFFF (f.rpt + 1) } else f }
  else
    let s := s.inc64 Od.FAULT_LOG_SEQ
    let f : FaultRec := ⟨s.reg Od.FAULT_LOG_SEQ, s.now, s.reg Od.SYNC_STATE != 0, s.reg Od.RESETS % 0x100000000, kind, die, cl, unit, 0, detail, body⟩
    { s with faults := (f :: s.faults).take 65536 }.event 0x10 .mgmt f.bytes

/-- A fault record of a cluster. -/
def State.clFault (s : State) (kind c unit detail : Nat) (body : List Byte) : State :=
  s.fault kind (dieOf c) (kOf c) unit detail body

/-! ## The end of a request -/

/-- Causes of Table ST-4. -/
abbrev Br.RESET : Nat := 1
abbrev Br.MEMBER_LOST : Nat := 2
abbrev Br.LINK_LOST : Nat := 3
abbrev Br.TIME_LOST : Nat := 4
abbrev Br.THERMAL : Nat := 5
abbrev Br.HOLDS : Nat := 6
abbrev Br.POISONED : Nat := 7
abbrev Br.ORPHANED : Nat := 8

/-- One breach of a request (R223, R224): BREACHES, the context's count, and the BREACH event. -/
def State.breach (s : State) (x cause source index deadline delivery : Nat) : State :=
  let s := (s.inc64 Od.BREACHES).setReg Od.LAST_BREACH_CAUSE cause
  let s := s.setReg (Od.CTX_BREACHES x) ((s.reg (Od.CTX_BREACHES x) + 1) % 0x10000)
  s.event 1 (.req x) (beBytes 2 x ++ beBytes 1 cause ++ beBytes 1 source ++ beBytes 4 index ++
    beBytes 4 (short32 deadline) ++ beBytes 4 delivery)

/-- The breach of this tick is reported (R224). -/
def State.breachNow (s : State) (x : Nat) : State :=
  match (s.ctx x).breachDue with
  | none => s
  | some (cause, source, index, deadline, delivery) =>
    (s.setCtx x { s.ctx x with breachDue := none }).breach x cause source index deadline delivery

/-- The queued STREAM message that a record delivered now joins (R255, R338). -/
def OutMsg.joins (m : OutMsg) (ctx tick : Nat) : Bool :=
  m.cls == MC.STREAM && m.ctx == ctx && decide (m.payload.length < 8192) &&
    m.payload.drop (m.payload.length - 4) == beBytes 4 tick

/-- The STREAM record of Table HP-6 passed to PH (R255): records of one request delivered in one tick share one message. -/
def State.streamRecord (s : State) (x index token flags endR endS : Nat) : State :=
  let rec' := beBytes 4 index ++ beBytes 4 token ++ beBytes 1 flags ++ beBytes 1 endR ++ beBytes 2 endS ++
    beBytes 4 (short32 s.now)
  let n := s.reg (Od.CTX_SESSION x)
  let s := s.bump Od.STREAM_RECORDS 1
  if ((s.session n).txQueue.any fun (m : OutMsg) => m.joins x (short32 s.now)) = true then
    let put (m : OutMsg) : OutMsg := if m.joins x (short32 s.now) then { m with payload := m.payload ++ rec' } else m
    s.modSession n fun t => { t with txQueue := t.txQueue.map put }
  else s.send n MC.STREAM 0 (3 + 4 * (1 - s.reg (Od.CTX_CLASS x))) 0 x (s.reg (Od.CTX_REQ_ID x)) rec'

/-- A context goes to ENDING with its end reason and status (Table SV-2, Table SV-6). -/
def State.ctxEnding (s : State) (x reason status : Nat) : State :=
  let s := ((s.setReg (Od.CTX_STATE x) XS.ENDING).setReg (Od.CTX_END x) reason).setReg (Od.CTX_END_STATUS x) status
  s.setCtx x { s.ctx x with endTick := s.now }

/-- The final record without a token (Table SV-8): FINAL, and PRECISION where it is pending (R97). -/
def State.finalRecord (s : State) (x reason status : Nat) : State :=
  s.streamRecord x (s.reg (Od.CTX_NEXT_INDEX x)) 0xFFFFFFFF (1 + 2 * (s.reg (Od.CTX_FLAGS x) % 2)) reason status

/-- The cause and source of a breach: those given, or free values where a job ends complete or is unloaded, for which
Table ST-4 lists no cause (cause 0; log entry 36). -/
def State.breachCause (s : State) (cause source : Nat) : Nat × Nat × State :=
  if cause = 0 then (Config.freeNat s.freeN % 256, Config.freeNat (s.freeN + 1) % 256, s.spend 2)
  else (cause, source, s)

/-- The module ends a request (Table SV-2, R223): final record, ENDED with the code, one breach with the cause, which takes the place
of a breach of the same tick (Table ST-6). -/
def State.endCtx (s : State) (x code cause source : Nat) : State :=
  let st := s.reg (Od.CTX_STATE x)
  if 1 ≤ st ∧ st ≤ 3 then
    let s := (s.finalRecord x 6 code).ctxEnding x 6 code
    let s := s.setCtx x { s.ctx x with breachDue := none }
    let b := s.breachCause cause source
    b.2.2.breach x b.1 b.2.1 (s.reg (Od.CTX_NEXT_INDEX x)) (s.reg (Od.CTX_NEXT_DEADLINE x)) 0xFFFFFFFF
  else s

/-- The handle value of an adapter entry: index in [11:0], reuse count in [31:12] (R297). -/
def State.adapterHandle (s : State) (e : Nat) : Nat := (Store.get Adapter.new s.adapters e).reuse * 4096 + e

/-- The objects of an adapter entry follow its generations (Table WT-6). -/
def State.adapterObjs (s : State) (e : Nat) : State :=
  let gens := (Store.get Adapter.new s.adapters e).gens
  let cur := gens.find? fun (g : AdGen) => g.state == 2
  let load := gens.find? fun (g : AdGen) => g.state == 1
  let val (o : Option AdGen) (f : AdGen → Nat) : Nat := match o with
    | some g => f g
    | none => 0
  let s := (s.setReg (Od.AD_CURRENT_GEN e) (val cur AdGen.num)).setReg (Od.AD_LOADING_GEN e) (val load AdGen.num)
  let s := (s.setReg (Od.AD_OFFSET e) (val cur AdGen.off)).setReg (Od.AD_BYTES_PER_RANK e) (val cur AdGen.perRank)
  s.setReg (Od.AD_REFS e) (gens.foldl (fun a (g : AdGen) => a + g.refs) 0)

/-- Zero with valid parity and clear tags on every byte of a page range of a cluster (R126). -/
def State.clearSram (s : State) (c : Nat) (p : Nat → Bool) : State :=
  { s with
    sram := s.sram.filter fun e => !(e.1 / 0x400000 == c && p (e.1 % 0x400000 / 4096))
    sramPoison := s.sramPoison.filter fun w => !(w / 0x100000 == c && p (w % 0x100000 / 1024))
    sramParity := s.sramParity.filter fun w => !(w / 0x100000 == c && p (w % 0x100000 / 1024)) }

/-- Bytes in whole pages. -/
def pageUp (n : Nat) : Nat := (n + 4095) / 4096 * 4096

/-- The pages of a generation in the ADAPTER_POOLs of this module are cleared (R126). -/
def State.clearGen (s : State) (j : Nat) (g : AdGen) : State :=
  forAll ((s.job j).pools.filter fun x => x.1 == 5) s fun s x =>
    let a := (x.2.2.1 + g.off) / 4096
    match (s.job j).ranks[x.2.1]? with
    | some q => s.clearSram q.cl fun k => decide (a ≤ k) && decide (k < a + pageUp g.perRank / 4096)
    | none => s

/-- Generations of an entry that satisfy `p` return to NONE (Table WT-4): their pages are cleared, their quota is released,
and the entry is freed once none remains. -/
def State.dropGens (s : State) (e : Nat) (p : AdGen → Bool) : State :=
  let a := Store.get Adapter.new s.adapters e
  let gone := a.gens.filter p
  if gone = [] then s
  else
    let t := s.reg (Od.AD_TENANT e)
    let s := forAll gone s fun s g => s.clearGen (s.reg (Od.AD_JOB e)) g
    let s := s.setReg (Od.TENANT_SRAM_USED t)
      (s.reg (Od.TENANT_SRAM_USED t) - gone.foldl (fun n (g : AdGen) => n + g.quota) 0)
    let rest := a.gens.filter fun g => !p g
    let s := { s with adapters := Store.set s.adapters e { a with gens := rest } }.adapterObjs e
    if rest = [] then
      ((s.setReg Od.ADAPTERS_IN_USE (s.reg Od.ADAPTERS_IN_USE - 1)).setReg (Od.AD_RETIRING e) 0).setReg (Od.AD_JOB e) 0
    else s

/-- A generation is past use: SUPERSEDED or RETIRING without references. -/
def AdGen.over (g : AdGen) : Bool := decide (3 ≤ g.state) && g.refs == 0

/-- The SUPERSEDED generations without references of an adapter entry go as the tick in which they were superseded has ended. -/
def State.supersededDue (s : State) (e : Nat) : State :=
  if (Store.get Adapter.new s.adapters e).gens.any AdGen.over then s.dropGens e AdGen.over else s

/-- A reference to an adapter generation ends. -/
def State.unrefAdapter (s : State) (h gen : Nat) : State :=
  let e := h % 4096
  if h = 0 ∨ s.adapterHandle e ≠ h then s
  else
    let a := Store.get Adapter.new s.adapters e
    let gens := a.gens.map fun (g : AdGen) => if g.num = gen then { g with refs := g.refs - 1 } else g
    ({ s with adapters := Store.set s.adapters e { a with gens := gens } }.adapterObjs e).dropGens e AdGen.over

/-- The adapters of an ended job go (Table WT-4). -/
def State.dropAdapters (s : State) (j : Nat) : State :=
  forAll (s.adapters.map Prod.fst) s fun s e => if s.reg (Od.AD_JOB e) = j then s.dropGens e (fun _ => true) else s

/-- A context's references to its prefix and its adapter end as it leaves ENDING (Table SV-2, R258, R263). -/
def State.unrefCtx (s : State) (x : Nat) : State :=
  (s.unrefPrefix (s.reg (Od.CTX_PREFIX x))).unrefAdapter (s.reg (Od.CTX_ADAPTER x)) (s.reg (Od.CTX_ADAPTER_GEN x))

/-- The bytes that a context's own run counts against its tenant's quota (R249). -/
def State.runBytes (s : State) (x : Nat) : Nat :=
  16 * s.reg (Od.KV_BYTES_PER_TOKEN (s.reg (Od.CTX_JOB x))) * s.reg (Od.CTX_KV_BLOCKS x)

/-- A context becomes FREE: its run of KV blocks is released, its version pin dropped (R292). -/
def State.freeCtx (s : State) (x : Nat) : State :=
  let s := s.breachNow x
  let j := s.reg (Od.CTX_JOB x)
  let v := s.reg (Od.CTX_VERSION x)
  let s := forAll (List.range 16) s fun s e =>
    if s.reg (Od.VER_JOB e) = j ∧ s.reg (Od.VER_NUMBER e) = v ∧ v ≠ 0 then
      s.setReg (Od.VER_PINS e) (s.reg (Od.VER_PINS e) - 1) else s
  let t := s.reg (Od.CTX_TENANT x)
  let s := s.setReg (Od.TENANT_CONTEXTS t) (s.reg (Od.TENANT_CONTEXTS t) - 1)
  let s := s.setReg (Od.TENANT_SRAM_USED t) (s.reg (Od.TENANT_SRAM_USED t) - s.runBytes x)
  let s := s.setReg Od.CONTEXTS_IN_USE (s.reg Od.CONTEXTS_IN_USE - 1)
  { s with
    ctxs := Store.erase s.ctxs x
    freedAt := Store.set (s.freedAt.filter fun (e : Nat × Nat) => e.2 == s.now) x s.now
    regs := s.regs.filter fun e =>
      !((Obj.ofKey e.1).idx == 0x5021 && (Obj.ofKey e.1).inst == x) }

/-- A RETAINED context is freed with a RETAIN_EXPIRED event (Table SV-2). -/
def State.expireCtx (s : State) (x : Nat) : State :=
  if s.reg (Od.CTX_STATE x) = XS.RETAINED then
    (s.event 3 (.req x) (beBytes 2 x ++ beBytes 2 0)).freeCtx x
  else s

/-- A READY handle is evicted with its event (Table SV-9, R258): 1 QUOTA, 2 VERSION_RELEASED, 3 JOB_ENDED,
4 POISONED. -/
def State.evictPrefix (s : State) (e reason : Nat) : State :=
  if s.reg (Od.PREFIX_STATE e) = 2 then
    let s := s.event 2 (.tenant (s.reg (Od.PREFIX_TENANT e)))
      (beBytes 4 (s.prefixHandle e) ++ beBytes 1 reason ++ beBytes 3 0)
    (s.bump Od.EVICTIONS 1).dropPrefix e
  else s

/-- A handle without references whose job has ended, or whose version is released, is evicted (R258). -/
def State.evictDue (s : State) (e : Nat) : State :=
  let j := s.reg (Od.PREFIX_JOB e)
  let v := s.reg (Od.PREFIX_VERSION e)
  let held := (List.range 16).any fun k => s.reg (Od.VER_JOB k) == j && s.reg (Od.VER_NUMBER k) == v && s.reg (Od.VER_STATE k) != 0
  if s.reg (Od.PREFIX_STATE e) ≠ 2 ∨ s.reg (Od.PREFIX_REFS e) ≠ 0 then s
  else if s.reg (Od.JOB_STATE j) = JS.NONE ∨ s.reg (Od.JOB_STATE j) = JS.ENDING then s.evictPrefix e 3
  else if v ≠ 0 ∧ held = false then s.evictPrefix e 2
  else s

/-- An import ends without success (Table SV-9): 1 DEADLINE, 2 DELETED, 3 JOB_ENDED. -/
def State.failImport (s : State) (e reason : Nat) : State :=
  if s.reg (Od.PREFIX_STATE e) = 1 then
    let s := s.event 4 (.tenant (s.reg (Od.PREFIX_TENANT e)))
      (beBytes 4 (s.prefixHandle e) ++ beBytes 1 reason ++ beBytes 3 0)
    s.dropPrefix e
  else s

/-! ## Sync objects orphaned -/

/-- The sync objects of a strand become ORPHANED, and its waits complete with their condition unmet: no instruction
after a completed wait issues (R227, R238). -/
def State.orphan (s : State) (u : Nat) : State :=
  let c := clOf u
  let s := forAll (List.range 48) s fun s b =>
    if s.reg (syObj c b 1) = 1 ∧ s.reg (syObj c b 2) = stOf u then s.setReg (syObj c b 1) 2 else s
  match (s.strand u).stall with
  | some (.sync _ _ _ _) | some (.arrive _ _) =>
    (s.bump (syCnt c 5) 1).modStrand u fun t => { t with stall := none, idleOffered := false }
  | _ => s

/-! ## The end of a job -/

/-- The queued array commands of a strand are discarded (Table CL-6). -/
def ArrayU.dropQueue (a : ArrayU) (st : Nat) : ArrayU :=
  if st = 0 then { a with q0 := [], cmds := a.cmds.filter fun c => c.strand % 2 ≠ 0 }
  else { a with q1 := [], cmds := a.cmds.filter fun c => c.strand % 2 ≠ 1 }

/-- A strand leaves its job (Table CL-6): RELEASING, objects ORPHANED, queued array commands discarded. -/
def State.releaseStrand (s : State) (u : Nat) : State :=
  let st := s.strandState u
  if st = SS.EMPTY ∨ st = SS.RELEASING then s
  else
    let s := s.orphan u
    let c := clOf u
    let s := { s with arrays := s.arrays.map fun (e : Nat × ArrayU) => if e.1 / 34 = c then (e.1, e.2.dropQueue (stOf u)) else e }
    let s := s.modCluster c fun k => if stOf u = 0 then { k with dma0 := [] } else { k with dma1 := [] }
    let s := s.modStrand u fun t => { t with deadline := none, late := false, stall := none, idleOffered := false, gap := none, replay := none, freezeReq := false, stepping := false, wasFrozen := false }
    s.setReg (ssObj u) SS.RELEASING

/-- No strand issues and no sequence entry, fragment or new programming row starts: the reference is lost (R408) or the module
trips (Table PW-6). -/
def State.draining (s : State) : Bool := s.refHold.isSome || s.bring.tripping

/-- Nothing new starts on a cluster: a drain, or the relock of its die's PLL (R410). -/
def State.gated (s : State) (c : Nat) : Bool := s.draining || s.reg (Od.DIE_OPP (dieOf c)) == 0xFF

/-- A programming row may complete: no drain, or one that began at most 1,700 ticks (8 us) ago (R408, Table PW-6). -/
def State.rowsRun (s : State) : Bool :=
  match s.refHold with
  | some t => decide (s.now ≤ t + 1700)
  | none => !s.bring.tripping || decide (s.now ≤ s.bring.tripAt + 1700)

/-- A cluster in RETENTION and its die's ring domain wake (R412, R414). -/
def State.wakeCluster (s : State) (c : Nat) : State :=
  if s.reg (csObj c) = CS.RETENTION then
    let s := ((s.setReg (csObj c) CS.READY).setReg (Od.CL_COMPUTE_PWR (dieOf c) (kOf c)) 0).setReg (Od.CL_SRAM_PWR (dieOf c) (kOf c)) 0
    (s.setReg (Od.RING_PWR (dieOf c)) 0).modCluster c fun k => { k with restFrom := s.ticks }
  else s

/-- A cluster's domains enter RETENTION, its arrays' converter bias is OFF (Table PW-3). -/
def State.retain (s : State) (c : Nat) : State :=
  let s := ((s.setReg (csObj c) CS.RETENTION).setReg (Od.CL_COMPUTE_PWR (dieOf c) (kOf c)) 1).setReg (Od.CL_SRAM_PWR (dieOf c) (kOf c)) 1
  { s with arrays := s.arrays.map fun (e : Nat × ArrayU) => if e.1 / 34 = c then (e.1, { e.2 with bias := 0 }) else e }

/-- 8 us after the reference is lost, the programming rows in progress are complete and every READY cluster enters RETENTION (R408). -/
def State.tickHoldover (s : State) : State :=
  match s.refHold with
  | some t => if t + 1700 < s.now then forAll ((List.range 1536).filter fun c => s.reg (csObj c) == CS.READY) s State.retain else s
  | none => s

/-- The current state of a job. -/
def State.jobState (s : State) (j : Nat) : Nat := s.reg (Od.JOB_STATE j)

/-- A record from HB of this module to HB of another one (R205, R216, R220, R355): one VC1 flit, or for a weight fragment, a manifest
record or a peer copy's list the flits of a VC0 message. It crosses to the PF die of its route over the whole torus (R356). -/
def State.notice (s : State) (dst kind : Nat) (body : List Nat) : State :=
  let p := (Box.torus.hops s.coord dst).getD 0 0
  let bulk := kind = 8 ∨ kind = 13 ∨ kind = 14 ∨ kind = 19
  let n := if bulk then fabFlits body.length else 1
  let s := { s with notices := s.notices ++ [Notice.mk dst kind body] }.carry 0 true (HB, 100) (pfOf p, 100) 0 (if bulk then 0 else 1)
    (if bulk then dieFlits body.length else 1)
  (s.sentOn p (if bulk then 0 else 1) n).bump Od.FAB_FLITS_TX n

/-- HOLD records go to every other module of the job's slice, its entry modules among them (R216): cause, t, E (0 while it is open) and
HOLD_OFFSET. -/
def State.holdRecord (s : State) (j cause t e : Nat) : State :=
  forAll ((s.jobModules j).filter fun m => m != s.coord) s fun s m =>
    s.notice m 5 [j, s.coord, cause, short32 t, short32 e, short32 (s.reg (Od.JOB_HOLD_OFFSET j))]

/-- A hold of a job ends with the job (R139, R204): its requests fall away; a hold in progress ends now (R216). -/
def State.dropHold (s : State) (j : Nat) : State :=
  let s := match (s.job j).holdStart with
    | some b => (s.bump Od.HOLD_TICKS (s.now - b)).holdRecord j (s.reg (Od.LAST_HOLD_CAUSE j)) b s.now
    | none => s
  s.modJob j fun t => { t with reqs := [], holdStart := none, alarmed := false, peerHold := none, startTick := none }

/-- A job ends (Table PC-6): ENDING, strands RELEASING, its requests end with the code and one breach each, RETAINED
contexts and handles go (Tables SV-2, SV-9), a handle with references once they end (R258). -/
def State.endJob (s : State) (j code cause source : Nat) : State :=
  if s.jobState j = JS.BOUND ∨ s.jobState j = JS.ENABLED then
    let s := forAll s.ctxList s fun s x =>
      if s.reg (Od.CTX_JOB x) = j then (s.endCtx x code cause source).expireCtx x else s
    let s := forAll (s.prefixes.map Prod.fst) s fun s e =>
      if s.reg (Od.PREFIX_JOB e) = j then
        (if s.reg (Od.PREFIX_REFS e) = 0 then s.evictPrefix e 3 else s).failImport e 3
      else s
    let s := s.dropAdapters j
    let s := forAll (s.jobStrands j) s fun s u => s.releaseStrand u
    let s := s.dropHold j
    let s := s.setReg (Od.JOB_ENABLE j) 0
    s.setReg (Od.JOB_STATE j) JS.ENDING
  else s

/-- The job of a strand ends because poison reached a control operand or the value is illegal (R135, R156, R164):
STRAND_STOPS, POISONED_JOBS and POISONED_REQUESTS count (R388). -/
def State.poisonJob (s : State) (j : Nat) : State :=
  let n := (s.ctxList.filter fun x => s.reg (Od.CTX_JOB x) = j ∧ 1 ≤ s.reg (Od.CTX_STATE x) ∧
    s.reg (Od.CTX_STATE x) ≤ 3).length
  let s := (s.bump Od.POISONED_JOBS 1).bump Od.POISONED_REQUESTS n
  s.endJob j Code.POISONED Br.POISONED 0

/-- The strand stops at an instruction, with no side effect of that instruction (R164). -/
def State.strandStop (s : State) (u : Nat) : State :=
  (s.bump (isaCnt (clOf u) 4) 1).poisonJob (s.strandJob u)

/-! ## Reset of a cluster -/

/-- Page tags of a cluster that satisfy `p` are invalidated. -/
def State.clearTags (s : State) (c : Nat) (p : PageTag → Bool) : State :=
  { s with pages := s.pages.filter fun e => !(e.1 / 1024 == c && p e.2) }

/-- The tag of a page. -/
def State.page (s : State) (c p : Nat) : PageTag := Store.get ⟨false, 0, 0⟩ s.pages (1024 * c + p)

/-- PAGES_USED (Table CL-7). -/
def State.pagesUsed (s : State) (c : Nat) : Nat :=
  (s.pages.filter fun e => e.1 / 1024 == c && e.2.valid).length

/-- ARRAY_STATE object of array `a` (A number) of cluster `c`, and of a module-wide array number (Table AR-9). -/
def asObj (c a : Nat) : Obj := Od.ARRAY_STATE (dieOf c) (34 * kOf c + a)

/-- Array states of Table AR-9. -/
abbrev AS.FREE : Nat := 0
abbrev AS.PROGRAMMING : Nat := 1
abbrev AS.ACTIVE : Nat := 2
abbrev AS.SPARE : Nat := 3
abbrev AS.SHADOW : Nat := 4
abbrev AS.RETIRED : Nat := 5

/-- Array `a` of a cluster is marked rested or not (SPARES_RESTED, R302). -/
def State.setRested (s : State) (c a : Nat) (b : Bool) : State :=
  let v := s.reg (Od.SPARES_RESTED c)
  let m := if s.reg (Od.SPARE_A c) = a then 1 else if s.reg (Od.SPARE_B c) = a then 2 else 0
  s.setReg (Od.SPARES_RESTED c) (if b then v ||| m else v - (v &&& m))

def State.isRested (s : State) (c a : Nat) : Bool :=
  let v := s.reg (Od.SPARES_RESTED c)
  if s.reg (Od.SPARE_A c) = a then v % 2 == 1 else if s.reg (Od.SPARE_B c) = a then v / 2 % 2 == 1 else false

/-- A transit ends: no target and no incoming array; the row buffers are cleared (R305). -/
def State.transitIdle (s : State) (c : Nat) : State :=
  let s := ((s.setReg (Od.TRANSIT_STATE c) 0).setReg (Od.TRANSIT_TARGET c) 0xFF).setReg (Od.TRANSIT_INCOMING c) 0xFF
  s.modCluster c fun k => { k with pairs := [], rowBufs := [], copiedRows := 0 }

/-- A transit is abandoned (R317): the incoming array returns to SPARE, not rested; TRANSIT_ABANDONS counts. -/
def State.abandonTransit (s : State) (c : Nat) : State :=
  let st := s.reg (Od.TRANSIT_STATE c)
  if 1 ≤ st ∧ st ≤ 3 then
    let tgt := s.reg (Od.TRANSIT_TARGET c)
    let inc := s.reg (Od.TRANSIT_INCOMING c)
    let s := (s.bump Od.TRANSIT_ABANDONS 1).setReg (Od.LAST_VERDICT (34 * c + tgt)) 4
    let s := if s.reg (asObj c inc) = AS.PROGRAMMING ∨ s.reg (asObj c inc) = AS.SHADOW then
        ((s.setReg (asObj c inc) AS.SPARE).setRested c inc false).modArray (34 * c + inc) fun a =>
          { a with progRow := none, progBlock := none }
      else s
    s.transitIdle c
  else s

/-- HB sends an ORPHAN message to every cluster of a job but the one that resets (R238, Table SY-2). VALUE carries the code with which
the job ends, which the message's payload does not (log entry 125). -/
def State.sendOrphans (s : State) (j c code : Nat) : State :=
  let t := s.job j
  let body := [PWord.mk 2 false, PWord.zero]
  forAll (t.ranks.filter fun p => !(p.coord == s.coord && p.cl == c)) s fun s p =>
    s.netSend 1 p.coord ⟨4, s.coord, 0x10000 + HB, t.strandOf p, 0, 0, 0, 2, s.reg (Od.JOB_TENANT j), j, 0, 0, BitVec.ofNat 32 code,
      body, Carried.plain 8⟩

/-- A fragment whose place ends stops; its result is discarded (R391). -/
def State.stopFragment (s : State) (c : Nat) : State :=
  if (s.cluster c).pfRunning.isSome then
    (s.bump Od.FRAGMENTS_STOPPED 1).modCluster c fun k => { k with pfRunning := none }
  else s

/-- A cluster enters RESET (Table CL-5, R238): its objects ORPHANED, its jobs ended with `code`, SRAM and registers
cleared, sequences ended with ABORTED and sequencer lists empty (R70, R73); its transit is abandoned (R317). -/
def State.clusterReset (s : State) (c code cause source : Nat) : State :=
  let s := s.orphan (2 * c) |>.orphan (2 * c + 1)
  let js := ([2 * c, 2 * c + 1].map fun u => s.strandJob u).filter fun j => j ≠ 0
  let s := forAll js s fun s j =>
    let s := forAll (s.jobStrands j) s fun s u => s.orphan u
    (s.sendOrphans j c code).endJob j code cause source
  let s := (s.abandonTransit c).stopFragment c
  let s := s.clearSram c (fun _ => true) |>.clearTags c (fun _ => true)
  let s := forAll [2 * c, 2 * c + 1] s fun s u => s.setStrand u Strand.new
  let s := { s with arrays := s.arrays.map fun (e : Nat × ArrayU) => if e.1 / 34 = c then
      (e.1, { e.2 with seq := [], cmds := [], q0 := [], q1 := [], runs := [] }) else e }
  let s := forAll (List.range 34) s fun s a =>
    if s.reg (Od.SEQ_STATE (dieOf c) (34 * kOf c + a)) = 0 then s
    else (s.setReg (Od.SEQ_STATE (dieOf c) (34 * kOf c + a)) 0).setReg (Od.SEQ_STATUS (dieOf c) (34 * kOf c + a)) 1
  let s := s.modCluster c fun k => { k with dma0 := [], dma1 := [], nodes := [], lent := false, pcsr := [], wakeAt := none }
  s.setReg (csObj c) CS.RESET

/-- Firmware retires a cluster (R393, R415): both domains OFF and a CLUSTER_RETIRED record with its window. -/
def State.retireCluster (s : State) (c why start : Nat) : State :=
  (((s.setReg (csObj c) CS.RETIRED).setReg (Od.CL_COMPUTE_PWR (dieOf c) (kOf c)) 2).setReg
    (Od.CL_SRAM_PWR (dieOf c) (kOf c)) 2).clFault 9 c 0xFFFF why (leBytes 8 start ++ leBytes 8 s.now)

/-- A residue check fails on a lane (R134): counted, recorded, and the cluster reset and retired when
RESIDUE_RETIRE_COUNT fall within RESIDUE_WINDOW_TICKS (R393). -/
def State.residueFault (s : State) (u lane : Nat) : State :=
  let c := clOf u
  let s := (s.bump (clCnt c 3) 1).clFault 2 c lane (stOf u) []
  let s := { s with residueEvents := (c, stOf u, lane) :: s.residueEvents }
  let recent := s.now :: (s.cluster c).residues.filter fun t => s.now < t + s.reg Od.RESIDUE_WINDOW_TICKS
  let s := s.modCluster c fun k => { k with residues := recent }
  if s.reg Od.RESIDUE_RETIRE_COUNT ≤ recent.length then
    let r : Retire := ⟨2, recent.foldl Nat.min s.now⟩
    if s.reg (csObj c) = CS.RESET then s.modCluster c fun k => { k with retireAfterReset := some r }
    else (s.clusterReset c Code.ORPHANED Br.ORPHANED 0).modCluster c fun k => { k with retireAfterReset := some r }
  else s

/-! ## Results of object entries (R375, R378) -/

/-- What an object write makes: the state after it and its result entry. -/
abbrev Wr := State × Answer

/-- Done: STATUS 0000h. -/
def okW (s : State) : Wr := (s, ⟨0, 0xFF, []⟩)
/-- Refused with a code: nothing changes (R16). -/
def noW (s : State) (code : Nat) : Wr := (s, ⟨code, 0xFF, []⟩)
/-- Refused with WRONG_STATE and the current state (R16). -/
def badState (s : State) (st : Nat) : Wr := (s, ⟨Code.WRONG_STATE, st, []⟩)

/-- The next state in which the result entry stands as the answer. -/
def answered (r : Wr) : Out := .next { r.1 with answer := r.2 }

/-- The session number under which Zenith keeps its selectors (R460). -/
abbrev zenith : Nat := 4096

/-- The session acts for the operator (R373, R460). -/
def State.isOp (s : State) (n : Nat) : Bool := n == zenith || ((s.session n).isOpen && (s.session n).tenant.isNone)

/-- The session acts for the tenant, or for the operator. -/
def State.actsFor (s : State) (n t : Nat) : Bool :=
  s.isOp n || ((s.session n).isOpen && (s.session n).tenant == some t)

/-- Module states of Table OD-8. -/
abbrev MS.DISABLED : Nat := 0
abbrev MS.ENABLED : Nat := 1
abbrev MS.LEAVING : Nat := 2

/-- The module answers nothing: firmware has stopped (R396), or the module is latched off (R425) or held in reset (R454). -/
def State.silent (s : State) : Bool := s.fwStopped || s.bring.latched || !s.bring.mrstN || !s.bring.pwrgd

/-- Serial comparison of 32-bit numbers (R15): `a` lies below `b`, a value exactly 2^31 away included (R328). -/
def serialBelow (a b : Nat) : Bool :=
  let d := (b % 0x100000000 + 0x100000000 - a % 0x100000000) % 0x100000000
  decide (0 < d) && decide (d ≤ 0x80000000)

/-- A message leaves for the first time and waits for its acknowledgement (R329). -/
def Unacked.first (m : OutMsg) (now rto : Nat) : Unacked := ⟨m, now, rto, 0, false⟩

/-- A queued message at place `k` leaves, where the host's credit allows its SEQ (R330); it waits for its acknowledgement. -/
def State.transmit (s : State) (n k : Nat) : State :=
  let t := s.session n
  match t.txQueue[k]? with
  | none => s
  | some m =>
    if serialBelow m.seq t.hostCredit then
      (s.sendNow m).modSession n fun t => { t with
        txQueue := t.txQueue.eraseIdx k
        unacked := t.unacked ++ [Unacked.first m s.now (s.reg Od.RTO_MIN_TICKS)] }
    else s

/-- Every queued message of a session that the host's credit allows leaves in order. -/
def State.flush (s : State) (n : Nat) : State := forAll (s.session n).txQueue s fun s _ => s.transmit n 0

/-- The final records and the CLOSE that a foreseen reset owes every session, once its write is answered (R334). -/
def State.closeAll (s : State) : State :=
  match s.bring.closing with
  | none => s
  | some r =>
    forAll (s.sessions.map Prod.fst) { s with bring := { s.bring with closing := none } } fun s n => (s.flush n).endSession n (some r)

/-- Session `n` is heard: firmware runs, not in RESCUE (R458), the session is open; Zenith serves from step 7 of Table PK-5. -/
def State.hears (s : State) (n : Nat) : Bool :=
  !s.silent && !s.bring.rescue && (if n = zenith then decide (5 ≤ s.reg Od.BOOT_STAGE) else (s.session n).isOpen)

/-- ZENITH_MODE bars a command of Zenith whose least mode is `least` (Table PK-6). -/
def State.zenithBars (s : State) (n least : Nat) : Bool := n == zenith && decide (s.reg Od.ZENITH_MODE < least)

/-- A write of session `n`: it is heard, with the right `ok` (R373), by a module that is neither TRIPPED (R424) nor LEAVING
(Table OD-8). -/
def State.write (s : State) (n : Nat) (ok : Bool) (f : State → Wr) : Out :=
  if !s.hears n then .next s
  else if s.zenithBars n 2 then answered (noW s Code.LOCKED)
  else if !ok then answered (noW s Code.AUTH_FAIL)
  else if s.reg Od.THERMAL_STATE = 1 then answered (badState s 1)
  else if s.reg Od.MODULE_STATE = MS.LEAVING then answered (badState s MS.LEAVING)
  else
    let r := f s
    answered (r.1.closeAll, r.2)

end Sys2Proof.Machine
end

