-- ==== Sys2Proof/Machine/Operands.lean ====
section
/-!
DEFINITION. Operand forms: register reads and writes with poison tags, the address windows of Table IS-2 with the page
tag check, and the issue of an instruction (stop, stall, retire).
-/
namespace Sys2Proof.Machine

/-! ## Registers -/

/-- s0 reads as 0 (Table IS-1). -/
def Strand.s (t : Strand) (r : Reg) : PWord := if r = 0 then PWord.zero else Store.get PWord.zero t.sreg r.val

/-- s0 ignores writes (Table IS-1). -/
def Strand.setS (t : Strand) (r : Reg) (w : PWord) : Strand :=
  if r = 0 then t else { t with sreg := Store.set t.sreg r.val w }

def VReg.zero : VReg := Vector.replicate 256 PWord.zero

def Strand.v (t : Strand) (r : Nat) : VReg := Store.get VReg.zero t.vreg r
def Strand.setV (t : Strand) (r : Nat) (v : VReg) : Strand := { t with vreg := Store.set t.vreg r v }

/-- p0 reads as all ones (Table IS-1). -/
def Strand.p (t : Strand) (r : PReg) : PredReg :=
  if r = 0 then ⟨BitVec.allOnes 256, 0⟩ else Store.get ⟨0, 0⟩ t.preg r.val

/-- p0 ignores writes (Table IS-1). -/
def Strand.setP (t : Strand) (r : PReg) (p : PredReg) : Strand :=
  if r = 0 then t else { t with preg := Store.set t.preg r.val p }

/-- Bit `i` of a predicate. -/
def PredReg.bit (p : PredReg) (i : Nat) : Bool := p.bits.getLsbD i
/-- The tag of the predicate word that governs lane `i` (R148, Table IS-11). -/
def PredReg.tag (p : PredReg) (i : Nat) : Bool := p.poison.getLsbD (i / 32)

/-- The predicate with bit `i` as `f i` gives it and word tag `w` as `g w` gives it. -/
def PredReg.ofFn (f g : Nat → Bool) : PredReg :=
  ⟨BitVec.ofNat 256 ((List.range 256).foldl (fun a i => if f i then a + 2 ^ i else a) 0),
   BitVec.ofNat 8 ((List.range 8).foldl (fun a i => if g i then a + 2 ^ i else a) 0)⟩

/-- Sign extension of a 16-bit immediate (Table IS-5, sext). -/
def sext16 (x : BitVec 16) : Word := x.signExtend 32
def zext16 (x : BitVec 16) : Word := x.zeroExtend 32

/-! ## Slots and buffers -/

/-- The physical array number A that a strand's slot names: the bank of its last BATCH or STEP (R52, R272). -/
def State.slotArr (s : State) (u slot : Nat) : Nat :=
  let k := s.cluster (clOf u)
  Store.get slot (if (s.strand u).bank = 0 then k.slotMap0 else k.slotMap1) slot

/-- The module-wide number of the array that a strand's slot names. -/
def State.slotArray (s : State) (u slot : Nat) : Nat := 34 * clOf u + s.slotArr u slot

/-- The object of array `x` (module-wide number) at D+2xh (Tables AR-12, CV-10). -/
def arObj (idx sub x : Nat) : Obj := ⟨0x3000 + idx + 0x100 * (x / 3264), sub, x % 3264⟩

/-- ARRAY_STATE of array `x` (Table AR-9). -/
def State.arrState (s : State) (x : Nat) : Nat := s.reg (arObj 0x21 1 x)

/-- Whether the strand's image assigns the buffer to it: 0 IB0, 1 IB1, 2 RB0, 3 RB1 (R121, Table PC-3). -/
def Strand.owns (t : Strand) (slot buf : Nat) : Bool :=
  match Store.get? t.slots slot with
  | some x => x.own.testBit buf
  | none => false

/-- Whether the strand's image assigns the slot to it. -/
def Strand.hasSlot (t : Strand) (slot : Nat) : Bool := (Store.get? t.slots slot).isSome

/-! ## Address windows -/

/-- Where an offset of the address windows leads (Table IS-2): SRAM, or byte `off` of a buffer of a slot
(0 IB0, 1 IB1, 2 RB0, 3 RB1), or nowhere. -/
inductive Loc where
  | sram (off : Nat)
  | buf (slot b off : Nat)
  | none
  deriving DecidableEq, Repr

def locate (a : Nat) : Loc :=
  if a < 0x280000 then .sram a
  else if 0x400000 ≤ a ∧ a < 0x480000 then
    let o := (a - 0x400000) % 0x4000
    let slot := (a - 0x400000) / 0x4000
    if o < 0x1000 then .buf slot 2 o
    else if o < 0x2000 then .buf slot 3 (o - 0x1000)
    else if o < 0x3000 then (if o - 0x2000 < 1056 then .buf slot 0 (o - 0x2000) else .none)
    else if o - 0x3000 < 1056 then .buf slot 1 (o - 0x3000) else .none
  else .none

/-- The access check of an offset by a strand: the page tag (R125), or the image's assignment (R143). -/
def State.mayAccess (s : State) (u a : Nat) : Bool :=
  match locate a with
  | .sram o =>
    let t := s.page (clOf u) (o / 4096)
    t.valid && t.strand == stOf u && t.tenant == (s.strand u).tenant
  | .buf slot b _ => (s.strand u).owns slot b
  | .none => false

/-- The address of SRAM offset `o` of cluster `c` in the module's SRAM store. -/
def sramAt (c o : Nat) : Nat := 0x400000 * c + o
/-- The word of SRAM offset `o` of cluster `c`. -/
def wordAt (c o : Nat) : Nat := 0x100000 * c + o / 4

/-- Four bytes of SRAM as a word, least significant first (R11). -/
def State.sramWord (s : State) (c o : Nat) : Word :=
  s.sram.read (sramAt c o + 3) ++ s.sram.read (sramAt c o + 2) ++ s.sram.read (sramAt c o + 1) ++ s.sram.read (sramAt c o)

/-- One byte of SRAM, and its word's tag, without checks. -/
def State.sramByte (s : State) (c o : Nat) : Byte := s.sram.read (sramAt c o)
def State.sramTag (s : State) (c o : Nat) : Bool := s.sramPoison.mem (wordAt c o)

def Mem.write4 (m : Mem) (a : Nat) (w : Word) : Mem :=
  (((m.write a (w.extractLsb' 0 8)).write (a + 1) (w.extractLsb' 8 8)).write (a + 2) (w.extractLsb' 16 8)).write
    (a + 3) (w.extractLsb' 24 8)

/-- A store of one aligned SRAM word: fresh parity and the tag of the value (R123). -/
def State.putSram (s : State) (c o : Nat) (w : PWord) : State :=
  { s with
    sram := Mem.write4 s.sram (sramAt c o) w.val
    sramPoison := s.sramPoison.put (wordAt c o) w.poison
    sramParity := s.sramParity.remove (wordAt c o) }

/-- A page-tag mismatch (R125, R433): TAG_FAULTS, a TAG_FAULT record and its event to management. -/
def State.tagFault (s : State) (u a tenant : Nat) : State :=
  let c := clOf u
  let body := leBytes 2 (s.page c (a / 4096)).tenant ++ leBytes 2 tenant
  let s := (s.bump (clCnt c 6) 1).clFault 0x200 c (kOf c) a body
  s.event 0x20 .mgmt (match s.faults with | f :: _ => f.bytes | [] => [])

/-- A load of one SRAM word with its parity check (R123). -/
def State.loadSram (s : State) (ph : Phys) (c o : Nat) : State × PWord :=
  let w : PWord := ⟨s.sramWord c o, s.sramTag c o⟩
  let bad := s.sramParity.mem (wordAt c o) || ph.parity.any fun e => e.1 == o && !e.2
  if bad then
    let s := s.bump (clCnt c 2) 1
    ({ s with sramParity := s.sramParity.insert (wordAt c o) }, ⟨w.val, true⟩)
  else if ph.parity.any fun e => e.1 == o && e.2 then (s.bump (clCnt c 1) 1, w)
  else (s, w)

/-- Four bytes of an input buffer as a word. -/
def ArrayU.inWord (a : ArrayU) (ib o : Nat) : PWord :=
  let g (i : Nat) : Byte := Store.get 0 a.inBytes (0x1000 * ib + o + i)
  ⟨g 3 ++ g 2 ++ g 1 ++ g 0, a.inPoison.mem (0x400 * ib + o / 4)⟩

def ArrayU.putIn (a : ArrayU) (ib o : Nat) (w : PWord) : ArrayU :=
  let k := 0x1000 * ib + o
  { a with
    inBytes := Store.set (Store.set (Store.set (Store.set a.inBytes k (w.val.extractLsb' 0 8)) (k + 1)
      (w.val.extractLsb' 8 8)) (k + 2) (w.val.extractLsb' 16 8)) (k + 3) (w.val.extractLsb' 24 8)
    inPoison := a.inPoison.put (0x400 * ib + o / 4) w.poison }

/-- Result word `j` of result buffer `rb`. -/
def ArrayU.result (a : ArrayU) (rb j : Nat) : PWord := Store.get PWord.zero a.results (0x400 * rb + j)
def ArrayU.putResult (a : ArrayU) (rb j : Nat) (w : PWord) : ArrayU :=
  { a with results := Store.set a.results (0x400 * rb + j) w }

/-- A load of the word at an offset the access check passed. -/
def State.loadAt (s : State) (ph : Phys) (u a : Nat) : State × PWord :=
  match locate a with
  | .sram o => s.loadSram ph (clOf u) o
  | .buf slot b o =>
    let x := s.array (s.slotArray u slot)
    (s, if 2 ≤ b then x.result (b - 2) (o / 4) else x.inWord b o)
  | .none => (s, ⟨0, true⟩)

/-- A store of the word at an offset the access check passed. -/
def State.storeAt (s : State) (u a : Nat) (w : PWord) : State :=
  match locate a with
  | .sram o => s.putSram (clOf u) o w
  | .buf slot b o => s.modArray (s.slotArray u slot) fun x =>
      if 2 ≤ b then x.putResult (b - 2) (o / 4) w else x.putIn b o w
  | .none => s

/-- A checked load of one word: a mismatch returns a poisoned word (R125), of value 0 (log entry 114). -/
def State.loadWord (s : State) (ph : Phys) (u a : Nat) : State × PWord :=
  if s.mayAccess u a then s.loadAt ph u a
  else (s.tagFault u a (s.strand u).tenant, ⟨0, true⟩)

/-- A checked store of one word: a mismatch is discarded (R125). -/
def State.storeWord (s : State) (u a : Nat) (w : PWord) : State :=
  if s.mayAccess u a then s.storeAt u a w else s.tagFault u a (s.strand u).tenant

/-- Loads of `n` words from offset `a`: one access for each 4 KiB page it touches, so a mismatch counts once a page. A word that the
check refuses comes poisoned, its value 0 (log entry 114). -/
def State.loadWords (s : State) (ph : Phys) (u : Nat) : Nat → Nat → State × List PWord
  | 0, _ => (s, [])
  | n + 1, a =>
    let r := if s.mayAccess u a then s.loadAt ph u a else (s, ⟨0, true⟩)
    let t := State.loadWords r.1 ph u n (a + 4)
    (t.1, r.2 :: t.2)

/-- Stores of words from offset `a`; words that the check refuses are discarded. -/
def State.storeWords (s : State) (u : Nat) : Nat → List PWord → State
  | _, [] => s
  | a, w :: t => State.storeWords (if s.mayAccess u a then s.storeAt u a w else s) u (a + 4) t

/-- The pages of `n` bytes from `a` at which the access check fails: one offset for each (R125). -/
def State.badPages (s : State) (u a n : Nat) : List Nat :=
  let last := if n = 0 then a else a + n - 1
  ((List.range (last / 4096 + 1 - a / 4096)).filterMap fun i =>
    let lo := Nat.max a ((a / 4096 + i) * 4096)
    let hi := Nat.min last ((a / 4096 + i) * 4096 + 4095)
    let bad := if s.mayAccess u lo then (if s.mayAccess u hi then none else some hi) else some lo
    bad).take (if n = 0 then 0 else 4096)

/-- TAG_FAULTS and its record for every refused page of an access. -/
def State.tagFaults (s : State) (u a n : Nat) : State :=
  forAll (s.badPages u a n) s fun s o => s.tagFault u o (s.strand u).tenant

/-- A checked load of `n` words. -/
def State.loadRange (s : State) (ph : Phys) (u a n : Nat) : State × List PWord :=
  (s.tagFaults u a (4 * n)).loadWords ph u n a

/-- A checked store of words. -/
def State.storeRange (s : State) (u a : Nat) (ws : List PWord) : State :=
  (s.tagFaults u a (4 * ws.length)).storeWords u a ws

/-! ## Runs of bytes -/

end Sys2Proof.Machine

/-- The bytes of a word with the word's tag, least significant first (R11). -/
def Sys2Proof.PWord.bytes (w : PWord) : List (Byte × Bool) :=
  [(w.val.extractLsb' 0 8, w.poison), (w.val.extractLsb' 8 8, w.poison), (w.val.extractLsb' 16 8, w.poison),
   (w.val.extractLsb' 24 8, w.poison)]

namespace Sys2Proof.Machine

/-- The words that `n` bytes from `a` touch: none for no byte. -/
def wordSpan (a n : Nat) : Nat := if n = 0 then 0 else (a + n + 3) / 4 - a / 4

/-- A load of `n` bytes from offset `a`, each with its word's tag. -/
def State.loadBytes (s : State) (ph : Phys) (u a n : Nat) : State × List (Byte × Bool) :=
  let b := a / 4 * 4
  let r := s.loadRange ph u b (wordSpan a n)
  (r.1, ((r.2.flatMap PWord.bytes).drop (a - b)).take n)

/-- The word at an offset as it stands, without a check. -/
def State.peek (s : State) (u a : Nat) : PWord :=
  match locate a with
  | .sram o => ⟨s.sramWord (clOf u) o, s.sramTag (clOf u) o⟩
  | .buf slot b o =>
    let x := s.array (s.slotArray u slot)
    if 2 ≤ b then x.result (b - 2) (o / 4) else x.inWord b o
  | .none => ⟨0, true⟩

/-- The words that a run of bytes from offset `a` makes of the words it touches: a byte that the run does not cover
keeps its value, and a word is tagged where a covering byte, or a byte it keeps, is. -/
def State.mergeBytes (s : State) (u a : Nat) (bs : List (Byte × Bool)) : List PWord :=
  let b := a / 4 * 4
  (List.range (wordSpan a bs.length)).map fun i =>
    let old := (s.peek u (b + 4 * i)).bytes
    let g (k : Nat) : Byte × Bool :=
      if b + 4 * i + k < a then old.getD k (0, false)
      else match bs[b + 4 * i + k - a]? with
        | some x => x
        | none => old.getD k (0, false)
    ⟨(g 3).1 ++ (g 2).1 ++ (g 1).1 ++ (g 0).1, (g 0).2 || (g 1).2 || (g 2).2 || (g 3).2⟩

/-- A store of bytes from offset `a`. -/
def State.storeBytes (s : State) (u a : Nat) (bs : List (Byte × Bool)) : State :=
  s.storeRange u (a / 4 * 4) (s.mergeBytes u a bs)

/-! ## Buffers in use by array commands -/

/-- Whether a result of a command in the queue or run of the strand that names result buffer `rb` is not yet visible
(R121). -/
def ArrayU.resultPending (a : ArrayU) (rb : Nat) : Bool :=
  (a.cmds ++ a.q0 ++ a.q1).any (fun c => c.kind ≤ 1 && c.rb == rb) || a.runs.any fun r => r.cmd.rb == rb

/-- Whether a queued command that names input buffer `ib` has not started (R120). -/
def ArrayU.inputPending (a : ArrayU) (ib : Nat) : Bool := (a.cmds ++ a.q0 ++ a.q1).any fun c => c.kind ≤ 2 && c.ib == ib

/-- The slot whose buffer an access must wait for (R120, R121, R143): a result not visible, or an input not captured. -/
def State.bufferWait (s : State) (u a : Nat) (store : Bool) : Option Nat :=
  match locate a with
  | .buf slot b _ =>
    let x := s.array (s.slotArray u slot)
    if 2 ≤ b then (if x.resultPending (b - 2) then some slot else none)
    else if store && x.inputPending b then some slot else none
  | _ => none

/-! ## Hold requests -/

/-- A request raised on a job's hold line (R214, R215), a HOLD message to HB where a strand raises it; a replay's in a hold waits for its
end (Table NF-5). -/
def State.request (s : State) (j : Nat) (src : Option Nat) (cause : Nat) (span : Option Nat) : State :=
  let s := match src with
    | some u => s.vc1Flit j (endOf u) (HB, 100)
    | none => s
  s.modJob j fun t => { t with reqs := t.reqs ++ [⟨src, cause, span, s.now, none, cause == 4 && t.holdStart.isSome⟩] }

/-- The open requests of a strand are withdrawn in this tick (R159, R215). -/
def State.withdraw (s : State) (j : Nat) (src : Option Nat) : State :=
  s.modJob j fun t => { t with reqs := t.reqs.map fun r =>
    if r.src = src ∧ r.span = none ∧ r.withdrawn = none then { r with withdrawn := some s.now } else r }

/-! ## Issue -/

/-- The strand's state and its clocks let it issue: RUNNING, or a step in DEBUG (Table CL-6, R163), no drain (R408, Table PW-6),
and its die's clocks not gated by a relock (R410). -/
def State.canRun (s : State) (u : Nat) : Bool :=
  (s.strandState u == SS.RUNNING || (s.strandState u == SS.DEBUG && (s.strand u).stepping)) && !s.draining &&
    s.reg (Od.DIE_OPP (dieOf (clOf u))) != 0xFF

/-- A request of the strand itself stops it from the clock it is raised in to the end of the hold (R215); a step in DEBUG it does
not (R163). -/
def State.requested (s : State) (u : Nat) : Bool :=
  s.strandState u != SS.DEBUG && (s.job (s.strandJob u)).reqs.any fun r => r.src == some u

/-- The strand may issue: it can run, no request of its own, not stalled at a wait (R116), no test gap open (R160), no replay due
(R95). -/
def State.mayIssue (s : State) (u : Nat) : Bool :=
  s.canRun u && !s.requested u &&
  (match (s.strand u).stall with
    | some (.sync _ _ _ _) => false
    | some (.arrive _ _) => false
    | some (.tick _) => false
    | _ => true) &&
  (match (s.strand u).gap with | some _ => false | none => true) &&
  (match (s.strand u).replay with | some _ => false | none => true)

/-- A lend of the cluster's allowance ends when a strand issues (R237); idle ticks start again. -/
def State.endLend (s : State) (c : Nat) : State :=
  s.modCluster c fun k => { k with lent := false, idleFrom := s.ticks, restFrom := s.ticks }

/-- What the circuit meets at the issue (R115, R122, R146, R166): refetch, bank conflicts, deferrals, stalls. -/
def State.circuit (s : State) (i : Issue) : State :=
  let c := i.u.cl.num
  let s := if i.ph.fetch = .clean then s else s.bump (isaCnt c 1) 1
  let s := if i.ph.conflicts = 0 then s else s.bump (clCnt c 4) i.ph.conflicts
  let s := if i.u.st = 0 then (if i.ph.stalls = 0 then s else s.bump (clCnt c 8) i.ph.stalls)
    else if i.ph.deferrals = 0 then s else s.bump (clCnt c 5) i.ph.deferrals
  s.endLend c

/-- The next instruction is on time when it issues now (R159, R213): no deadline, or in tick D, in the first clock of D + 1 or in the
clock of its DLN; a deadline whose request is raised, and one passed in DEBUG (R163), asks for nothing more. -/
def State.onTime (s : State) (u clk : Nat) : Bool :=
  let t := s.strand u
  match t.deadline with
  | none => true
  | some d => t.late || s.strandState u == SS.DEBUG || decide (s.jobTime u ≤ d + s.grace) ||
      (s.jobTime u == d + s.grace + 1 && clk == 0) || t.dlnAt == (s.now, clk)

/-- A deadline is missed: an open request, and DLN_HOLDS counts (R159, R214). -/
def State.missed (s : State) (u : Nat) : State :=
  ((s.bump (isaCnt (clOf u) 3) 1).request (s.strandJob u) (some u) 1 none).modStrand u fun t => { t with late := true }

/-- The deadline of a strand has passed in job time with no request raised. -/
def State.overdue (s : State) (u : Nat) : Bool :=
  match (s.strand u).deadline with
  | some d => !(s.strand u).late && decide (d + s.grace < s.jobTime u)
  | none => false

/-- The instruction has issued: the deadline is met, an earlier stall is over, and the program counter goes to `pc`
(R142). -/
def State.retireTo (s : State) (u pc : Nat) : State :=
  let s := if (s.strand u).stall = none ∧ (s.strand u).deadline = none then s else s.withdraw (s.strandJob u) (some u)
  s.modStrand u fun t => { t with pc := pc % 8192, deadline := none, late := false, stall := none, idleOffered := false, stepping := false }

/-- The program counter advances by one word. -/
def State.retire (s : State) (i : Issue) : State :=
  s.retireTo i.u.num ((s.strand i.u.num).pc + 1)

/-- The instruction would stall at what it waits for. -/
def State.stalls (s : State) (u : Nat) : Bool := (s.strand u).stall.isSome

/-- An instruction reaches issue after its deadline (R159, R215): the strand raises a request, which is withdrawn at once where the
instruction itself could issue; it issues when the hold ends. -/
def State.miss (s : State) (i : Issue) (act : State → State) : State :=
  let u := i.u.num
  let r := s.missed u
  let t := act (r.circuit i)
  if t.stalls u then t else r.withdraw (r.strandJob u) (some u)

/-- An instruction reaches issue in a hold that its own missed deadline asked for: where it could issue now, the request is withdrawn
(R215). -/
def State.reach (s : State) (i : Issue) (act : State → State) : State :=
  let u := i.u.num
  let t := s.strand u
  if t.late ∧ t.stall = none ∧ t.gap = none ∧ t.replay = none ∧ (act (s.circuit i)).stalls u = false then
    s.withdraw (s.strandJob u) (some u)
  else s

/-- The issue of an instruction: nothing where the strand may not issue; the stop of R146 where the fetch fails twice; a hold request
where its deadline has passed (R159); else the effect `act`. -/
def issue (i : Issue) (s : State) (act : State → State) : Out :=
  if s.mayIssue i.u.num then
    if i.ph.fetch = .failed then
      .next (((s.circuit i).clFault 0xB i.u.cl.num (s.strand i.u.num).pc i.u.st.val []).strandStop i.u.num)
    else if s.onTime i.u.num i.ph.clk.val then .next (act (s.circuit i))
    else .next (s.miss i act)
  else .next (s.reach i act)

/-- As `issue`, for an instruction with control operands: a poisoned one stops the strand (R135, R164), before a fetch failure counts
(R165). -/
def issueCtl (i : Issue) (s : State) (ctl : State → List PWord) (act : State → State) : Out :=
  if s.mayIssue i.u.num && (ctl s).any (·.poison) then .next ((s.circuit i).strandStop i.u.num) else issue i s act

/-- The issue of an instruction that stalled at a wait whose condition is met (R229). -/
def issueMet (i : Issue) (s : State) (act : State → State) : Out :=
  if s.onTime i.u.num i.ph.clk.val then .next (act (s.endLend i.u.cl.num))
  else .next ((s.missed i.u.num).withdraw (s.strandJob i.u.num) (some i.u.num))

/-- The strand stalls at its instruction: the program counter stays (R116). A full unit queue and a full ceiling raise an
open hold request at once, the first counted in DLN_HOLDS (R41, R159, R166, R214); so does a deadline that has passed. -/
def State.stallAt (s : State) (u : Nat) (w : Stall) (cause : Option Nat) : State :=
  let s := if s.strandState u = SS.DEBUG then s else
    let s := match cause with
      | some c =>
        if (s.strand u).stall = some w then s
        else (if c = 2 then s.bump (isaCnt (clOf u) 3) 1 else s).request (s.strandJob u) (some u) c none
      | none => s
    if s.overdue u then s.missed u else s
  s.modStrand u fun t => { t with stall := some w, stallSince := s.now }

end Sys2Proof.Machine
end

