-- ==== Sys2Proof/Machine/Flags.lean ====
section
/-!
DEFINITION. The block has no condition flags. In their place stand the predicates and the poison tags: how a predicate
merges a vector result (R148) and how poison spreads over lanes (Table IS-11), written once.
-/
namespace Sys2Proof.Machine

/-- A vector result merged under a predicate: a lane whose bit is 1 takes `f`, a lane whose bit is 0 keeps its word; a
poisoned predicate word tags each of its 32 lanes (R148, Table IS-11). -/
def mergeV (old : VReg) (p : PredReg) (f : Nat → PWord) : VReg :=
  Vector.ofFn fun i =>
    let w := if p.bit i.val then f i.val else old[i]
    ⟨w.val, w.poison || p.tag i.val⟩

/-- Lane `i` of a register. -/
def lane (v : VReg) (i : Nat) : PWord := v.getD i PWord.zero

/-- A predicate result merged under pPR: bit i from `f` where pPR's bit is 1; a word is tagged where `g` or pPR's word
is (R148, Table IS-11). -/
def mergeP (old p : PredReg) (f : Nat → Bool) (g : Nat → Bool) : PredReg :=
  PredReg.ofFn (fun i => if p.bit i then f i else old.bit i) fun w =>
    g w || p.poison.getLsbD w || (old.poison.getLsbD w && !(List.range 32).all fun b => p.bit (32 * w + b))

/-- The lanes that a predicate makes active. -/
def PredReg.active (p : PredReg) : List Nat := (List.range 256).filter fun i => p.bit i

/-- The residue check fails on lanes of a multiply-add result: each is tagged, counted and reported (R134). -/
def State.residues (s : State) (i : Issue) (vd : Nat) (p : PredReg) : State :=
  let ls := i.ph.residue.filter fun l => l < 256 && p.bit l
  if ls = [] then s
  else
    let s := s.modStrand i.u.num fun t => t.setV vd (Vector.ofFn fun l =>
      ⟨(t.v vd)[l].val, (t.v vd)[l].poison || ls.contains l.val⟩)
    forAll ls s fun s l => s.residueFault i.u.num l

end Sys2Proof.Machine
end

