-- ==== Sys2Proof/Machine/Scalar.lean ====
section
/-!
DEFINITION. The scalar instructions of Table IS-5 (R149): arithmetic, shifts, compares, immediates, loads and stores of
scalar words, system values. A poisoned source poisons the destination (Table IS-11).
-/
namespace Sys2Proof.Machine

/-- `f` of two words; poisoned where either is (Table IS-11). -/
def PWord.map2 (f : Word → Word → Word) (a b : PWord) : PWord := ⟨f a.val b.val, a.poison || b.poison⟩
def PWord.map (f : Word → Word) (a : PWord) : PWord := ⟨f a.val, a.poison⟩

/-- A scalar destination is written and the strand advances. -/
def State.writeS (s : State) (i : Issue) (rd : Reg) (w : PWord) : State :=
  (s.modStrand i.u.num fun t => t.setS rd w).retire i

/-- sRD = sRA op sRB. -/
def scalarRR (f : Word → Word → Word) (i : Issue) (rd ra rb : Reg) (s : State) : Out :=
  issue i s fun s => s.writeS i rd (PWord.map2 f ((s.strand i.u.num).s ra) ((s.strand i.u.num).s rb))

/-- sRD = op sRA. -/
def scalarR (f : Word → Word) (i : Issue) (rd ra : Reg) (s : State) : Out :=
  issue i s fun s => s.writeS i rd (PWord.map f ((s.strand i.u.num).s ra))

def bool32 (b : Bool) : Word := if b then 1 else 0
/-- Shifts by the low five bits of the second operand (Table IS-5). -/
def shlW (a b : Word) : Word := a <<< (b.toNat % 32)
def shrW (a b : Word) : Word := a >>> (b.toNat % 32)
def sraW (a b : Word) : Word := a.sshiftRight (b.toNat % 32)
def minW (a b : Word) : Word := if a.slt b then a else b
def maxW (a b : Word) : Word := if a.slt b then b else a

def execAdd (i : Issue) (rd ra rb : Reg) (s : State) : Out := scalarRR (fun a b => a + b) i rd ra rb s
def execSub (i : Issue) (rd ra rb : Reg) (s : State) : Out := scalarRR (fun a b => a - b) i rd ra rb s
def execAnd (i : Issue) (rd ra rb : Reg) (s : State) : Out := scalarRR (fun a b => a &&& b) i rd ra rb s
def execOr (i : Issue) (rd ra rb : Reg) (s : State) : Out := scalarRR (fun a b => a ||| b) i rd ra rb s
def execXor (i : Issue) (rd ra rb : Reg) (s : State) : Out := scalarRR (fun a b => a ^^^ b) i rd ra rb s
def execShl (i : Issue) (rd ra rb : Reg) (s : State) : Out := scalarRR (shlW) i rd ra rb s
def execShr (i : Issue) (rd ra rb : Reg) (s : State) : Out := scalarRR (shrW) i rd ra rb s
def execSra (i : Issue) (rd ra rb : Reg) (s : State) : Out := scalarRR (sraW) i rd ra rb s
def execMul (i : Issue) (rd ra rb : Reg) (s : State) : Out := scalarRR (fun a b => a * b) i rd ra rb s
def execSlt (i : Issue) (rd ra rb : Reg) (s : State) : Out := scalarRR (fun a b => bool32 (a.slt b)) i rd ra rb s
def execSltu (i : Issue) (rd ra rb : Reg) (s : State) : Out := scalarRR (fun a b => bool32 (a.ult b)) i rd ra rb s
def execMin (i : Issue) (rd ra rb : Reg) (s : State) : Out := scalarRR (minW) i rd ra rb s
def execMax (i : Issue) (rd ra rb : Reg) (s : State) : Out := scalarRR (maxW) i rd ra rb s

def execAddi (i : Issue) (rd ra : Reg) (imm : BitVec 16) (s : State) : Out := scalarR (fun a => a + sext16 imm) i rd ra s
def execAndi (i : Issue) (rd ra : Reg) (imm : BitVec 16) (s : State) : Out := scalarR (fun a => a &&& zext16 imm) i rd ra s
def execOri (i : Issue) (rd ra : Reg) (imm : BitVec 16) (s : State) : Out := scalarR (fun a => a ||| zext16 imm) i rd ra s
def execXori (i : Issue) (rd ra : Reg) (imm : BitVec 16) (s : State) : Out := scalarR (fun a => a ^^^ zext16 imm) i rd ra s
def execSlti (i : Issue) (rd ra : Reg) (imm : BitVec 16) (s : State) : Out := scalarR (fun a => bool32 (a.slt (sext16 imm))) i rd ra s
def execShiShl (i : Issue) (rd ra : Reg) (sh : BitVec 5) (s : State) : Out := scalarR (fun a => shlW a (sh.zeroExtend 32)) i rd ra s
def execShiShr (i : Issue) (rd ra : Reg) (sh : BitVec 5) (s : State) : Out := scalarR (fun a => shrW a (sh.zeroExtend 32)) i rd ra s
def execShiSra (i : Issue) (rd ra : Reg) (sh : BitVec 5) (s : State) : Out := scalarR (fun a => sraW a (sh.zeroExtend 32)) i rd ra s

/-- NOP does nothing but advance. -/
def execNop (i : Issue) (s : State) : Out := issue i s fun s => s.retire i

/-- LUI: sRD = IMM << 16. -/
def execLui (i : Issue) (rd : Reg) (imm : BitVec 16) (s : State) : Out :=
  issue i s fun s => s.writeS i rd ⟨imm ++ 0#16, false⟩

/-- The offset sRA + sext(IMM) with bits [1:0] ignored (R143). -/
def scalarAddr (t : Strand) (ra : Reg) (imm : BitVec 16) : Nat := ((t.s ra).val + sext16 imm).toNat / 4 * 4

/-- LDS: sRD = the word at the offset, with its tag. -/
def execLds (i : Issue) (rd ra : Reg) (imm : BitVec 16) (s : State) : Out :=
  issueCtl i s (fun s => [(s.strand i.u.num).s ra]) fun s =>
    let a := scalarAddr (s.strand i.u.num) ra imm
    match s.bufferWait i.u.num a false with
    | some slot => s.stallAt i.u.num (.buffer [slot]) none
    | none =>
      let r := s.loadWord i.ph i.u.num a
      r.1.writeS i rd r.2

/-- STS: the word at the offset = sRD, with its poison tag. -/
def execSts (i : Issue) (rd ra : Reg) (imm : BitVec 16) (s : State) : Out :=
  issueCtl i s (fun s => [(s.strand i.u.num).s ra]) fun s =>
    let a := scalarAddr (s.strand i.u.num) ra imm
    match s.bufferWait i.u.num a true with
    | some slot => s.stallAt i.u.num (.buffer [slot]) none
    | none => (s.storeWord i.u.num a ((s.strand i.u.num).s rd)).retire i

/-- The system value of Table IS-6, none for a reserved number. -/
def State.sysValue (s : State) (u : StrandId) (n : Nat) : Option Word :=
  if n = 0 then some (BitVec.ofNat 32 u.st.val)
  else if n = 1 then some (BitVec.ofNat 32 (s.strand u.num).rank)
  else if n = 2 then some (BitVec.ofNat 32 (s.strand u.num).ncl)
  else if n = 3 then some (BitVec.ofNat 32 u.cl.die.val)
  else if n = 4 then some (BitVec.ofNat 32 u.cl.k.val)
  else if n = 5 then some (BitVec.ofNat 32 (s.strand u.num).coord)
  else if 16 ≤ n ∧ n < 32 then some (Store.get 0 (s.strand u.num).params (n - 16))
  else none

/-- SYSR: sRD = system value; a reserved number is an illegal encoding (Table IS-6, R145). -/
def execSysr (i : Issue) (rd : Reg) (imm : BitVec 16) (s : State) : Out :=
  if imm.toNat ≤ 5 ∨ (16 ≤ imm.toNat ∧ imm.toNat < 32) then
    issue i s fun s => s.writeS i rd ⟨(s.sysValue i.u imm.toNat).getD 0, false⟩
  else .refused .illegalEncoding

end Sys2Proof.Machine
end

