-- ==== Sys2Proof/Machine/Vector.lean ====
section
/-!
DEFINITION. The vector and predicate instructions of Table IS-5 (R86, R147 to R150, R467): lane arithmetic, logic,
reductions, compares, conversions, moves, loads and stores.
-/
namespace Sys2Proof.Machine

/-- A lane result is merged into vVD under pPR, the residue check applies where `chk`, and the strand advances. -/
def State.writeV (s : State) (i : Issue) (vd : Reg) (pr : PReg) (chk : Bool) (f : Nat → PWord) : State :=
  let t := s.strand i.u.num
  let s := s.modStrand i.u.num fun t => t.setV vd.val (mergeV (t.v vd.val) (t.p pr) f)
  let s := s.retire i
  if chk then s.residues i vd.val (t.p pr) else s

/-- A lane operation on vVA and vVB. -/
def vec2 (legal : VFmt → Bool) (chk : Bool) (f : VFmt → Word → Word → Word) (i : Issue) (o : VOps) (s : State) : Out :=
  if legal o.fmt then
    issue i s fun s =>
      let t := s.strand i.u.num
      s.writeV i o.vd o.pr chk fun l =>
        let a := lane (t.v o.va.val) l
        let b := lane (t.v o.vb.val) l
        ⟨f o.fmt a.val b.val, a.poison || b.poison⟩
  else .refused .illegalEncoding

/-- A lane operation on vVA; VB is 0. -/
def vec1 (legal : VFmt → Bool) (chk : Bool) (f : VFmt → Nat → Word → Word) (i : Issue) (o : VOps) (s : State) : Out :=
  if legal o.fmt && o.vb == 0 then
    issue i s fun s =>
      let t := s.strand i.u.num
      ((s.spend 256).writeV i o.vd o.pr chk fun l =>
        let a := lane (t.v o.va.val) l
        ⟨f o.fmt (s.freeN + l) a.val, a.poison⟩)
  else .refused .illegalEncoding

def not8 (f : VFmt) : Bool := !f.is8
def int32Only (f : VFmt) : Bool := f == .int32
def anyFmt (_ : VFmt) : Bool := true

/-- A floating lane rounded once to FP32, or an INT32 lane (R85, R86, R150). -/
def lane2op (g : FV → FV → FV) (gi : Word → Word → Word) (f : VFmt) (a b : Word) : Word :=
  if f.isInt then gi a b else (g (lane1 f a) (lane1 f b)).to32

def addLane : VFmt → Word → Word → Word := lane2op FV.add fun a b => a + b
def subLane : VFmt → Word → Word → Word := lane2op (fun a b => a.add b.neg) fun a b => a - b
def maxLane : VFmt → Word → Word → Word := lane2op FV.max maxW
def minLane : VFmt → Word → Word → Word := lane2op FV.min minW

/-- The sum of the products of a lane: one at 16 and 32 bits, two at 8 bits (R86). -/
def products (f : VFmt) (a b : Word) : FV :=
  if f.is8 then ((lane1 f a).mul (lane1 f b)).add ((lane2 f a).mul (lane2 f b)) else (lane1 f a).mul (lane1 f b)

/-- The integer products of a lane. -/
def productsI (f : VFmt) (a b : Word) : Word :=
  match f with
  | .int32 => a * b
  | _ => BitVec.ofInt 32 ((lane1 f a).toIntRne * (lane1 f b).toIntRne + (lane2 f a).toIntRne * (lane2 f b).toIntRne)

def mulLane (f : VFmt) (a b : Word) : Word := if f.isInt then productsI f a b else (products f a b).to32

/-- a × b + c with c and the result in FP32, or INT32, rounded once (R86). -/
def fmaLane (f : VFmt) (a b c : Word) : Word :=
  if f.isInt then productsI f a b + c else ((products f a b).add (ofFp32 c)).to32

def execVadd (i : Issue) (o : VOps) (s : State) : Out := vec2 not8 true addLane i o s
def execVsub (i : Issue) (o : VOps) (s : State) : Out := vec2 not8 true subLane i o s
def execVmul (i : Issue) (o : VOps) (s : State) : Out := vec2 anyFmt true mulLane i o s
def execVmax (i : Issue) (o : VOps) (s : State) : Out := vec2 not8 false maxLane i o s
def execVmin (i : Issue) (o : VOps) (s : State) : Out := vec2 not8 false minLane i o s

/-- VFMA: vVD = vVA × vVB + vVD. -/
def execVfma (i : Issue) (o : VOps) (s : State) : Out :=
  issue i s fun s =>
    let t := s.strand i.u.num
    s.writeV i o.vd o.pr true fun l =>
      let a := lane (t.v o.va.val) l
      let b := lane (t.v o.vb.val) l
      let c := lane (t.v o.vd.val) l
      ⟨fmaLane o.fmt a.val b.val c.val, a.poison || b.poison || c.poison⟩

def execVand (i : Issue) (o : VOps) (s : State) : Out := vec2 int32Only false (fun _ a b => a &&& b) i o s
def execVor (i : Issue) (o : VOps) (s : State) : Out := vec2 int32Only false (fun _ a b => a ||| b) i o s
def execVxor (i : Issue) (o : VOps) (s : State) : Out := vec2 int32Only false (fun _ a b => a ^^^ b) i o s
def execVshl (i : Issue) (o : VOps) (s : State) : Out := vec2 int32Only false (fun _ a b => shlW a b) i o s
def execVshr (i : Issue) (o : VOps) (s : State) : Out := vec2 int32Only false (fun _ a b => shrW a b) i o s

/-- |x|; the spec states no INT32 value for −2^31, which is free (log entry 13). -/
def absLane (f : VFmt) (n : Nat) (a : Word) : Word :=
  if f.isInt then (if a = 0x80000000 then Config.freeWord n else if a.msb then -a else a) else (lane1 f a).abs.to32
/-- −x; INT32 as 0 − x modulo 2^32 (R86, log entry 13). -/
def negLane (f : VFmt) (_ : Nat) (a : Word) : Word := if f.isInt then -a else (lane1 f a).neg.to32

def execVabs (i : Issue) (o : VOps) (s : State) : Out := vec1 not8 false absLane i o s
def execVneg (i : Issue) (o : VOps) (s : State) : Out := vec1 not8 false negLane i o s

/-- VSEL: on every lane the selector's stored bit picks vVA or vVB; a poisoned selector word tags its 32 lanes
(Table IS-11). -/
def execVsel (i : Issue) (o : VOps) (s : State) : Out :=
  issue i s fun s =>
    let t := s.strand i.u.num
    let p := t.p o.pr
    s.writeV i o.vd 0 false fun l =>
      let w := if p.bit l then lane (t.v o.va.val) l else lane (t.v o.vb.val) l
      ⟨w.val, w.poison || p.tag l⟩

/-! ## Reductions -/

/-- The magnitude m · 2^e with the zero bits below its lowest one taken off, `k` at most. -/
def lowestUnit : Nat → Nat → Int → Nat × Int
  | 0, m, e => (m, e)
  | k + 1, m, e => if m % 2 = 0 ∧ m ≠ 0 then lowestUnit k (m / 2) (e + 1) else (m, e)

/-- The unit of a value's lowest bit; 127 for zero. -/
def FV.unit : FV → Int
  | .fin _ m e => if m = 0 then 127 else (lowestUnit 32 m e).2
  | _ => 127

/-- The sum of the magnitudes of finite values in units of 2^l. -/
def magSum (l : Int) (vs : List FV) : Nat :=
  vs.foldl (fun a v => match v with
    | .fin _ m e => a + (if m = 0 then 0 else if l ≤ e then m * 2 ^ (e - l).toNat else m / 2 ^ (l - e).toNat)
    | _ => a) 0

/-- The sum of three or more values that no order of additions can change: a NaN or infinities of both signs give NaN, infinities of one
sign that sign where no finite part can overflow, and finite values their sum where every partial sum is exact. None where the order
matters. -/
def orderless (vs : List FV) : Option FV :=
  let fin := vs.filter FV.isFinite
  let l := fin.foldl (fun a v => min a v.unit) 127
  let total := magSum l fin
  if vs.any FV.isNan || (vs.contains (.inf false) && vs.contains (.inf true)) then some .nan
  else if vs.contains (.inf false) || vs.contains (.inf true) then
    (if total = 0 ∨ (Nat.log2 total : Int) + l < 127 then some (.inf (vs.contains (.inf true))) else none)
  else if total < 2 ^ 24 ∧ (-126 ≤ l) ∧ (total = 0 ∨ (Nat.log2 total : Int) + l < 127) then
    some (match vs with
      | [] => .fin false 0 0
      | v :: t => t.foldl FV.add v)
  else none

/-- The FP32 sum over active lanes: +0 for none, the value for one, the rounded sum for two, and a sum that no order of additions
changes. Else the fixed lane tree (R109), whose order is open, decides (log entry 11). -/
def sumF (ls : List (Nat × Word)) : Word :=
  let vs := ls.map fun e => ofFp32 e.2
  match vs with
  | [] => 0
  | [a] => a.to32
  | [a, b] => (a.add b).to32
  | _ => match orderless vs with
    | some v => v.to32
    | none => Config.laneSum ls

/-- The reductions of Table IS-5 over the active lanes' words (R148, R150). -/
def redSum (f : VFmt) (ls : List (Nat × Word)) : Word :=
  if f.isInt then (ls.map Prod.snd).foldl (· + ·) 0 else sumF ls
def redMax (f : VFmt) (ls : List (Nat × Word)) : Word :=
  if f.isInt then (ls.map Prod.snd).foldl maxW 0x80000000
  else ((ls.map fun (e : Nat × Word) => ofFp32 e.2).foldl FV.max (.inf true)).to32
def redMin (f : VFmt) (ls : List (Nat × Word)) : Word :=
  if f.isInt then (ls.map Prod.snd).foldl minW 0x7FFFFFFF
  else ((ls.map fun (e : Nat × Word) => ofFp32 e.2).foldl FV.min (.inf false)).to32

/-- Whether lane `b` beats the best lane `a` so far: a NaN beats every number, a larger value beats a smaller one. -/
def argBeats (f : VFmt) (a b : Word) : Bool :=
  if f.isInt then a.slt b
  else if (ofFp32 a).isNan then false
  else (ofFp32 b).isNan || (ofFp32 a).below (ofFp32 b)

def redArg (f : VFmt) (ls : List (Nat × Word)) : Word :=
  match ls with
  | [] => 0xFFFFFFFF
  | e :: t => BitVec.ofNat 32 (t.foldl (fun a b => if argBeats f a.2 b.2 then b else a) e).1

/-- A reduction over the active lanes of vVA, broadcast to every lane of vVD; any poisoned lane or mask word poisons
every lane (Table IS-11). -/
def reduce (f : VFmt → List (Nat × Word) → Word) (i : Issue) (o : VOps) (s : State) : Out :=
  if o.fmt = .fp32 ∨ o.fmt = .int32 then
    issue i s fun s =>
      let t := s.strand i.u.num
      let p := t.p o.pr
      let ls := p.active
      let w : PWord := ⟨f o.fmt (ls.map fun l => (l, (lane (t.v o.va.val) l).val)),
        p.poison != 0 || ls.any fun l => (lane (t.v o.va.val) l).poison⟩
      s.writeV i o.vd 0 false fun _ => w
  else .refused .illegalEncoding

def execVrsum (i : Issue) (o : VOps) (s : State) : Out := reduce redSum i o s
def execVrmax (i : Issue) (o : VOps) (s : State) : Out := reduce redMax i o s
def execVrmin (i : Issue) (o : VOps) (s : State) : Out := reduce redMin i o s
def execVrargmax (i : Issue) (o : VOps) (s : State) : Out := reduce redArg i o s

/-! ## Compares and predicate logic -/

/-- A predicate destination is written and the strand advances. -/
def State.writeP (s : State) (i : Issue) (pd : PReg) (p : PredReg) : State :=
  (s.modStrand i.u.num fun t => t.setP pd p).retire i

/-- pVD = lane compare; inactive lanes write 0 (R148); the word that holds a poisoned lane is poisoned. -/
def compare (g : FV → FV → Bool) (gi : Word → Word → Bool) (i : Issue) (o : VOps) (s : State) : Out :=
  if (o.fmt = .fp32 ∨ o.fmt = .int32) ∧ o.vd.val < 8 then
    issue i s fun s =>
      let t := s.strand i.u.num
      let p := t.p o.pr
      let a (l : Nat) := lane (t.v o.va.val) l
      let b (l : Nat) := lane (t.v o.vb.val) l
      let c (l : Nat) : Bool := p.bit l &&
        (if o.fmt.isInt then gi (a l).val (b l).val else g (ofFp32 (a l).val) (ofFp32 (b l).val))
      s.writeP i (Fin.ofNat 8 o.vd.val) (PredReg.ofFn c fun w =>
        p.poison.getLsbD w || (List.range 32).any fun k =>
          p.bit (32 * w + k) && ((a (32 * w + k)).poison || (b (32 * w + k)).poison))
  else .refused .illegalEncoding

def execVcmplt (i : Issue) (o : VOps) (s : State) : Out := compare FV.lt (fun a b => a.slt b) i o s
def execVcmple (i : Issue) (o : VOps) (s : State) : Out :=
  compare (fun a b => a.lt b || a.eq b) (fun a b => a.sle b) i o s
def execVcmpeq (i : Issue) (o : VOps) (s : State) : Out := compare FV.eq (fun a b => a == b) i o s
def execVcmpne (i : Issue) (o : VOps) (s : State) : Out := compare (fun a b => !a.eq b) (fun a b => a != b) i o s

/-- pVD = pVA op pVB under pPR (R148). -/
def predLogic (f : Bool → Bool → Bool) (i : Issue) (pd pa pb pr : PReg) (s : State) : Out :=
  issue i s fun s =>
    let t := s.strand i.u.num
    s.writeP i pd (mergeP (t.p pd) (t.p pr) (fun l => f ((t.p pa).bit l) ((t.p pb).bit l)) fun w =>
      (t.p pa).poison.getLsbD w || (t.p pb).poison.getLsbD w)

def execPand (i : Issue) (pd pa pb pr : PReg) (s : State) : Out := predLogic (fun a b => a && b) i pd pa pb pr s
def execPor (i : Issue) (pd pa pb pr : PReg) (s : State) : Out := predLogic (fun a b => a || b) i pd pa pb pr s
def execPxor (i : Issue) (pd pa pb pr : PReg) (s : State) : Out := predLogic (fun a b => a != b) i pd pa pb pr s
def execPnot (i : Issue) (pd pa pr : PReg) (s : State) : Out := predLogic (fun a _ => !a) i pd pa pa pr s

/-- PCNT: the bits that are 1 in both pVA and pPR. -/
def execPcnt (i : Issue) (sd : Reg) (pa pr : PReg) (s : State) : Out :=
  issue i s fun s =>
    let t := s.strand i.u.num
    s.writeS i sd ⟨BitVec.ofNat 32 ((List.range 256).filter fun l => (t.p pa).bit l && (t.p pr).bit l).length,
      (t.p pa).poison != 0 || (t.p pr).poison != 0⟩

/-! ## Conversions and moves -/

/-- One value converted to a 32-bit, 16-bit or 8-bit pattern (Table NF-2). -/
def convert (dst : VFmt) (sat : Bool) (v : FV) : Nat :=
  match dst with
  | .fp32 => FFmt.fp32.encode sat v
  | .bf16 _ => FFmt.bf16.encode sat v
  | .fp16 _ => FFmt.fp16.encode sat v
  | .e4m3 _ => FFmt.e4m3.encode sat v
  | .e5m2 _ => FFmt.e5m2.encode sat v
  | .int8 _ => (BitVec.ofInt 8 (v.toIntSat 8)).toNat
  | .int32 => (BitVec.ofInt 32 (v.toIntSat 32)).toNat

/-- A value widened to FP32: INT32 rounds, every other source is exact (Table NF-2). INT32 to FP16, BF16 or FP8, which the table does not
list, so rounds twice (log entry 109). -/
def widen (src dst : VFmt) (v : FV) : FV :=
  if src = .int32 ∧ !dst.isInt then ofFp32 v.to32 else v

/-- A converted lane (R467): the values go to the half or bytes that the destination names, the rest of the old word
stays; NaN to an integer poisons the word. -/
def cvtLane (src dst : VFmt) (sat : Bool) (w old : Word) : PWord :=
  let v1 := widen src dst (lane1 src w)
  let v2 := widen src dst (lane2 src w)
  let bad := dst.isInt && (v1.isNan || (src.is8 && dst.is8 && v2.isNan))
  let r : Word :=
    match dst with
    | .fp32 | .int32 => BitVec.ofNat 32 (convert dst sat v1)
    | .bf16 hi | .fp16 hi => setHalf old hi (convert dst sat v1)
    | .e4m3 hi | .e5m2 hi | .int8 hi =>
      let x := setByte old (pairBase hi) (convert dst sat v1)
      if src.is8 then setByte x (pairBase hi + 1) (convert dst sat v2) else x
  ⟨r, bad⟩

/-- VCVT (R467). A destination that keeps part of the old word keeps its tag. -/
def execVcvt (i : Issue) (vd va : Reg) (pr : PReg) (src dst : VFmt) (sat : Bool) (s : State) : Out :=
  issue i s fun s =>
    let t := s.strand i.u.num
    s.writeV i vd pr false fun l =>
      let a := lane (t.v va.val) l
      let d := lane (t.v vd.val) l
      let r := cvtLane src dst sat a.val d.val
      ⟨r.val, r.poison || a.poison || (d.poison && (dst.is8 || dst.is16))⟩

/-- VBCAST: every lane = sVA, with its tag. -/
def execVbcast (i : Issue) (vd sa : Reg) (pr : PReg) (s : State) : Out :=
  issue i s fun s => s.writeV i vd pr false fun _ => (s.strand i.u.num).s sa

/-- VIOTA: lane i = i. -/
def execViota (i : Issue) (vd : Reg) (pr : PReg) (s : State) : Out :=
  issue i s fun s => s.writeV i vd pr false fun l => ⟨BitVec.ofNat 32 l, false⟩

/-- VCOPY: vVD = vVA under PR. -/
def execVcopy (i : Issue) (vd va : Reg) (pr : PReg) (s : State) : Out :=
  issue i s fun s => s.writeV i vd pr false fun l => lane ((s.strand i.u.num).v va.val) l

/-- The offset sRA + OFF × 32 with bits [4:0] ignored (R143). -/
def vecAddr (t : Strand) (ra : Reg) (off : BitVec 11) : Nat :=
  (((t.s ra).val.toNat + 32 * off.toNat) % 0x100000000) / 32 * 32

/-- The buffer that the lines from `a` to `a + n − 1` must wait for, at either end of the access. -/
def State.rangeWait (s : State) (u a n : Nat) (store : Bool) : Option Nat :=
  match s.bufferWait u a store with
  | some x => some x
  | none => s.bufferWait u (a + n - 1) store

/-- VLD: LEN + 1 lines of 32 bytes; words past the last line become 0. -/
def execVld (i : Issue) (vd ra : Reg) (len : Fin 32) (off : BitVec 11) (s : State) : Out :=
  issueCtl i s (fun s => [(s.strand i.u.num).s ra]) fun s =>
    let a := vecAddr (s.strand i.u.num) ra off
    let n := 8 * (len.val + 1)
    match s.rangeWait i.u.num a (4 * n) false with
    | some slot => s.stallAt i.u.num (.buffer [slot]) none
    | none =>
      let r := s.loadRange i.ph i.u.num a n
      (r.1.modStrand i.u.num fun t => t.setV vd.val (Vector.ofFn fun l => r.2.getD l.val PWord.zero)).retire i

/-- VST: LEN + 1 lines from word 0 of vVD, with the tags. -/
def execVst (i : Issue) (vd ra : Reg) (len : Fin 32) (off : BitVec 11) (s : State) : Out :=
  issueCtl i s (fun s => [(s.strand i.u.num).s ra]) fun s =>
    let a := vecAddr (s.strand i.u.num) ra off
    let n := 8 * (len.val + 1)
    match s.rangeWait i.u.num a (4 * n) true with
    | some slot => s.stallAt i.u.num (.buffer [slot]) none
    | none =>
      let ws := (List.range n).map fun l => lane ((s.strand i.u.num).v vd.val) l
      (s.storeRange i.u.num a ws).retire i

end Sys2Proof.Machine
end

