-- ==== Sys2Proof/Machine/Quant.lean ====
section
/-!
DEFINITION. The quantiser (R88 to R101, R152, R153): A8 and A4 blocks with the three scale modes, degenerate operands,
KQ4 and KQ8 coding, MXFP8, MXINT8 exchange, and dequantisation. A block in SRAM is its elements followed by its exponent
byte (R33, R153).
-/
namespace Sys2Proof.Machine

/-! ## The exponent rule and rounding (R90 to R92) -/

/-- qmax of a width (Table NF-4). -/
def qmax (b : Nat) : Nat := if b = 1 then 1 else 2 ^ (b - 1) - 1

/-- amax × 2^(127 − E) < qmax + 0.5, for amax = m · 2^e. -/
def expFits (b m : Nat) (e : Int) (E : Nat) : Bool :=
  let x := e + 128 - E
  if 0 ≤ x then decide (m * 2 ^ x.toNat < 2 * qmax b + 1) else decide (m < (2 * qmax b + 1) * 2 ^ (-x).toNat)

/-- The smallest fitting exponent from `E` on, at most 254. -/
def expSearch (b m : Nat) (e : Int) : Nat → Nat → Nat
  | 0, E => Nat.min E 254
  | n + 1, E => if 254 ≤ E then 254 else if expFits b m e E then E else expSearch b m e n (E + 1)

/-- The exponent rule (R91). The search starts below any exponent that fits. -/
def expRule (b : Nat) (m : Nat) (e : Int) : Nat :=
  if m = 0 then 0 else expSearch b m e 16 ((Nat.log2 m : Int) + e + 127 - 9).toNat

/-- The magnitude of a finite value as (m, e); zero otherwise. -/
def FV.mag : FV → Nat × Int
  | .fin _ m e => (m, e)
  | _ => (0, 0)

/-- The larger of two magnitudes. -/
def magMax (a b : Nat × Int) : Nat × Int :=
  if (FV.fin false a.1 a.2).lt (.fin false b.1 b.2) then b else a

/-- v = x × 2^(127 − E) rounded to nearest, ties to even (R92). -/
def quantV (E : Nat) (x : FV) : Int :=
  match x with
  | .fin n m e => (FV.fin n m (e + 127 - E)).toIntRne
  | _ => 0

/-- One quantised value with its saturated and zero-rounded marks; width 1 gives the sign and counts nothing
(Table NF-4, R92). -/
def quantOne (b E : Nat) (x : FV) : Int × Bool × Bool :=
  if b = 1 then ((if x.isZero then 0 else if x.isNeg then -1 else 1), false, false)
  else
    let q := quantV E x
    let lim : Int := qmax b
    if lim < q then (lim, true, false)
    else if q < -lim then (-lim, true, false)
    else (q, false, !x.isZero && q == 0)

/-- A block's width is valid for its container (R90). -/
def widthOk (a4 : Bool) (b : Nat) : Bool := 1 ≤ b && b ≤ 8 && (!a4 || b ≤ 4)

/-- A block with a NaN or an infinity (R92). -/
def nonfinite (xs : List FV) : Bool := xs.any fun x => !x.isFinite

def blockMax (xs : List FV) : Nat × Int := xs.foldl (fun a x => magMax a x.mag) (0, 0)

/-- The exponent of each block (R91): FFh for a nonfinite block, 0 for a block of bad width. -/
def exponents (mode : QMode) (static : Nat) (a4 : Bool) (ws : List Nat) (bs : List (List FV)) : List Nat :=
  let own := (ws.zip bs).map fun p =>
    if !widthOk a4 p.1 then (0, false) else if nonfinite p.2 then (0xFF, false)
    else (expRule p.1 (blockMax p.2).1 (blockMax p.2).2, true)
  match mode with
  | .block => own.map Prod.fst
  | .group =>
    let e := own.foldl (fun a p => if p.2 then Nat.max a p.1 else a) 0
    own.map fun p => if p.2 then e else p.1
  | .static => (ws.zip own).map fun p => if !widthOk a4 p.1 then 0 else if static = 0xFF then 0xFF else
      if p.2.2 then static else p.2.1

/-- A quantised block: elements, exponent, saturated and zero-rounded counts, and what marks it. -/
structure QBlock where
  qs : List Int
  exp : Nat
  sat : Nat
  zero : Nat
  nonfin : Bool
  bad : Bool
  degen : Bool
  deriving DecidableEq, Repr

/-- One block quantised (R90, R92, R93). -/
def quantBlock (a4 : Bool) (b E : Nat) (xs : List FV) : QBlock :=
  if !widthOk a4 b then ⟨xs.map fun _ => 0, 0, 0, 0, false, true, false⟩
  else if nonfinite xs || E == 0xFF then ⟨xs.map fun _ => 0, 0xFF, 0, 0, true, false, false⟩
  else
    let r := xs.map (quantOne b E)
    let sat := (r.filter fun x => x.2.1).length
    let zr := (r.filter fun x => x.2.2).length
    let nz := (xs.filter fun x => !x.isZero).length
    ⟨r.map Prod.fst, E, sat, zr, false, false, b != 1 && nz != 0 && (sat == nz || zr == nz)⟩

/-! ## Blocks as bytes -/

def intByte (q : Int) : Byte := BitVec.ofInt 8 q

/-- The element bytes of a block: A8 one byte a value, A4 two values a byte (R33). -/
def elemBytes (a4 : Bool) (qs : List Int) : List Byte :=
  if a4 then (List.range 16).map fun k =>
    (BitVec.ofInt 4 (qs.getD (2 * k + 1) 0) : BitVec 4) ++ (BitVec.ofInt 4 (qs.getD (2 * k) 0) : BitVec 4)
  else qs.map intByte

/-- The values of element bytes. -/
def elemVals (a4 : Bool) (bs : List Byte) : List Int :=
  if a4 then bs.flatMap fun b => [(b.extractLsb' 0 4).toInt, (b.extractLsb' 4 4).toInt] else bs.map BitVec.toInt

/-- Bytes of one block in SRAM. -/
def blockLen (a4 : Bool) : Nat := if a4 then 17 else 33

/-! ## Parameters (R152) -/

structure QParam where
  nblk : Nat
  width : Nat
  mapv : Nat
  exp : Nat
  deriving DecidableEq, Repr

def QParam.of (w : Word) : QParam :=
  ⟨w.toNat % 32 + 1, w.toNat / 32 % 16, w.toNat / 512 % 32, w.toNat / 16384 % 256⟩

/-- Value `k` of an operand that starts at vVA; past v31 it is free (log entry 14). -/
def Strand.val (t : Strand) (n va k : Nat) : PWord :=
  if va + k / 256 < 32 then lane (t.v (va + k / 256)) (k % 256) else ⟨Config.freeWord (n + k), false⟩

/-- The widths of the blocks, with the tag of the map word that gives each. -/
def Strand.widths (t : Strand) (p : QParam) : List (Nat × Bool) :=
  (List.range p.nblk).map fun b =>
    if p.width ≠ 0 then (p.width, false)
    else
      let w := lane (t.v p.mapv) (b / 8)
      (w.val.toNat / 2 ^ (4 * (b % 8)) % 16, w.poison)

/-- The words of the operand by block. -/
def Strand.blocks (t : Strand) (n va nblk : Nat) : List (List PWord) :=
  (List.range nblk).map fun b => (List.range 32).map fun k => t.val n va (32 * b + k)

/-- The slots that a mask names, in ascending order. -/
def maskSlots (w : Word) : List Nat := (List.range 32).filter fun k => w.getLsbD k

/-! ## PRECISION (R97) -/

/-- mark_precision: the context that the schedule names, or the TRAIN step, is flagged; PRECISION_MARKS counts. -/
def State.markPrecision (s : State) (u x : Nat) : State :=
  let s := s.bump (fmtCnt (clOf u) 8) 1
  if stOf u = 1 then s.modStrand u fun t => { t with stepPrecision := true }
  else if 1 ≤ s.reg (Od.CTX_STATE x) ∧ s.reg (Od.CTX_STATE x) ≤ 3 then
    s.setReg (Od.CTX_FLAGS x) (s.reg (Od.CTX_FLAGS x) ||| 1)
  else s

/-- The counters of one operand (R92, R93). -/
def State.countQuant (s : State) (c : Nat) (bs : List QBlock) : State :=
  let add (s : State) (sub n : Nat) : State := if n = 0 then s else s.bump (fmtCnt c sub) n
  let s := add s 1 bs.length
  let s := add s 2 (bs.foldl (fun a b => a + b.sat) 0)
  let s := add s 3 (bs.foldl (fun a b => a + b.zero) 0)
  add s 9 (bs.filter fun b => b.nonfin).length

/-- The operand's bytes with tags: element bytes of each block, and its exponent byte. -/
def QBlock.bytes (a4 : Bool) (b : QBlock) (tag : Bool) : List (Byte × Bool) :=
  ((elemBytes a4 b.qs).map fun x => (x, tag || b.bad)) ++ [(BitVec.ofNat 8 b.exp, tag)]

/-- Blocks written to an input buffer of an array: elements at the block's place, exponents from byte 1024 (R33). An array command
carries no container: a read takes the buffer in the container of the last QA into it, and stores and DMA leave that as it is (log
entry 110). -/
def ArrayU.putBlocks (a : ArrayU) (ib : Nat) (a4 : Bool) (bs : List (QBlock × Bool)) : ArrayU :=
  let n := if a4 then 16 else 32
  let put (x : ArrayU) (o : Nat) (l : List (Byte × Bool)) : ArrayU :=
    (List.range ((l.length + 3) / 4)).foldl (fun x w =>
      let old := (x.inWord ib (o + 4 * w)).bytes
      let g (k : Nat) : Byte × Bool := match l[4 * w + k]? with | some y => y | none => old.getD k (0, false)
      x.putIn ib (o + 4 * w) ⟨(g 3).1 ++ (g 2).1 ++ (g 1).1 ++ (g 0).1, (g 0).2 || (g 1).2 || (g 2).2 || (g 3).2⟩) x
  let el := bs.flatMap fun p => (elemBytes a4 p.1.qs).map fun x => (x, p.2 || p.1.bad)
  let ex := bs.map fun p => (BitVec.ofNat 8 p.1.exp, p.2)
  let x := put a 0 (el.take (n * bs.length))
  { put x 1024 ex with inA4 := a.inA4.put ib a4 }

/-- The operand written to the input buffers of the slots that the strand owns; another slot is a tag mismatch
(R143). -/
def State.putOperand (s : State) (u ib : Nat) (a4 : Bool) (slots : List Nat) (bs : List (QBlock × Bool)) : State :=
  forAll slots s fun s k =>
    if (s.strand u).owns k ib then s.modArray (s.slotArray u k) fun x => x.putBlocks ib a4 bs
    else s.tagFault u (0x402000 + 0x4000 * k + 0x1000 * ib) (s.strand u).tenant

/-- FP16 with SAT, as the staging area holds values (R94). -/
def stageVal (w : PWord) : List (Byte × Bool) :=
  (leBytes 2 (FFmt.fp16.encode true (ofFp32 w.val))).map fun b => (b, w.poison)

/-- A staged value read back. -/
def unstage (l : List (Byte × Bool)) : FV := FFmt.fp16.decode (leNat (l.map Prod.fst))

/-- The staged operand as blocks of values, and whether any is poisoned. -/
def State.staged (s : State) (u a nblk : Nat) : List (List FV) × Bool :=
  let bytes : List (Byte × Bool) := (List.range (16 * nblk)).flatMap fun w => (s.peek u (a + 4 * w)).bytes
  ((List.range nblk).map fun b => (List.range 32).map fun k => unstage ((bytes.drop (64 * b + 2 * k)).take 2),
   bytes.any Prod.snd)

/-- Replays allowed for the strand's kind of work (Table NF-10). -/
def State.replayOn (s : State) (u : Nat) : Bool :=
  s.reg (if stOf u = 0 then Od.DEGEN_REPLAY_EN (dieOf (clOf u)) else Od.DEGEN_TRAIN_REPLAY (dieOf (clOf u))) == 1

/-- A degenerate event (R95): the operand is marked PRECISION, or its one replay is due. -/
def State.degenerate (s : State) (u : Nat) (rpl : Bool) (r : Replay) (mode : QMode) (used : List Nat) : State :=
  let c := clOf u
  let s := s.bump (fmtCnt c 5) 1
  if !rpl || !s.replayOn u then s.markPrecision u r.ctx
  else
    let eNew := exponents (if mode = .block then .block else .group) 0 r.a4 r.widths (s.staged u r.staging r.widths.length).1
    if eNew = used then (s.bump (fmtCnt c 7) 1).markPrecision u r.ctx
    else if stOf u = 0 ∧ (s.strand u).floor < (r.span : Int) then s.markPrecision u r.ctx
    else s.modStrand u fun t => { t with replay := some r }

/-- The span of the replay site at the strand's instruction (R94, R196). -/
def Strand.spanHere (t : Strand) : Nat := match Store.get? t.sites t.pc with | some x => x.span | none => 0

/-- QA (R152, R90 to R95). `x` is the context to which the schedule assigns the operand (R97). A block of bad width does not make the
operand a poisoned one of Table NF-5: its other blocks are tested (log entry 112). A staging offset counts from the multiple of 4 below it (log
entry 113). -/
def execQa (i : Issue) (va sd sp : Reg) (dst : QDst) (mode : QMode) (a4 rpl : Bool) (x : Nat) (s : State) : Out :=
  if rpl && dst == .sram then .refused .illegalEncoding
  else
    issueCtl i s (fun s =>
      let t := s.strand i.u.num
      [t.s sd, t.s sp] ++ (if rpl then [t.s (sp + 1)] else [])) fun s =>
      let u := i.u.num
      let t := s.strand u
      let p := QParam.of (t.s sp).val
      let ib := if dst = .input1 then 1 else 0
      let slots := if dst = .sram then [] else maskSlots (t.s sd).val
      let busy := slots.filter fun k => t.owns k ib && (s.array (s.slotArray u k)).inputPending ib
      if busy ≠ [] then s.stallAt u (.buffer busy) none
      else
        let ws := t.widths p
        let bs := t.blocks s.freeN va.val p.nblk
        let vs := bs.map fun b => b.map fun w => ofFp32 w.val
        let es := exponents mode p.exp a4 (ws.map Prod.fst) vs
        let qs := (List.range p.nblk).map fun k =>
          quantBlock a4 ((ws.getD k (0, false)).1) (es.getD k 0) (vs.getD k [])
        let tags := (List.range p.nblk).map fun k => (ws.getD k (0, false)).2 || (bs.getD k []).any (·.poison)
        let out := qs.zip tags
        let s := s.spend 1024
        let s := s.countQuant (clOf u) qs
        let s := if dst = .sram then
            s.storeBytes u (t.s sd).val.toNat (out.flatMap fun o => o.1.bytes a4 o.2)
          else s.putOperand u ib a4 slots out
        let stg := (t.s (sp + 1)).val.toNat
        let s := if rpl then s.storeBytes u (stg / 4 * 4) (bs.flatMap fun b => b.flatMap stageVal) else s
        let dg := (qs.filter fun b => b.degen).length
        let s := if dg = 0 ∨ tags.any id then s
          else (s.bump (fmtCnt (clOf u) 4) dg).degenerate u rpl
            ⟨stg / 4 * 4, ws.map Prod.fst, mode != .block, a4, ib, slots, t.spanHere, x⟩ mode es
        s.retire i

/-! ## KV coding (R99, R100) -/

/-- A positive rational n / d as the FP16 unit count nearest above (or below): (q, l) with q ≤ 2^11. -/
def fp16Dir (up : Bool) (n d : Nat) : Nat → Nat → Nat × Int
  | 0, l => (2048, (l : Int) - 24)
  | k + 1, l =>
    let m := n * 2 ^ 24
    let b := d * 2 ^ l
    let q := if up then (m + b - 1) / b else m / b
    if q ≤ (if up then 2048 else 2047) then (q, (l : Int) - 24) else fp16Dir up n d k (l + 1)

/-- A dyadic magnitude as a fraction. -/
def fracOf (m : Nat) (e : Int) : Nat × Nat := if 0 ≤ e then (m * 2 ^ e.toNat, 1) else (m, 2 ^ (-e).toNat)

/-- A finite value rounded to FP16 towards −∞ (R100, step 2). -/
def fp16Down (x : FV) : FV :=
  match x with
  | .fin n m e =>
    let f := fracOf m e
    let r := fp16Dir n f.1 f.2 48 0
    .fin n r.1 r.2
  | v => v

/-- (a / Q) rounded to FP16 towards +∞ for a finite a ≥ 0 (R100, step 3). -/
def fp16UpDiv (a : FV) (q : Nat) : FV :=
  match a with
  | .fin _ m e =>
    let f := fracOf m e
    let r := fp16Dir true f.1 (f.2 * q) 48 0
    .fin false r.1 r.2
  | v => v

/-- A value limited to ±65,504, and whether it was limited (R100, step 1). -/
def kvSat (x : FV) : FV × Bool :=
  let top : FV := .fin false 65504 0
  if x.isNan then (x, false)
  else if top.lt x then (top, true) else if x.lt top.neg then (top.neg, true) else (x, false)

/-- (x − z) / s rounded to nearest, ties to even, for s > 0. -/
def kvCode (x z sc : FV) : Nat :=
  match x.add z.neg, sc with
  | .fin _ m e, .fin _ m' e' =>
    if m' = 0 then 0
    else
      let a := fracOf m e
      let b := fracOf m' e'
      rneDiv (a.1 * b.2) (a.2 * b.1)
  | _, _ => 0

/-- A coded block: codes, scale and zero-point bits, saturated values (R100). -/
def kvBlock (q : Nat) (xs : List FV) : List Nat × Nat × Nat × Nat :=
  let ys := xs.map kvSat
  let vs := ys.map Prod.fst
  let lo := vs.foldl FV.min (.inf false)
  let hi := vs.foldl FV.max (.inf true)
  let z := fp16Down lo
  let sc := fp16UpDiv (hi.add z.neg) q
  (vs.map fun v => kvCode v z sc, FFmt.fp16.encode false sc, FFmt.fp16.encode false z, (ys.filter fun y => y.2).length)

/-- The bytes of a KV block (Table NF-6). -/
def kvBytes (q : Nat) (b : List Nat × Nat × Nat × Nat) : List Byte :=
  let codes := if q = 15 then (List.range 16).map fun k => BitVec.ofNat 8 (b.1.getD (2 * k) 0 + 16 * b.1.getD (2 * k + 1) 0)
    else b.1.map (BitVec.ofNat 8)
  codes ++ leBytes 2 b.2.1 ++ leBytes 2 b.2.2.1

/-- A store of a quantised operand at sSD, block by block. -/
def State.quantStore (s : State) (i : Issue) (sd : Reg) (bs : List (List (Byte × Bool))) : State :=
  (s.storeBytes i.u.num ((s.strand i.u.num).s sd).val.toNat (bs.flatMap id)).retire i

/-- QKV4 and QKV8: a NaN poisons its block, as does a poisoned value (R100, Table IS-11). -/
def quantKv (q : Nat) (i : Issue) (va sd sp : Reg) (s : State) : Out :=
  issueCtl i s (fun s => [(s.strand i.u.num).s sd, (s.strand i.u.num).s sp]) fun s =>
    let u := i.u.num
    let t := s.strand u
    let p := QParam.of (t.s sp).val
    let bs := t.blocks s.freeN va.val p.nblk
    let vs := bs.map fun b => b.map fun w => ofFp32 w.val
    let ks := vs.map (kvBlock q)
    let sat : Nat := ks.foldl (fun a k => a + k.2.2.2) 0
    let s := s.spend 1024
    let s := s.countQuant (clOf u) (ks.map fun _ => ⟨[], 0, 0, 0, false, false, false⟩)
    let s := if sat = 0 then s else s.bump (fmtCnt (clOf u) 10) sat
    s.quantStore i sd ((List.range p.nblk).map fun k =>
      let tag := (bs.getD k []).any (·.poison) || (vs.getD k []).any FV.isNan
      (kvBytes q (ks.getD k ([], 0, 0, 0))).map fun b => (b, tag))

def execQkv4 (i : Issue) (va sd sp : Reg) (s : State) : Out := quantKv 15 i va sd sp s
def execQkv8 (i : Issue) (va sd sp : Reg) (s : State) : Out := quantKv 255 i va sd sp s

/-! ## MXFP8 and MXINT8 (R88, R89) -/

/-- An MXFP8 block: scale and element bytes (Table NF-3). -/
def mxBlock (f : FFmt) (emax : Nat) (xs : List FV) : Nat × List Nat × Bool :=
  if nonfinite xs then (0xFF, xs.map fun _ => 0, true)
  else
    let a := blockMax xs
    let E : Int := if a.1 = 0 then 0 else (Nat.log2 a.1 : Int) + a.2 - emax + 127
    let E := if E < 0 then 0 else if 254 < E then 254 else E.toNat
    (E, xs.map fun x => match x with
      | .fin n m e => f.encode true (.fin n m (e + 127 - E))
      | _ => 0, false)

def quantMx (f : FFmt) (emax : Nat) (i : Issue) (va sd sp : Reg) (s : State) : Out :=
  issueCtl i s (fun s => [(s.strand i.u.num).s sd, (s.strand i.u.num).s sp]) fun s =>
    let u := i.u.num
    let t := s.strand u
    let p := QParam.of (t.s sp).val
    let bs := t.blocks s.freeN va.val p.nblk
    let ms := bs.map fun b => mxBlock f emax (b.map fun w => ofFp32 w.val)
    let s := s.spend 1024
    let s := s.countQuant (clOf u) (ms.map fun m => ⟨[], 0, 0, 0, m.2.2, false, false⟩)
    s.quantStore i sd ((List.range p.nblk).map fun k =>
      let m := ms.getD k (0, [], false)
      ((m.2.1.map (BitVec.ofNat 8)) ++ [BitVec.ofNat 8 m.1]).map fun b => (b, (bs.getD k []).any (·.poison)))

def execQmx4 (i : Issue) (va sd sp : Reg) (s : State) : Out := quantMx FFmt.e4m3 8 i va sd sp s
def execQmx5 (i : Issue) (va sd sp : Reg) (s : State) : Out := quantMx FFmt.e5m2 15 i va sd sp s

/-- Export of an A8 block as MXINT8 (R89): X = E + 6, or FFh where E exceeds 248. -/
def mxExport (b : List Byte) : List Byte × Bool :=
  let e := (b.getD 32 0).toNat
  if 248 < e then (b.take 32 ++ [0xFF], true) else (b.take 32 ++ [BitVec.ofNat 8 (e + 6)], false)

/-- Import of an MXINT8 block as A8 (R89): E = X − 6, realigned to 0 where X is below 6; FFh stays. -/
def mxImport (b : List Byte) : List Byte × Bool :=
  let x := (b.getD 32 0).toNat
  if x = 0xFF then (b, true)
  else if x < 6 then ((b.take 32).map (fun v => intByte (rneDivInt v.toInt (2 ^ (6 - x)))) ++ [0], false)
  else (b.take 32 ++ [BitVec.ofNat 8 (x - 6)], false)

/-- Blocks of 33 bytes rewritten in place at sSD (R153); a poisoned element or exponent poisons every word of its block (Table IS-11).
The blocks count in QUANT_BLOCKS, as do those of QKV and QMX, and the realignment of an import counts nothing (log entry 111). -/
def rewriteMx (f : List Byte → List Byte × Bool) (i : Issue) (sd sp : Reg) (s : State) : Out :=
  issueCtl i s (fun s => [(s.strand i.u.num).s sd, (s.strand i.u.num).s sp]) fun s =>
    let u := i.u.num
    let t := s.strand u
    let p := QParam.of (t.s sp).val
    let r := s.loadBytes i.ph u (t.s sd).val.toNat (33 * p.nblk)
    let bs := (List.range p.nblk).map fun k => (r.2.drop (33 * k)).take 33
    let ms := bs.map fun b => f (b.map Prod.fst)
    let s := r.1.countQuant (clOf u) (ms.map fun m => ⟨[], 0, 0, 0, m.2, false, false⟩)
    s.quantStore i sd ((List.range p.nblk).map fun k =>
      ((ms.getD k ([], false)).1).map fun b => (b, (bs.getD k []).any Prod.snd))

def execMxexp (i : Issue) (sd sp : Reg) (s : State) : Out := rewriteMx mxExport i sd sp s
def execMximp (i : Issue) (sd sp : Reg) (s : State) : Out := rewriteMx mxImport i sd sp s

/-! ## Dequantise (R153) -/

/-- x × 2^(E − 127), NaN for E = FFh (Table NF-1). -/
def scaled (x : FV) (E : Nat) : FV :=
  if E = 0xFF then .nan
  else match x with
    | .fin n m e => .fin n m (e + E - 127)
    | v => v

/-- Values 0 to `total − 1` of a run go to the lanes from lane 0 of register `va` on, register after register up to v31. -/
def Strand.putRun (t : Strand) (va total : Nat) (out : Nat → PWord) : Strand :=
  (List.range ((total + 255) / 256)).foldl (fun t j =>
    if va + j < 32 then
      t.setV (va + j) (Vector.ofFn fun l =>
        if 256 * j + l.val < total then out (256 * j + l.val) else lane (t.v (va + j)) l.val)
    else t) t

/-- The 32 values of a block with their tags: `n` bytes a block, `f` decodes the block's bytes, `head` is the first byte
of the part that governs every value (exponent, scale and zero-point). -/
def dequant (n head : Nat) (perByte : Nat) (f : List Byte → Nat → FV) (i : Issue) (va sd sp : Reg) (s : State) : Out :=
  issueCtl i s (fun s => [(s.strand i.u.num).s sd, (s.strand i.u.num).s sp]) fun s =>
    let u := i.u.num
    let t := s.strand u
    let p := QParam.of (t.s sp).val
    let r := s.loadBytes i.ph u (t.s sd).val.toNat (n * p.nblk)
    let out (k : Nat) : PWord :=
      let b := (r.2.drop (n * (k / 32))).take n
      let bytes := b.map Prod.fst
      ⟨(f bytes (k % 32)).to32,
        (b.getD (k % 32 / perByte) (0, false)).2 || (b.drop head).any Prod.snd⟩
    (r.1.modStrand u fun t => t.putRun va.val (32 * p.nblk) out).retire i

def a8Val (b : List Byte) (k : Nat) : FV := scaled (FV.int (b.getD k 0).toInt) (b.getD 32 0).toNat
def a4Val (b : List Byte) (k : Nat) : FV := scaled (FV.int ((elemVals true (b.take 16)).getD k 0)) (b.getD 16 0).toNat

/-- z + s × q with the IEEE rules (R100). -/
def kvVal (q : Nat) (b : List Byte) (k : Nat) : FV :=
  let o := if q = 15 then 16 else 32
  let code := if q = 15 then (b.getD (k / 2) 0).toNat / 16 ^ (k % 2) % 16 else (b.getD k 0).toNat
  let sc := FFmt.fp16.decode (leNat (slice b o 2))
  let z := FFmt.fp16.decode (leNat (slice b (o + 2) 2))
  (sc.mul (FV.int code)).add z

def mxVal (f : FFmt) (b : List Byte) (k : Nat) : FV := scaled (f.decode (b.getD k 0).toNat) (b.getD 32 0).toNat

def execDqa8 (i : Issue) (va sd sp : Reg) (s : State) : Out := dequant 33 32 1 a8Val i va sd sp s
def execDqa4 (i : Issue) (va sd sp : Reg) (s : State) : Out := dequant 17 16 2 a4Val i va sd sp s
def execDqkv4 (i : Issue) (va sd sp : Reg) (s : State) : Out := dequant 20 16 2 (kvVal 15) i va sd sp s
def execDqkv8 (i : Issue) (va sd sp : Reg) (s : State) : Out := dequant 36 32 1 (kvVal 255) i va sd sp s
def execDqmx4 (i : Issue) (va sd sp : Reg) (s : State) : Out := dequant 33 32 1 (mxVal FFmt.e4m3) i va sd sp s
def execDqmx5 (i : Issue) (va sd sp : Reg) (s : State) : Out := dequant 33 32 1 (mxVal FFmt.e5m2) i va sd sp s

/-! ## Replay (R95) -/

/-- DEGEN_REPLAY: the replay that a degenerate event made due. The slice is held for the span, the staged operand is
quantised with the recomputed exponents, and a result still degenerate is marked (R95, R98). Nothing is due: no
change. -/
def execDegenReplay (u : StrandId) (s : State) : Out :=
  match (s.strand u.num).replay with
  | none => .next s
  | some r =>
    let v := s.staged u.num r.staging r.widths.length
    let es := exponents (if r.group then .group else .block) 0 r.a4 r.widths v.1
    let qs := (List.range r.widths.length).map fun k =>
      quantBlock r.a4 (r.widths.getD k 0) (es.getD k 0) (v.1.getD k [])
    let s := s.request (s.strandJob u.num) (some u.num) 4 (some r.span)
    let s := s.countQuant u.cl.num qs
    let s := s.putOperand u.num r.buf r.a4 r.slots (qs.map fun q => (q, v.2))
    let s := s.bump (fmtCnt u.cl.num 6) 1
    let s := s.modStrand u.num fun t => { t with replay := none }
    .next (if qs.any fun q => q.degen then s.markPrecision u.num r.ctx else s)

end Sys2Proof.Machine
end

