-- ==== Sys2Proof/Machine/ArrayOps.lean ====
section
/-!
DEFINITION. Operations on arrays that several families share: timing (Table AR-6), the busy count and the activity
ceiling (R26, R42, R235, R264), the sequencer's states, retirement and exposure records (R53, R310), the ramp.
-/
namespace Sys2Proof.Machine

/-! ## Names -/

/-- Cluster and A number of a module-wide array number. -/
def acl (x : Nat) : Nat := x / 34
def anum (x : Nat) : Nat := x % 34

/-- An array object's value. -/
def State.ar (s : State) (idx sub x : Nat) : Nat := s.reg (arObj idx sub x)
def State.setAr (s : State) (idx sub x v : Nat) : State := s.setReg (arObj idx sub x) v
def State.bumpAr (s : State) (idx sub x n : Nat) : State := if n = 0 then s else s.bump (arObj idx sub x) n

def State.wfmt (s : State) (x : Nat) : Nat := s.ar 0x21 3 x
def State.budget (s : State) (x : Nat) : Nat := s.ar 0x21 4 x
def State.economy (s : State) (x : Nat) : Bool := s.ar 0x21 5 x == 1
def State.fsStep (s : State) (x : Nat) : Nat := s.ar 0x21 6 x
def State.tfsStep (s : State) (x : Nat) : Nat := s.ar 0x27 8 x
def State.seqState (s : State) (x : Nat) : Nat := s.ar 0x27 1 x

/-- The clock of a tick. -/
def State.clock (s : State) (clk : Nat) : Nat := 8 * s.now + clk

/-- Every slot that binds an array, as (bank, slot): bank 0 first (R52, R272). -/
def State.slotsOf (s : State) (x : Nat) : List (Nat × Nat) :=
  let k := s.cluster (acl x)
  let bank (b : Nat) (m : Store Nat) : List (Nat × Nat) :=
    ((List.range 32).filter fun i => Store.get i m i == anum x).map fun i => (b, i)
  bank 0 k.slotMap0 ++ bank 1 k.slotMap1

/-- The slot that binds an array, the lowest of bank 0 where it has one (log entry 97). -/
def State.slotOf (s : State) (x : Nat) : Option (Nat × Nat) := (s.slotsOf x).head?

/-- ARRAY_SLOT (Table AR-12): FFh for a RETIRED array, the slot that binds one in service, FEh for a spare, which no slot binds. -/
def State.arraySlot (s : State) (x : Nat) : Nat :=
  let spare := s.arrState x = AS.SPARE ∨ s.arrState x = AS.SHADOW
  if s.arrState x = AS.RETIRED then 0xFF
  else match s.slotOf x with
    | some p => if spare then 0xFE else p.2
    | none => 0xFE

/-! ## Timing (Table AR-6, R48 to R50) -/

/-- Latency of one phase, cadence, and the clock after the last conversion of one phase. -/
def fwdTiming (a4 eco : Bool) : Nat × Nat × Nat :=
  if eco then (if a4 then (69, 16, 31) else (85, 32, 47)) else (if a4 then (60, 9, 23) else (68, 17, 31))

def transTime (a4 : Bool) : Nat := if a4 then 78 else 102

/-- The inputs that a read's extent covers: rows, or logical columns with an extent above 512 taken as 512 (R48). -/
def readExtent (tread wide : Bool) (ext : Nat) : Nat :=
  if tread && wide then Nat.min (32 * (ext + 1)) 512 else 32 * (ext + 1)

/-- Scheduled phases (R40, R49). -/
def schedPhases (tread wide : Bool) (ext budget : Nat) : Nat :=
  let p := (readExtent tread wide ext + budget - 1) / budget
  if tread && wide then 2 * p else p

/-- Latency of a read of `p` phases and the clocks from its start to the next start (R39, R41, R50). -/
def readTiming (tread a4 eco : Bool) (p : Nat) : Nat × Nat :=
  if tread then (p * transTime a4, p * transTime a4)
  else
    let t := fwdTiming a4 eco
    (t.1 + (p - 1) * t.2.1, t.2.1 * p)

/-! ## The activity ceiling -/

/-- Array `x` mirrors a read of its transit's target that has phases left to drive (R42, R307). -/
def State.mirroring (s : State) (x : Nat) : Bool :=
  (s.array (34 * acl x + s.reg (Od.TRANSIT_TARGET (acl x)))).runs.any fun r => r.mirror == some x && r.next < r.phases

/-- An array counts as busy (R42): a command on its way or queued, phases to drive, its own or as a shadow mirror, or conversions
not ended. -/
def State.arrBusy (s : State) (x clk : Nat) : Bool :=
  let a := s.array x
  !(a.cmds.isEmpty && a.q0.isEmpty && a.q1.isEmpty) || a.runs.any (fun r => r.next < r.phases) ||
    decide (clk < a.convEnd) || s.mirroring x

/-- Only work of strand 1 is on the array. -/
def State.trainOnly (s : State) (x : Nat) : Bool :=
  let a := s.array x
  (a.cmds ++ a.q0 ++ a.q1).all (fun c => stOf c.strand == 1) && a.runs.all (fun r => stOf r.cmd.strand == 1) &&
    (!a.cmds.isEmpty || !a.q1.isEmpty || !a.runs.isEmpty)

/-- The arrays of a die that the model holds anything for. -/
def State.dieArrays (s : State) (d : Nat) : List Nat := (s.arrays.filter fun e => e.1 / 3264 == d).map Prod.fst

/-- Quarters of busy arrays that the arrays of `xs` count for (R42). -/
def State.quarters (s : State) (clk : Nat) (xs : List Nat) : Nat :=
  xs.foldl (fun a x => a + (if s.arrBusy x clk then 4 else if s.arrState x = AS.PROGRAMMING then 1 else 0)) 0

/-- The serving job whose slice has the die and whose paired TRAIN job is RUNNING, the lowest-numbered one (R264). -/
def State.pairOn (s : State) (d : Nat) : Option Nat :=
  (s.jobs.find? fun (e : Nat × Job) => !e.2.train && s.pairRuns e.1 && e.2.ranks.any fun p => p.coord == s.coord && dieOf p.cl == d).map Prod.fst

/-- A paired TRAIN job is RUNNING on a slice that has the die (R264). -/
def State.trainRuns (s : State) (d : Nat) : Bool := (s.pairOn d).isSome

/-- TRAIN_CEILING_PCT of the serving job of the pair. -/
def State.trainPct (s : State) (d : Nat) : Nat :=
  match s.pairOn d with
  | some j => s.reg (Od.TRAIN_CEILING_PCT j)
  | none => 50

/-- The serving part and the training share of a ceiling `c` of a die (R264). -/
def State.ceilSplit (s : State) (d c : Nat) : Nat × Nat :=
  if s.trainRuns d then
    let t := c * s.trainPct d / 100
    (c - t, t)
  else (c, c)

/-- The parts of the ceiling in force. -/
def State.ceilParts (s : State) (d : Nat) : Nat × Nat := s.ceilSplit d (s.reg (Od.CEILING_NOW d))

/-- Whether `n` more arrays of cluster `c` fit for work of strand `st` whose scheduled busy time is `busy` clocks
(R26, R235 to R237, R264): the cluster's allowance first, then the pool; a lent allowance counts as pool for work of
at most 300 clocks. An allowance that has just come back may still be in use by others: the die never runs more than the ceiling
(R237). -/
def State.fits (s : State) (c st clk n busy : Nat) : Bool :=
  let d := dieOf c
  let parts := s.ceilParts d
  if n = 0 then true
  else if st = 1 && s.trainRuns d then
    decide (s.quarters clk ((s.dieArrays d).filter s.trainOnly) + 4 * n ≤ 4 * parts.2)
  else
    let cap := parts.1
    let own := cap / 128
    let mine := (s.dieArrays d).filter fun x => !(s.trainRuns d && s.trainOnly x)
    let excess (k : Nat) : Nat :=
      let allow := if (s.cluster (96 * d + k)).lent then 0 else 4 * own
      s.quarters clk (mine.filter fun x => acl x == 96 * d + k) + (if 96 * d + k = c then 4 * n else 0) - allow
    let lent := ((List.range 96).filter fun k => (s.cluster (96 * d + k)).lent).length
    let pool := 4 * (cap - 96 * own) + (if busy ≤ 300 then 4 * own * lent else 0)
    let mineOver := excess (kOf c)
    (decide (mineOver = 0) && decide (s.quarters clk mine + 4 * n ≤ 4 * cap)) ||
      decide (((List.range 96).foldl (fun a k => a + excess k) 0) ≤ pool)

/-- Room for a programming row: a quarter array under the die's ceiling (R283). -/
def State.roomForRow (s : State) (x clk : Nat) : Bool :=
  let d := dieOf (acl x)
  decide (s.quarters clk (s.dieArrays d) ≤ 4 * s.reg (Od.CEILING_NOW d))

/-! ## Retirement -/

/-- The version entry whose placement holds array `x`, and its VERSION. -/
def State.versionOf (s : State) (x : Nat) : Nat :=
  match s.versions.find? fun e => e.2.blocks.any fun b => b.array == some x with
  | some e => s.reg (Od.VER_NUMBER e.1)
  | none => 0

/-- The tenants of the versions bound to an array. -/
def State.versionTenants (s : State) (x : Nat) : List Nat :=
  (s.versions.filter fun e => e.2.blocks.any fun b => b.array == some x).map fun e => s.reg (Od.VER_TENANT e.1)

/-- An exposure record and its event and fault record (R310, Table CA-2, Table RL-5 kind 0008h). -/
def State.expose (s : State) (x cause cols first start fin : Nat) : State :=
  let c := acl x
  let slot := match s.slotOf x with
    | some p => p.2
    | none => 0xFF
  let r := leBytes 1 (dieOf c) ++ leBytes 1 (kOf c) ++ leBytes 1 (anum x) ++ leBytes 1 slot ++ leBytes 1 cause ++
    leBytes 1 0 ++ leBytes 2 cols ++ leBytes 2 first ++ leBytes 2 0 ++ leBytes 4 (s.versionOf x) ++
    leBytes 8 start ++ leBytes 8 fin
  let s := { s with exposures := (r :: s.exposures).take 64 }.inc64 Od.EXPOSURE_COUNT
  let s := s.event 0xA .mgmt r
  let s := forAll (s.versionTenants x) s fun s t => s.event 0xA (.tenant t) r
  s.clFault 8 c (anum x) cause r

/-- The sequence on an array ends with a status; the accumulator keeps what completed entries wrote (R73). -/
def State.endSeq (s : State) (x status : Nat) : State :=
  if s.seqState x = 0 then s else (s.setAr 0x27 1 x 0).setAr 0x27 3 x status

/-- A cluster without spare enters NO_SPARE once IDLE, with its event (Table CA-1). -/
def State.checkSpare (s : State) (c : Nat) : State :=
  if s.reg (Od.SPARE_A c) = 0xFF ∧ s.reg (Od.SPARE_B c) = 0xFF ∧ s.reg (Od.TRANSIT_STATE c) = 0 then
    (s.setReg (Od.TRANSIT_STATE c) 4).event 0xB .mgmt (beBytes 1 (dieOf c) ++ beBytes 1 (kOf c) ++ beBytes 2 0)
  else s

/-- The spares of a cluster are `a` and `b` (A numbers, FFh none), the lower first (Table CA-4); each keeps its rested
mark. -/
def State.setSpares (s : State) (c : Nat) (l : List (Nat × Bool)) : State :=
  let l := match l with
    | [p, q] => if q.1 < p.1 then [q, p] else [p, q]
    | l => l
  let g (i : Nat) : Nat × Bool := l.getD i (0xFF, false)
  ((s.setReg (Od.SPARE_A c) (g 0).1).setReg (Od.SPARE_B c) (g 1).1).setReg (Od.SPARES_RESTED c)
    ((if (g 0).2 then 1 else 0) + (if (g 1).2 then 2 else 0))

/-- The present spares with their rested marks. -/
def State.spares (s : State) (c : Nat) : List (Nat × Bool) :=
  ([s.reg (Od.SPARE_A c), s.reg (Od.SPARE_B c)].filter fun a => a ≠ 0xFF).map fun a => (a, s.isRested c a)

/-- The state that an array takes when it becomes ACTIVE or SHADOW: LEARNING (R81, R82). The bins of the running window stay (R80). -/
def State.armArray (s : State) (x : Nat) : State :=
  let s := s.setReg ⟨0x3026 + 0x100 * (x / 3264), 9, x % 3264⟩ 1
  s.modArray x fun u => { u with learned := 0, excursions := 0, envLow := [], envHigh := [] }

/-- The blocks of array `x` are now on array `y`. -/
def State.moveBlocks (s : State) (x y : Nat) : State :=
  { s with versions := s.versions.map fun (e : Nat × Version) => (e.1, { e.2 with
      blocks := e.2.blocks.map fun (b : Block) => if b.array = some x then { b with array := some y } else b }) }

/-- An array is retired (R53, R310): RETIRED, its sequence ended with ARRAY_RETIRED, its exposure record written; a
spare leaves the spares; the slot of an array in service goes to a spare that keeps its weights, at the next batch
boundary, or to the incoming array of its transit (Table CA-3), in every bank that binds it; the replacing spare learns its envelope
anew (R81). -/
def State.retireArray (s : State) (x cause cols first start fin : Nat) : State :=
  let c := acl x
  let a := anum x
  let was := s.arrState x
  let s := s.expose x cause cols first start fin
  let s := (s.setAr 0x21 1 x AS.RETIRED).endSeq x 4
  let s := s.modArray x fun u => { u with progRow := none, progBlock := none }
  let tst := s.reg (Od.TRANSIT_STATE c)
  let isInc := (1 ≤ tst ∧ tst ≤ 3) ∧ s.reg (Od.TRANSIT_INCOMING c) = a
  let isTgt := (1 ≤ tst ∧ tst ≤ 3) ∧ s.reg (Od.TRANSIT_TARGET c) = a
  let spare := (s.spares c).any fun p => p.1 == a
  let s := s.setSpares c ((s.spares c).filter fun p => p.1 ≠ a)
  let s := if isInc then s.transitIdle c else s
  let rebind (s : State) (b : Nat) : State := s.modCluster c fun k => { k with
    pendingSlots := (s.slotsOf x).foldl (fun p (e : Nat × Nat) => Store.set p (64 + 32 * e.1 + e.2) b) k.pendingSlots }
  let s := if spare || was != AS.ACTIVE || (s.slotsOf x).isEmpty then s
      else if isTgt && 2 ≤ tst then
        let inc := s.reg (Od.TRANSIT_INCOMING c)
        let s := rebind s inc
        let s := s.setSpares c ((s.spares c).filter fun p => p.1 ≠ inc)
        let s := (s.setReg (asObj c inc) AS.ACTIVE).setReg (Od.LAST_CLEAN_TIME (34 * c + inc)) s.now
        ((s.moveBlocks x (34 * c + inc)).armArray (34 * c + inc)).transitIdle c
      else
        let s := if isTgt then s.abandonTransit c else s
        match s.spares c with
        | [] => s
        | (b, _) :: _ =>
          let y := 34 * c + b
          let old := s.array x
          let s := s.modArray y fun u => { u with cells := old.cells, refs := old.refs, scales := old.scales }
          let s := forAll [3, 4, 5, 6] s fun s sub => s.setAr 0x21 sub y (s.ar 0x21 sub x)
          let s := s.setAr 0x27 8 y (s.tfsStep x)
          let s := (s.setAr 0x21 1 y AS.ACTIVE).armArray y
          let s := s.setSpares c ((s.spares c).filter fun p => p.1 ≠ b)
          rebind (s.moveBlocks x y) b
  let s := if (s.spares c).isEmpty && spare then s.abandonTransit c else s
  s.checkSpare c

/-! ## Slot maps -/

/-- Slot `slot` of bank `b` binds array `a`. -/
def Cluster.bind (k : Cluster) (b slot a : Nat) : Cluster :=
  if b = 0 then { k with slotMap0 := Store.set k.slotMap0 slot a } else { k with slotMap1 := Store.set k.slotMap1 slot a }

def Cluster.bound (k : Cluster) (b slot : Nat) : Nat := Store.get slot (if b = 0 then k.slotMap0 else k.slotMap1) slot

/-- No command is queued for an array (R52). -/
def ArrayU.idle (a : ArrayU) : Bool := a.cmds.isEmpty && a.q0.isEmpty && a.q1.isEmpty

/-! ## Drift (R57 to R59) -/

/-- A 16-bit object read as two's complement. -/
def int16 (v : Nat) : Int := if v < 0x8000 then (v : Int) else (v : Int) - 0x10000

/-- log10(max(te, 1 s)) of a time in ms, in units of 2^-40 (log entry 23). -/
def log10Ms (te : Nat) : Nat :=
  if te ≤ 1000 then 0
  else
    let e := Nat.log2 te
    let m := if e ≤ 60 then te * 2 ^ (60 - e) else te / 2 ^ (e - 60)
    (e * 2 ^ 40 + log2Bits 40 m 0) * 301029995663981195 / 1000000000000000000 - 3 * 2 ^ 40

/-- t_e of an array in ms: DRIFT_EQ_TIME as last set, and the equivalent time of its cluster since (R58, R59). -/
def State.driftTime (s : State) (x : Nat) : Nat :=
  s.ar 0x23 5 x + (Store.get 0 s.eqTime (acl x) - (s.array x).eqFrom) / 2 ^ 20

/-- DRIFT_EQ_TIME of an array is `te` from now on. -/
def State.setDrift (s : State) (x te : Nat) : State :=
  (s.setAr 0x23 5 x te).modArray x fun a => { a with eqFrom := Store.get 0 s.eqTime (acl x) }

/-- ν of Table AR-11 in thousandths of a level. -/
def driftNu (l : Nat) : Nat := if l < 4 then 5 else if l < 8 then 15 else if l < 12 then 25 else 35

/-- Level of a cell programmed to `l`, in 2^-20 level (R58): `lg` is log10(t_e ÷ 1 s) in 2^-40, `n` the cell's number. -/
def driftedLevel (lg l n : Nat) : Int :=
  (l * 2 ^ 20 : Nat) - ((driftNu l * lg / (1000 * 2 ^ 20)) * (838861 + Config.driftSpread n % 419430) / 2 ^ 20 : Nat)

/-- 2^(f ÷ 160) in 2^-60, for f below 160. -/
def exp2Step : Nat → Nat
  | 0 => 2 ^ 60
  | f + 1 => exp2Step f * 1157926990901404275 / 2 ^ 60

/-- The equivalent time at 85 °C of 2^16 ticks at `t` sixteenths of a degree, in 2^-20 ms (R58; log entry 98): the ticks' length
times 2^((T − 85) ÷ 10). -/
def eqTicks (t : Int) : Nat :=
  let k := t - 1360
  let e := exp2Step (k % 160).toNat * (2 ^ 16 * 2 ^ 20)
  (if 0 ≤ k / 160 then e * 2 ^ (k / 160).toNat else e / 2 ^ (-(k / 160)).toNat) / (212500 * 2 ^ 60)

/-! ## Bias (R413) -/

/-- Bias enters ON at the start of a command; its 64 clocks count from the command's end. -/
def ArrayU.biasOn (a : ArrayU) (clk : Nat) : ArrayU := { a with bias := 2, biasFrom := Nat.max a.biasFrom clk }

end Sys2Proof.Machine
end

