-- ==== Sys2Proof/Machine/ArrayCmd.lean ====
section
/-!
DEFINITION. The ARR instructions (Table IS-8, R154): MVM, TREAD, SEQ0 and SEQ6 place commands on their way to the queues
of the arrays that the slots bind, after the ceiling (R26), the queues (R41) and the buffers (R121) allow it.
-/
namespace Sys2Proof.Machine

/-- The encoding is legal (R154): a field that the KIND does not use is 0, SLOT is 0 with MS, SM is 0 without, and LC is
0 on strand 1. Kinds as in Table IS-8. -/
def arrLegal (kind : Nat) (st : Fin 2) (o : ArrOps) : Bool :=
  (if o.ms then o.slot == 0 else o.sm == 0) && !(o.lc && st == 1) &&
  (if kind ≤ 1 then true
   else o.rb == 0 && !o.fp32 && !o.lc && (kind == 2 || (o.ib == 0 && o.ext == 0)))

/-- The class of an issue that waits for the ceiling (R26): latency-critical serving, serving, TRAIN. -/
def arrClass (st : Fin 2) (lc : Bool) : Nat := if st = 1 then 2 else if lc then 0 else 1

/-- The promise deadline of the request that an issue works for (R26): of the context that the schedule assigns the read to, where it is
a request of the job in flight; no deadline else (log entry 116). -/
def State.issueDeadline (s : State) (j x : Nat) : Nat :=
  if s.reg (Od.CTX_JOB x) = j ∧ 1 ≤ s.reg (Od.CTX_STATE x) ∧ s.reg (Od.CTX_STATE x) ≤ 3 then s.reg (Od.CTX_NEXT_DEADLINE x)
  else 0xFFFFFFFFFFFFFFFF

/-- The class and deadline of the issue that a strand has waiting for the ceiling. -/
def Strand.ceilClass (t : Strand) : Option (Nat × Nat) :=
  match t.stall with
  | some (.ceiling _ c _ d) => some (c, d)
  | _ => none

/-- An issue of another strand on the die that waits for the ceiling goes first (R26). -/
def State.yieldsTo (s : State) (u cls d : Nat) : Bool :=
  s.strands.any fun (e : Nat × Strand) => e.1 != u && dieOf (clOf e.1) == dieOf (clOf u) &&
    (match e.2.ceilClass with
      | some c => decide (c.1 < cls) || (c.1 == cls && decide (c.2 < d))
      | none => false)

/-- The scheduled busy time of a command on array `x` (R236): the latency of a forward read, the phase times of a
transposed read; a sequence drives no scheduled phase. -/
def State.cmdBusy (s : State) (x kind ib ext : Nat) : Nat :=
  let a4 := (s.array x).inA4.mem ib
  if kind ≤ 1 then
    (readTiming (kind == 1) a4 (s.economy x)
      (schedPhases (kind == 1) (5 ≤ s.wfmt x) ext (s.budget x))).1
  else 0

/-- The result buffer that the command names has been read: no queued DMA of the strand still reads it (R121). -/
def State.readerPending (s : State) (u slot rb : Nat) : Bool :=
  let k := s.cluster (clOf u)
  (if stOf u = 0 then k.dma0 else k.dma1).any fun d =>
    decide (d.src < 0x400000 + 0x4000 * slot + 0x1000 * (rb + 1)) &&
      decide (0x400000 + 0x4000 * slot + 0x1000 * rb < d.src + d.len)

/-- Commands of the strand in or on the way to its queue of an array. -/
def ArrayU.queued (a : ArrayU) (st : Nat) : Nat :=
  (if st = 0 then a.q0.length else a.q1.length) + (a.cmds.filter fun c => stOf c.strand == st).length

/-- The command for one slot. -/
def State.sendArr (s : State) (i : Issue) (kind : Nat) (o : ArrOps) (n slot : Nat) : State :=
  s.modArray (s.slotArray i.u.num slot) fun a =>
    { a with cmds := a.cmds ++ [ArrCmd.mk i.u.num kind o.ib.val o.rb.val o.ext.val o.fp32 o.lc
      (s.clock i.ph.clk.val + 2 + n / 4)] }

/-- The issue of an array command of `kind` (R26, R41, R42, R121, R154). One that fits goes; among issues that wait the first of R26
goes first. A slot, or a buffer of it, that the strand's own
image does not assign to it is a tag mismatch, and the command is not made for that slot (R143). -/
def execArr (kind : Nat) (i : Issue) (o : ArrOps) (s : State) : Out :=
  if arrLegal kind i.u.st o then
    issueCtl i s (fun s => if o.ms then [(s.strand i.u.num).s o.sm] else []) fun s =>
      let u := i.u.num
      let t := s.strand u
      let named := if o.ms then maskSlots (t.s o.sm).val else [o.slot.val]
      let ok (k : Nat) : Bool := t.hasSlot k && (kind == 3 || t.owns k o.ib.val) && (2 ≤ kind || t.owns k (2 + o.rb.val))
      let slots := named.filter ok
      let xs := slots.map (s.slotArray u)
      let clk := s.clock i.ph.clk.val
      let cls := arrClass i.u.st o.lc
      let full := slots.filter fun k => 4 ≤ (s.array (s.slotArray u k)).queued i.u.st.val
      let reading := if kind ≤ 1 then slots.filter fun k => s.readerPending u k o.rb.val else []
      let busy := xs.foldl (fun a x => Nat.max a (s.cmdBusy x kind o.ib.val o.ext.val)) 0
      let new := (xs.filter fun x => !s.arrBusy x clk).length
      let due := s.issueDeadline (s.strandJob u) o.ctx
      let behind := t.ceilClass.isSome && s.yieldsTo u cls due
      if full ≠ [] then s.stallAt u (.arrFull full) (some 2)
      else if reading ≠ [] then s.stallAt u (.buffer reading) none
      else if new ≠ 0 && (behind || !s.fits i.u.cl.num i.u.st.val clk new busy) then
        s.stallAt u (.ceiling slots cls busy due) (some 3)
      else
        let s := forAll (named.filter fun k => !ok k) s fun s k =>
          s.tagFault u (0x400000 + 0x4000 * k) (s.strand u).tenant
        let s := (slots.foldl (fun (p : State × Nat) k => (p.1.sendArr i kind o p.2 k, p.2 + 1)) (s, 0)).1
        s.retire i
  else .refused .illegalEncoding

def execMvm (i : Issue) (o : ArrOps) (s : State) : Out := execArr 0 i o s
def execTread (i : Issue) (o : ArrOps) (s : State) : Out := execArr 1 i o s
def execSeq0 (i : Issue) (o : ArrOps) (s : State) : Out := execArr 2 i o s
def execSeq6 (i : Issue) (o : ArrOps) (s : State) : Out := execArr 3 i o s

/-! ## The end of stalls -/

/-- An array command, DMA descriptor or ring send of a strand is outstanding (R137). -/
def State.outstanding (s : State) (u : Nat) : Bool :=
  !(if stOf u = 0 then (s.cluster (clOf u)).dma0 else (s.cluster (clOf u)).dma1).isEmpty ||
  (s.arrays.any fun (e : Nat × ArrayU) => e.1 / 34 == clOf u &&
    (decide (0 < e.2.queued (stOf u)) || e.2.runs.any fun r => r.cmd.strand == u)) ||
  s.net.any fun m => m.src == u && m.srcMod == s.coord && decide (0 < m.how.left)

/-- What a stalled instruction waits for has come (R215: the awaited instruction can issue). -/
def State.stallOver (s : State) (u : Nat) : Bool :=
  let t := s.strand u
  let c := clOf u
  match t.stall with
  | none => true
  | some (.sync _ _ _ met) => met
  | some (.arrive _ met) => met
  | some (.tick target) => decide (target ≤ s.jobTime u)
  | some .dmaFull => decide ((if stOf u = 0 then (s.cluster c).dma0 else (s.cluster c).dma1).length < 8)
  | some .sendFull => decide (s.injecting (stopOf c) < 16)
  | some (.arrFull ks) => ks.all fun k => decide ((s.array (s.slotArray u k)).queued (stOf u) < 4)
  | some (.ceiling ks cls busy due) =>
    let clk := s.clock 0
    !s.yieldsTo u cls due && s.fits c (stOf u) clk ((ks.filter fun k => !s.arrBusy (s.slotArray u k) clk).length) busy
  | some (.buffer ks) => ks.all fun k =>
      let a := s.array (s.slotArray u k)
      !(a.resultPending 0 || a.resultPending 1) && !(a.inputPending 0 || a.inputPending 1)
  | some .boundary => !s.outstanding u

/-- The open requests of the strands of a cluster whose stall is over are withdrawn in this tick (R214, R215). -/
def State.stallsEnd (s : State) (c : Nat) : State :=
  forAll [2 * c, 2 * c + 1] s fun s u =>
    match (s.strand u).stall with
    | none => s
    | some _ => if s.stallOver u then s.withdraw (s.strandJob u) (some u) else s

end Sys2Proof.Machine
end

