-- ==== Sys2Proof/Machine/ArrayEngine.lean ====
section
/-!
DEFINITION. What an array does with the commands of its queues (R34 to R51, R66 to R69, R74, R307): entry into the queue,
start, phases, result, and the sequencer's list. Each event names the array and the clock of the tick; where its condition does not hold, nothing
happens.
-/
namespace Sys2Proof.Machine

/-! ## Sequences and queue entry -/

/-- The operation of a sequencer entry, and whether it is reserved (Table CV-5). -/
def seqOp (e : BitVec 64) : Nat := (e.extractLsb' 0 4).toNat
def seqFs (e : BitVec 64) : Nat := (e.extractLsb' 4 3).toNat
def seqDrive (e : BitVec 64) : Bool := e.getLsbD 10
def seqLast (e : BitVec 64) : Bool := e.getLsbD 9
def seqGroups (e : BitVec 64) : Nat := (e.extractLsb' 12 16).toNat
def seqPos (e : BitVec 64) : Nat := (e.extractLsb' 28 17).toNat
def seqRepeat (e : BitVec 64) : Nat :=
  let n := (e.extractLsb' 45 8).toNat
  if n = 0 then 256 else n
def seqDiscard (e : BitVec 64) : Bool := e.getLsbD 53
def seqOwpol (e : BitVec 64) : Nat := (e.extractLsb' 54 2).toNat
def seqPair (e : BitVec 64) : Nat := (e.extractLsb' 7 2).toNat

/-- A list entry from its fields (Table CV-4). -/
def seqWord (op fs pair groups pos rep : Nat) (last drive discard : Bool) : BitVec 64 :=
  BitVec.ofNat 64 (op + 2 ^ 4 * fs + 2 ^ 7 * pair + (if last then 2 ^ 9 else 0) + (if drive then 2 ^ 10 else 0) + 2 ^ 12 * groups +
    2 ^ 28 * pos + 2 ^ 45 * rep + (if discard then 2 ^ 53 else 0))

/-- The standard sequences of Table CV-8 as firmware keeps them at step `fs` (R77; log entry 102): 0 to 2 OFFSET, 3 to 5 GAIN, 6
TELEMETRY, 7 to 13 OPEN_WIRE. -/
def stdEntry (fs n : Nat) : BitVec 64 :=
  match n with
  | 0 => seqWord 3 fs 1 0xFFFF 0x1FFFF 16 false false false
  | 1 => seqWord 3 fs 2 0xFFFF 0x1FFFF 16 false false false
  | 2 => seqWord 1 fs 0 0xFFFF 0xFFFF 16 true false false
  | 3 => seqWord 4 fs 0 0xFFFF 0x10000 32 false true false
  | 4 => seqWord 1 fs 1 0xFFFF 0xFFFF 32 false true false
  | 5 => seqWord 1 fs 2 0xFFFF 0xFFFF 32 true true false
  | 6 => seqWord 6 fs 0 0 0 4 true false false
  | 7 => seqWord 1 fs 0 0xFFFF 0x1FFFF 1 false false true
  | 8 => seqWord 5 fs 0 0xFFFF 0x1FFFF 1 false false false
  | 13 => seqWord 5 fs 0 0xFFFF 0xFFFF 1 true false false
  | n => if n < 13 then seqWord 0 0 0 0 0 1 false false false else Config.fwEntry n

/-- RES bits of an entry read as 0 and are not kept (R12, Table CV-4). -/
def seqMask : BitVec 64 := 0x00FFFFFFFFFFF7FF

/-- A list entry (R70, R77): as last written; without a write, the standard sequence that firmware keeps while the cluster is READY or
in RETENTION, and OP 0h with LAST after the reset. -/
def State.seqEntry (s : State) (x n : Nat) : BitVec 64 :=
  match Store.get? (s.array x).seq n with
  | some e => e
  | none =>
    if s.reg (csObj (acl x)) = CS.READY ∨ s.reg (csObj (acl x)) = CS.RETENTION then stdEntry (s.fsStep x) n else 0x200

/-- The array is free for a sequence (R72): no command queued, no read in progress on it, not in programming. -/
def State.seqFree (s : State) (x : Nat) : Bool :=
  let a := s.array x
  a.idle && a.runs.isEmpty && !s.mirroring x && s.arrState x != AS.PROGRAMMING

/-- The sequence runs on: a reserved OP at its entry ends it with BAD_ENTRY (R70). -/
def State.seqCheck (s : State) (x : Nat) : State :=
  if s.seqState x = 1 ∧ 7 ≤ seqOp (s.seqEntry x (s.ar 0x27 2 x)) then s.endSeq x 2 else s

/-- A start is refused (R72, R83). -/
def State.seqRefused (s : State) (x : Nat) : Bool :=
  s.arrState x == AS.PROGRAMMING || s.arrState x == AS.RETIRED || s.seqState x != 0

/-- An accepted start at entry `n` (Table CV-6): RUNNING, or SUSPENDED while a command is queued or running. `ib`, `ext`: the input
buffer and row extent that an entry with DRIVE drives (R70, R154). -/
def State.seqBegin (s : State) (x n ib ext : Nat) : State :=
  let free := s.seqFree x
  let s := (s.setAr 0x27 2 x n).setAr 0x27 1 x (if free then 1 else 2)
  (s.modArray x fun a => { a with
    seqRep := 0, seqFound := 0, seqSkipped := false, seqOw := false, owLines := [], seqIb := ib, seqExt := ext }).seqCheck x

/-- Clocks that a running sequence delays a read at most (R74): for a latency-critical one 1 to release the sense lines and 4 where
the entry's FS differs from the array's step, for another 24. -/
def State.seqDelay (s : State) (x : Nat) (tread lc : Bool) : Nat :=
  if lc then
    let step := if tread then s.tfsStep x else s.fsStep x
    if seqFs (s.seqEntry x (s.ar 0x27 2 x)) = step then 1 else 5
  else 24

/-- A command that reaches the array suspends a running sequence (R73, R74): at the end of a conversion for a latency-critical read,
else at the end of a repetition. The sense lines are the sequence's until clock `held`. -/
def State.suspendSeq (s : State) (x : Nat) (lc : Bool) (held : Nat) : State :=
  if s.seqState x = 1 then
    ((s.setAr 0x27 1 x 2).bumpAr 0x24 (if lc then 6 else 7) x 1).modArray x fun a => { a with seqHeld := held }
  else s

/-- Programming takes the array: a running sequence is suspended until it is over (R72; log entry 101). -/
def State.haltSeq (s : State) (x : Nat) : State := if s.seqState x = 1 then s.setAr 0x27 1 x 2 else s

/-- A latency-critical serving read. -/
def ArrCmd.urgent (c : ArrCmd) : Bool := c.lc && decide (c.kind ≤ 1) && stOf c.strand == 0

/-- ARRAY_QUEUE_ENTRY (R41): the earliest command on its way enters the queue of its strand. `late`: the clocks for which a sequence
that it suspends keeps the sense lines, at most those of R74. A latency-critical read that enters in the same clock decides how the
sequence suspends (R76). -/
def execArrayQueueEntry (x : ArrayId) (clk : Fin 8) (late : Nat) (s : State) : Out :=
  let a := s.array x.num
  match a.cmds.find? fun c => decide (c.clock ≤ s.clock clk.val) with
  | none => .next s
  | some c =>
    let lc := c.urgent || a.cmds.any fun d => d.urgent && d.clock == c.clock
    let s := s.suspendSeq x.num lc (c.clock + Nat.min late (s.seqDelay x.num (c.kind == 1) lc))
    .next (s.modArray x.num fun a =>
      let a := { a with cmds := a.cmds.erase c }
      if stOf c.strand = 0 then { a with q0 := a.q0 ++ [c] } else { a with q1 := a.q1 ++ [c] })

/-! ## Capture (R33, R34, R36, R47, R48) -/

/-- Activation `r` of an input buffer. -/
def ArrayU.act (a : ArrayU) (ib : Nat) (a4 : Bool) (r : Nat) : Int :=
  if a4 then
    let b := Store.get 0 a.inBytes (0x1000 * ib + r / 2)
    (if r % 2 = 0 then b.extractLsb' 0 4 else b.extractLsb' 4 4 : BitVec 4).toInt
  else (Store.get 0 a.inBytes (0x1000 * ib + r)).toInt

def ArrayU.blockExp (a : ArrayU) (ib b : Nat) : Nat := (Store.get 0 a.inBytes (0x1000 * ib + 1024 + b)).toNat

/-- x ÷ 2^d to the nearest integer, ties to even; 0 for a shift of 8 (A8) or 4 (A4) and more (R34). -/
def realign (a4 : Bool) (d : Nat) (v : Int) : Int :=
  if (if a4 then 4 else 8) ≤ d then 0 else rneDivInt v (2 ^ d)

/-- The captured input: realigned activations, E_max, a NaN exponent, poison, and activations realigned to 0. -/
def ArrayU.capture (a : ArrayU) (ib : Nat) (a4 : Bool) (n : Nat) : List Int × Nat × Bool × Bool × Nat :=
  let nb := (n + 31) / 32
  let exps := (List.range nb).map (a.blockExp ib)
  let emax := exps.foldl Nat.max 0
  let raw := (List.range n).map (a.act ib a4)
  let al := (List.range n).map fun r => realign a4 (emax - exps.getD (r / 32) 0) (raw.getD r 0)
  let bytes := if a4 then n / 2 else n
  let poison := (List.range ((bytes + 3) / 4)).any (fun w => a.inPoison.mem (0x400 * ib + w)) ||
    (List.range ((nb + 3) / 4)).any fun w => a.inPoison.mem (0x400 * ib + 256 + w)
  (al, emax, exps.contains 0xFF, poison, ((raw.zip al).filter fun p => p.1 != 0 && p.2 == 0).length)

/-- The mirror of a forward read of a transit's target (R307): the incoming array, if the ceiling has room. -/
def State.mirrorOf (s : State) (x clk : Nat) : Option Nat × Bool :=
  let c := acl x
  if s.reg (Od.TRANSIT_STATE c) = 2 ∧ s.reg (Od.TRANSIT_TARGET c) = anum x then
    let y := 34 * c + s.reg (Od.TRANSIT_INCOMING c)
    let d := dieOf c
    if s.quarters clk (s.dieArrays d) + (if s.arrBusy y clk then 0 else 4) ≤ 4 * s.reg (Od.CEILING_NOW d) then
      (some y, false)
    else (none, true)
  else (none, false)

/-- The start of a read (R34, R36, R40 to R43, R47 to R51). A read of an array that is not ACTIVE counts as MVM_READS and
POISONED_READS and drives and converts nothing (log entry 103). A serving read that waits for a TRAIN phase captures its input and
holds the start of the next command from its own start clock; its latency counts from the end of that phase (log entry 104). A read
that finds the sense lines with a suspended sequence is later by what is left of them (R74). -/
def State.startRead (s : State) (x : Nat) (c : ArrCmd) (clk : Nat) : State :=
  let a := s.array x
  let tread := c.kind == 1
  let wide : Bool := 5 ≤ s.wfmt x
  let a4 := a.inA4.mem c.ib
  let act := s.arrState x == AS.ACTIVE
  let cap := a.capture c.ib a4 (readExtent tread wide c.ext)
  let n := (cap.1.filter (· != 0)).length
  let b := s.budget x
  let p := (n + b - 1) / b
  let phases := if !act then 0 else if tread && wide then 2 * p else p
  let ps := schedPhases tread wide c.ext b
  let tm := readTiming tread a4 (s.economy x) ps
  let waits := stOf c.strand = 0 ∧ a.phaseTrain = true ∧ clk < a.phaseEnd
  let begin_ := if waits then a.phaseEnd else clk
  let m := if act && !tread && n != 0 then s.mirrorOf x clk else (none, false)
  let late := a.seqHeld - clk
  let run : ArrRun := ⟨c, a4, begin_, cap.1, cap.2.1, cap.2.2.2.1, cap.2.2.1, !act, phases, 0,
    (begin_ + tm.1 + late + 7) / 8, List.replicate 1024 0, m.1, [], []⟩
  let s := (s.bumpAr 0x22 1 x 1).bumpAr 0x24 5 x (if late = 0 then 0 else 1)
  let s := if act then s.bumpAr 0x22 6 x cap.2.2.2.2 else s
  let s := if act && n == 0 then s.bumpAr 0x22 4 x 1 else s
  let s := if waits then s.bumpAr 0x22 8 x 1 else s
  let s := if !act || cap.2.2.1 || cap.2.2.2.1 then s.bumpAr 0x22 9 x 1 else s
  let s := if 2 ≤ phases then s.bumpAr 0x22 3 x 1 else s
  let s := if m.2 then s.bump Od.SHADOW_SKIPS 1 else s
  let s := match m.1 with
    | some y => s.modArray y fun a => a.biasOn (clk + tm.1)
    | none => s
  s.modArray x fun a =>
    let a := { a with runs := a.runs ++ [run] }
    let a := a.biasOn (clk + tm.1)
    if stOf c.strand = 0 then { a with free0 := clk + tm.2 } else { a with free1 := clk + tm.2 }

/-- ARRAY_COMMAND_START (R41, R51, R128): the head of the queue of strand `st` starts, once the previous command of the
queue has run its scheduled cadence and driven its phases. A converter sequence takes the place of a read; where R72
refuses it, nothing changes. -/
def execArrayCommandStart (x : ArrayId) (st : Fin 2) (clk : Fin 8) (s : State) : Out :=
  let a := s.array x.num
  let t := s.clock clk.val
  match (if st = 0 then a.q0 else a.q1) with
  | [] => .next s
  | c :: rest =>
    let free := if st = 0 then a.free0 else a.free1
    let open_ := a.runs.any fun r => stOf r.cmd.strand == st.val && decide (r.next < r.phases)
    if t < c.clock ∨ t < free ∨ open_ = true then .next s
    else
      let s := s.modArray x.num fun a => if st = 0 then { a with q0 := rest } else { a with q1 := rest }
      let s := if c.kind ≤ 1 then s.startRead x.num c t
        else if s.seqRefused x.num then s
        else s.seqBegin x.num (if c.kind = 2 then 0 else 6) (if c.kind = 2 then c.ib else 0) (if c.kind = 2 then c.ext else 31)
      .next (s.stallsEnd x.cl.num)

/-! ## Phases (R35, R44, R49, R62 to R69) -/

/-- The slices of a phase: weight, and the driven lines with their signed slice values (R35). -/
def slices (a4 : Bool) (l : List (Nat × Int)) : List (Nat × List (Nat × Int)) :=
  let cut (f : Nat → Nat) : List (Nat × Int) :=
    (l.map fun p => (p.1, if p.2 < 0 then -(f p.2.natAbs : Int) else (f p.2.natAbs : Int))).filter fun p => p.2 != 0
  if a4 then [(1, cut fun m => m)] else [(16, cut fun m => m / 16), (1, cut fun m => m % 16)]

/-- The reference level of a column (Table AR-2): REF0 for the low column of a W5–W8 pair, else REF8. -/
def refLevel (wide : Bool) (c : Nat) : Int := if wide && c % 2 == 1 then 0 else 8

def ArrayU.level (a : ArrayU) (r c : Nat) : Nat := (Store.get 0 a.cells (1024 * r + c)).toNat

/-- The level of the reference cell of a row: `k` is 2g for REF8 and 2g + 1 for REF0 of group g. -/
def ArrayU.refAt (a : ArrayU) (r k : Nat) : Nat := (Store.get 0 a.refs (32 * r + k)).toNat

/-- log10 of the array's t_e in 2^-40 (R58). -/
def State.driftLog (s : State) (x : Nat) : Nat := log10Ms (s.driftTime x)

/-- The level of a cell now in 2^-20, drift included (R58). -/
def State.cellNow (s : State) (x lg r c : Nat) : Int := driftedLevel lg ((s.array x).level r c) (1056 * 1024 * x + 1056 * r + c)

/-- The level of a reference cell now in 2^-20 (R58). -/
def State.refNow (s : State) (x lg r k : Nat) : Int := driftedLevel lg ((s.array x).refAt r k) (1056 * 1024 * x + 1056 * r + 1024 + k)

/-- The reference cell of a column (Table AR-2). -/
def refOf (wide : Bool) (c : Nat) : Nat := 2 * (c / 64) + (if wide && c % 2 == 1 then 1 else 0)

/-- 160,000 times the factor by which conductance has moved with temperature since the verify (R57): −0.15 % per °C. -/
def State.tempFactor (s : State) (x : Nat) : Int :=
  160000 - 15 * (int16 (s.reg (Od.SENSOR_TEMP (acl x))) - int16 (s.reg (Od.VERIFY_TEMP x)))

/-- The sum of a column over driven rows, in 2^-20 ÷ 160,000 level-units: cells less reference cells, with drift and temperature
(R44, R57, R58). -/
def State.colSum (s : State) (x : Nat) (wide : Bool) (lg : Nat) (l : List (Nat × Int)) (c : Nat) : Int :=
  l.foldl (fun t p => t + p.2 * (s.cellNow x lg p.1 c - s.refNow x lg p.1 (refOf wide c))) (0 : Int) * s.tempFactor x

/-- The sum of a row over driven columns: every driven cell adds its level and half a level (R49, R65), and the row its conductance
offset (log entry 99). -/
def State.rowSum (s : State) (x lg : Nat) (l : List (Nat × Int)) (r : Nat) : Int :=
  l.foldl (fun t p => t + p.2 * (s.cellNow x lg r p.1 + 2 ^ 19)) (0 : Int) * s.tempFactor x +
    l.foldl (fun t p => t + p.2) (0 : Int) * Config.condOffset (1024 * x + r) * 2 ^ 19 * 160000

/-- The correction entry in force of line and path `p` of an array: OFFSET and GAIN (R67). -/
def State.corr (s : State) (x p : Nat) : Int × Nat :=
  (int16 (s.reg ⟨0x3029 + 0x100 * (x / 3264), 2, 4096 * (x % 3264) + p⟩),
   s.reg ⟨0x3029 + 0x100 * (x / 3264), 3, 4096 * (x % 3264) + p⟩)

/-- The raw code of a conversion at step `k` of a sum in 2^-20 ÷ 160,000 level-units, read noise included (R44, R57, R66). -/
def rawCode (k : Nat) (d : Int) (n : Nat) : Int :=
  let c := rneDivInt (d + Config.noise n * (2 ^ 16 * 160000)) (2 ^ k * (2 ^ 20 * 160000))
  if c < -512 then -512 else if 511 < c then 511 else c

/-- The corrected value and whether the sample is clipped (R67, R68), by the entry that was in force when the read started (R313): `held`
has those that have changed since. -/
def State.convert (s : State) (held : Store (Int × Nat)) (x p k : Nat) (d : Int) (n : Nat) : Int × Bool :=
  let c := rawCode k d n
  let e := Store.get (s.corr x p) held p
  let v := rneDivInt ((c * (16 * 2 ^ k : Nat) - e.1) * e.2) (16 * 2 ^ k * 16384)
  (if 511 < v then 511 else if v < -511 then -511 else v, c == -512 || c == 511 || decide (511 < v ∨ v < -511))

/-- The correction line of a column on the path that converts it (R62). -/
def colPath (eco : Bool) (c : Nat) : Nat := if eco || c % 2 == 0 then c else 1024 + c

/-- The samples of one slice of a forward read; an undriven slice delivers 0 (R69). -/
def State.fwdSlice (s : State) (held : Store (Int × Nat)) (x : Nat) (l : List (Nat × Int)) (n : Nat) : List (Int × Bool) :=
  let wide : Bool := 5 ≤ s.wfmt x
  let lg := s.driftLog x
  (List.range 1024).map fun c =>
    if l.isEmpty then (0, false)
    else s.convert held x (colPath (s.economy x) c) (s.fsStep x) (s.colSum x wide lg l c) (n + c)

/-- The samples of one slice of a transposed read (R49, R65). -/
def State.rowSlice (s : State) (held : Store (Int × Nat)) (x : Nat) (l : List (Nat × Int)) (n : Nat) : List (Int × Bool) :=
  let lg := s.driftLog x
  (List.range 1024).map fun r =>
    if l.isEmpty then (0, false) else s.convert held x (2048 + r) (s.tfsStep x) (s.rowSum x lg l r) (n + r)

/-- Bin of a sample: |v|, and 7 for every clipped one (Table CV-9). -/
def binOf (v : Int × Bool) : Nat :=
  let m := v.1.natAbs
  if v.2 then 7 else if m = 0 then 0 else if m ≤ 3 then 1 else if m ≤ 15 then 2 else if m ≤ 63 then 3 else if m ≤ 127 then 4
  else if m ≤ 255 then 5 else if m ≤ 510 then 6 else 7

/-- Clocks from the start of a phase to the delivery of the sample of column `c` (Tables AR-5 and CV-2); `second`: the low slice of an
A8 phase. -/
def deliveredAt (eco second : Bool) (c : Nat) : Nat :=
  if eco then 22 + (if second then 16 else 0) + c % 16 else 22 + (if second then 8 else 0) + c % 16 / 2

/-- The samples of a slice by monitor window and bin; a sample counts in the window in which it is delivered (R80). -/
def ArrayU.addBins (a : ArrayU) (eco second : Bool) (clk : Nat) (vs : List (Int × Bool)) : ArrayU :=
  { a with bins := ((List.range vs.length).zip vs).foldl (fun b (p : Nat × Int × Bool) =>
      let k := 8 * ((clk + deliveredAt eco second p.1) / 0x80000) + binOf p.2
      Store.set b k (Store.get 0 b k + 1)) a.bins }

/-- The counts of one slice: conversions, clipped samples, zero samples of a driven slice, and, for a serving forward
read, the range-monitor bins (R68, R69, R80). -/
def State.countSlice (s : State) (x : Nat) (tread serving driven second : Bool) (clk : Nat) (vs : List (Int × Bool)) : State :=
  let s := s.bumpAr 0x24 (if tread then 2 else 1) x 1024
  let s := s.bumpAr 0x24 3 x (vs.filter fun v => v.2).length
  let s := if driven then s.bumpAr 0x24 4 x (vs.filter fun v => v.1 == 0).length else s
  if serving && !tread then s.modArray x fun a => a.addBins (s.economy x) second clk vs else s

/-- One pair of the shadow comparator (R307). -/
def PairSum.add (p : PairSum) (lim : Nat) (a b : Int) : PairSum :=
  { n := p.n + 1, sa := p.sa + a, sb := p.sb + b, saa := p.saa + a * a, sab := p.sab + a * b,
    lo := if p.n = 0 ∨ a < p.lo then a else p.lo,
    hi := if p.n = 0 ∨ p.hi < a then a else p.hi,
    dis := p.dis + (if lim < (a - b).natAbs then 1 else 0) }

/-- The pairs of one driven slice (R307). -/
def State.addPairs (s : State) (x : Nat) (vs ws : List (Int × Bool)) : State :=
  let lim := (s.cluster (acl x)).transitSet.lsb
  let eco := s.economy x
  let s := s.bump Od.SHADOW_PAIRS 1024
  let put (t : Store PairSum) (c : Nat) : Store PairSum :=
    let p := colPath eco c
    Store.set t p ((Store.get ⟨0, 0, 0, 0, 0, 0, 0, 0⟩ t p).add lim (vs.getD c (0, false)).1 (ws.getD c (0, false)).1)
  s.modCluster (acl x) fun k => { k with pairs := (List.range 1024).foldl put k.pairs }

/-- One slice of a forward phase of run `r`: samples, counts, the mirror's samples and pairs; the weighted samples are
added to the accumulated columns (R45). -/
def State.fwdStep (s : State) (x : Nat) (r : ArrRun) (clk : Nat) (p : Nat × List (Nat × Int)) (acc : List Int) : State × List Int :=
  let serving := stOf r.cmd.strand == 0
  let second := !r.a4 && p.1 == 1
  let vs := s.fwdSlice r.held x p.2 s.freeN
  let s := s.spend 1024
  let s := s.countSlice x false serving (!p.2.isEmpty) second clk vs
  let s := match r.mirror with
    | none => s
    | some y =>
      let ws := s.fwdSlice r.heldMirror y p.2 s.freeN
      let s := s.spend 1024
      let s := s.countSlice y false serving (!p.2.isEmpty) second clk ws
      if p.2.isEmpty then s else s.addPairs x vs ws
  (s, (acc.zip vs).map fun q => q.1 + p.1 * q.2.1 * (2 ^ s.fsStep x : Nat))

/-- One slice of a transposed phase; `nib` is the weight of the driven nibble. The combine subtracts the reference level with the base
term and the calibrated conductance offset, from the realigned inputs (R49). -/
def State.rowStep (s : State) (held : Store (Int × Nat)) (x nib : Nat) (wide : Bool) (p : Nat × List (Nat × Int)) (acc : List Int) :
    State × List Int :=
  let vs := s.rowSlice held x p.2 s.freeN
  let s := s.spend 1024
  let s := s.countSlice x true false (!p.2.isEmpty) false 0 vs
  let base := p.2.foldl (fun t q => t + q.2 * (2 * refLevel wide q.1 + 1)) (0 : Int)
  let sum := p.2.foldl (fun t q => t + q.2) (0 : Int)
  (s, ((List.range 1024).zip (acc.zip vs)).map fun q =>
    q.2.1 + nib * p.1 * (2 * q.2.2.1 * (2 ^ s.tfsStep x : Nat) - base - Config.condOffset (1024 * x + q.1) * sum))

/-- The next phase of a run. -/
def State.drive (s : State) (x : Nat) (r : ArrRun) (clk : Nat) : State :=
  let tread := r.cmd.kind == 1
  let wide : Bool := 5 ≤ s.wfmt x
  let b := s.budget x
  let nz := ((List.range r.acts.length).zip r.acts).filter fun p => p.2 != 0
  let half := (nz.length + b - 1) / b
  let low := tread && wide && decide (half ≤ r.next)
  let chunk := (nz.drop (b * (if low then r.next - half else r.next))).take b
  let chunk := if tread && wide then chunk.map fun p => (2 * p.1 + (if low then 1 else 0), p.2) else chunk
  let nib := if tread && wide && !low then 16 else 1
  let out := (slices r.a4 chunk).foldl (fun (q : State × List Int) p =>
    if tread then q.1.rowStep r.held x nib wide p q.2 else q.1.fwdStep x r clk p q.2) (s, r.acc)
  let s := out.1.bumpAr 0x22 2 x 1
  let s := if tread then s.bumpAr 0x22 5 x 1 else s
  let tm := fwdTiming r.a4 (s.economy x)
  let next := if tread then clk + transTime r.a4 else clk + tm.2.1
  let conv := if tread then clk + transTime r.a4 else clk + tm.2.2
  let vis := Nat.max r.visible (((clk + (if tread then transTime r.a4 else tm.1)) + 7) / 8)
  let r' := { r with next := r.next + 1, acc := out.2, visible := vis }
  let s := match r.mirror with
    | some y => s.modArray y fun a => { a with convEnd := Nat.max a.convEnd conv }
    | none => s
  s.modArray x fun a => { a with
    runs := a.runs.map (fun q => if q = r then r' else q),
    phaseEnd := next, phaseTrain := stOf r.cmd.strand == 1, convEnd := Nat.max a.convEnd conv }

/-- ARRAY_PHASE_START (R51): at a phase boundary the serving read with phases left drives its next phase, else the TRAIN
read. -/
def execArrayPhaseStart (x : ArrayId) (clk : Fin 8) (s : State) : Out :=
  let a := s.array x.num
  let t := s.clock clk.val
  if t < a.phaseEnd then .next s
  else
    let pick (st : Nat) : Option ArrRun := a.runs.find? fun r => stOf r.cmd.strand == st && decide (r.next < r.phases)
    match pick 0 with
    | some r => .next (s.drive x.num r t)
    | none =>
      match pick 1 with
      | some r => .next (s.drive x.num r t)
      | none => .next s

/-! ## Results (R31, R45 to R49) -/

/-- The logical outputs of a run before the limit of R45: the nibble combine of a W5–W8 forward read, and the one
rounding of a transposed read. -/
def combine (tread wide : Bool) (acc : List Int) : List Int :=
  if tread then acc.map fun v => rneDivInt v 2
  else if wide then (List.range 512).map fun j => 16 * acc.getD (2 * j) 0 + acc.getD (2 * j + 1) 0
  else acc

def psumMax : Int := 8388607

/-- The 24-bit limit. -/
def clamp24 (v : Int) : Int := if psumMax < v then psumMax else if v < -psumMax then -psumMax else v

/-- A result word (R46): INT32, or FP32 with the exponent and, for a forward read, the column scale. -/
def resultWord (fp32 tread : Bool) (emax : Nat) (scale : BitVec 16) (v : Int) : Word :=
  if fp32 then
    let sc := if tread then FV.int 1 else FFmt.fp16.decode scale.toNat
    if v = 0 ∨ sc.isZero then 0
    else ((FV.ofInt v ((emax : Int) - 127)).mul sc).to32
  else BitVec.ofInt 32 v

/-- ARRAY_RESULT_AVAILABLE (R41, R43, R45 to R47): the first read whose phases are driven and whose tick has come is
written to its result buffer. -/
def execArrayResultAvailable (x : ArrayId) (s : State) : Out :=
  let a := s.array x.num
  match a.runs.find? fun r => decide (r.phases ≤ r.next ∧ r.visible ≤ s.now) with
  | none => .next s
  | some r =>
    let tread := r.cmd.kind == 1
    let wide : Bool := 5 ≤ s.wfmt x.num
    let vs := combine tread wide r.acc
    let clamps := (vs.filter fun v => clamp24 v != v).length
    let poison := r.inactive || r.poison || (r.nan && !r.cmd.fp32)
    let n0 := s.freeN
    let word (j : Nat) : PWord :=
      if r.inactive then ⟨Config.freeWord (n0 + j), true⟩
      else if r.nan && r.cmd.fp32 then ⟨0x7FC00000, r.poison⟩
      else ⟨resultWord r.cmd.fp32 tread r.emax (Store.get 0 a.scales j) (clamp24 (vs.getD j 0)), poison⟩
    let s := s.spend 1024
    let s := if r.inactive then s else s.bumpAr 0x22 7 x.num clamps
    let s := s.modArray x.num fun a =>
      let a := { a with runs := a.runs.erase r }
      (List.range vs.length).foldl (fun a j => a.putResult r.cmd.rb j (word j)) a
    .next (s.stallsEnd x.cl.num)

end Sys2Proof.Machine
end

