-- ==== Sys2Proof/Machine/Converter.lean ====
section
/-!
DEFINITION. The converter sequencer and the range monitor (R70 to R83). One operation command runs one repetition of the
entry at SEQ_PC; the codes of the array's lines follow from its cells and carry read noise, those of the monitor nodes are free
values (log entry 15), and what an open-wire entry converts on each line is the command's physical input.
-/
namespace Sys2Proof.Machine

/-- The array holds a block of a sealed version (R444). -/
def State.sealedArray (s : State) (x : Nat) : Bool :=
  s.versions.any fun (e : Nat × Version) => s.reg (Od.VER_SEALED e.1) == 1 && s.reg (Od.VER_STATE e.1) != 0 &&
    e.2.blocks.any fun b => b.array == some x

/-- SEQ_START (R72, R73, R76, R83). -/
def wrSeqStart (x v : Nat) (s : State) : Wr :=
  if 31 < v then noW s Code.RANGE_CONFLICT
  else if s.sealedArray x then noW s Code.LOCKED
  else if s.seqRefused x then badState s (s.seqState x)
  else okW (s.seqBegin x v 0 31)

def execSeqStart (n : Nat) (x : ArrayId) (v : BitVec 8) (s : State) : Out :=
  s.write n (s.isOp n) (wrSeqStart x.num v.toNat)

/-- SEQ_ABORT (R73). -/
def wrSeqAbort (x : Nat) (v : Bool) (s : State) : Wr := okW (if v then s.endSeq x 1 else s)

def execSeqAbort (n : Nat) (x : ArrayId) (v : Bool) (s : State) : Out := s.write n (s.isOp n) (wrSeqAbort x.num v)

/-- SEQ_ENTRY: the entry that the session selected (R83, R444). -/
def wrSeqEntry (x e : Nat) (v : BitVec 64) (s : State) : Wr :=
  if s.sealedArray x then noW s Code.LOCKED
  else if s.seqState x ≠ 0 then badState s (s.seqState x)
  else okW (s.modArray x fun a => { a with seq := Store.set a.seq e (v &&& seqMask) })

def execSeqEntry (n : Nat) (x : ArrayId) (e : Fin 32) (v : BitVec 64) (s : State) : Out :=
  s.write n (s.isOp n) (wrSeqEntry x.num e.val v)

/-- SEQ_RESUME: a suspended sequence runs again once both queues are empty and no command is in progress (R75). -/
def execSeqResume (x : ArrayId) (s : State) : Out :=
  if s.seqState x.num = 2 ∧ s.seqFree x.num = true then .next ((s.setAr 0x27 1 x.num 1).seqCheck x.num)
  else .next s

/-! ## Operations -/

/-- The lines that a column entry converts, as (column line, path B) (Table CV-1, R62, R71): interleaved, the even positions on
converter A and the odd ones on B; with PAIR 01b or 10b all on A or on B; with the reserved 11b as `both` says (log entry 134). An array
in economy mode, whose converter B has no power, converts on path B all the same (log entry 105). Position 16 carries REF8 on pair 4g
and REF0 on pair 4g + 1. -/
def colLines (e : BitVec 64) (pos : Nat) (both : Bool) : List (Nat × Bool) :=
  (List.range 64).flatMap fun p =>
    if (seqGroups e).testBit (p / 4) then
      (List.range 17).filterMap fun j =>
        if pos.testBit j then
          let b := if seqPair e = 0 then j % 2 == 1 else if seqPair e = 1 then false else if seqPair e = 2 then true else both
          let line := if j < 16 then some (16 * p + j) else if p % 4 = 0 then some (1024 + 2 * (p / 4))
            else if p % 4 = 1 then some (1024 + 2 * (p / 4) + 1) else none
          line.map fun l => (l, b)
        else none
    else []

/-- The rows that a row entry converts. -/
def rowLines (e : BitVec 64) : List Nat :=
  (List.range 64).flatMap fun q =>
    if (seqGroups e).testBit (q / 4) then
      (List.range 16).filterMap fun j => if (seqPos e).testBit j then some (16 * q + j) else none
    else []

/-- The place of a line in the calibration accumulator (R71): 1056 column lines on path A, 1056 on path B, 1024 rows, 8 nodes. -/
def accLine (l : Nat × Bool) : Nat := if l.2 then 1056 + l.1 else l.1

/-- The place in the accumulator of the line and path that CORR_SEL numbers `p` (R67, Table CV-10). -/
def calLine (p : Nat) : Nat := if p < 1024 then p else if p < 2048 then 1056 + (p - 1024) else 2112 + (p - 2048)

/-- The rows that an entry drives in a repetition: with DRIVE the input buffer's vector as one A8 phase over the row extent, none
without (Table CV-4). Which of the phase's two slices a conversion reads is a free value (log entry 106). -/
def State.seqDriven (s : State) (x : Nat) (e : BitVec 64) (n : Nat) : List (Nat × Int) :=
  if seqDrive e then
    let a := s.array x
    let acts := (a.capture a.seqIb false (32 * (a.seqExt + 1))).1
    let l := ((List.range acts.length).zip acts).filter fun p => p.2 != 0
    ((slices false l).getD (Config.freeNat n % 2) (1, [])).2
  else []

/-- The code of a column or reference line at the entry's full-scale step (R44, R66, R71): the driven rows through the line's cells, no
reference taken from a reference line; its inputs tied to their reference, 0 (ZERO_REF). -/
def State.colCode (s : State) (x : Nat) (e : BitVec 64) (l : List (Nat × Int)) (line n : Nat) : Int :=
  let lg := s.driftLog x
  let d := if seqOp e = 3 then 0
    else if line < 1024 then s.colSum x (5 ≤ s.wfmt x) lg l line
    else l.foldl (fun t p => t + p.2 * s.refNow x lg p.1 (line - 1024)) (0 : Int) * s.tempFactor x
  rawCode (seqFs e) d n

/-- The codes of one repetition enter the sums of their lines, cleared as the entry starts (R71); with DEST they are discarded. -/
def ArrayU.accumulate (a : ArrayU) (e : BitVec 64) (codes : List (Nat × Int)) : ArrayU :=
  if seqDiscard e then a
  else
    let t := if a.seqRep = 0 then codes.foldl (fun t c => Store.set t c.1 0) a.calAcc else a.calAcc
    { a with calAcc := codes.foldl (fun t c => Store.set t c.1 (Store.get 0 t c.1 + c.2)) t }

/-- The status at the end of a sequence (Table CV-6, R78, R79). -/
def ArrayU.seqResult (a : ArrayU) : Nat := if a.seqFound ≠ 0 then 5 else if a.seqSkipped then 3 else 0

/-- An array for which a sequence ends with OPEN_FOUND is retired (R79, R310). -/
def State.openFound (s : State) (x : Nat) : State :=
  s.retireArray x 2 (s.ar 0x28 2 x + s.ar 0x28 3 x) (s.ar 0x28 4 x)
    (s.array x).cleanBefore (s.array x).leftActive

/-- The entry ends: the next one, or the end of the sequence after LAST or entry 31 (R70). -/
def State.nextEntry (s : State) (x : Nat) : State :=
  let pc := s.ar 0x27 2 x
  let a := s.array x
  let s := s.modArray x fun a => { a with seqRep := 0 }
  if seqLast (s.seqEntry x pc) || pc == 31 then
    let s := s.endSeq x a.seqResult
    if a.seqResult = 5 then s.openFound x else s
  else (s.setAr 0x27 2 x (pc + 1)).seqCheck x

/-- One repetition ends. -/
def State.nextRep (s : State) (x : Nat) : State :=
  let a := s.array x
  if a.seqRep + 1 < seqRepeat (s.seqEntry x (s.ar 0x27 2 x)) then s.modArray x fun a => { a with seqRep := a.seqRep + 1 }
  else s.nextEntry x

/-- A repetition of the entry at SEQ_PC, if the sequence runs there and its operation is `op`; no entry starts in a drain (R408,
Table PW-6) or while the die relocks (R410). -/
def seqRun (op : Nat) (x : ArrayId) (s : State) (act : BitVec 64 → State → State) : Out :=
  let e := s.seqEntry x.num (s.ar 0x27 2 x.num)
  if s.seqState x.num = 1 ∧ seqOp e = op ∧ (s.gated (acl x.num) = false ∨ 0 < (s.array x.num).seqRep) then .next ((act e s).nextRep x.num) else .next s

/-- A repetition that converts the entry's column lines. -/
def State.senseCols (s : State) (x : Nat) (e : BitVec 64) (pos : Nat) : State :=
  let n := s.freeN
  let lines := colLines e pos (Config.freeBool n)
  let l := s.seqDriven x e n
  let codes := (List.range lines.length).map fun k =>
    let p := lines.getD k (0, false)
    (accLine p, s.colCode x e l p.1 (n + 1 + k))
  { s.modArray x fun a => a.accumulate e codes with freeN := n + 1 + lines.length }

/-- A repetition that converts the entry's rows: a drive of the rows leaves the row lines without a column's current. -/
def State.senseRows (s : State) (x : Nat) (e : BitVec 64) : State :=
  let rows := rowLines e
  let codes := (List.range rows.length).map fun k => (2112 + rows.getD k 0, rawCode (seqFs e) 0 (s.freeN + k))
  { s.modArray x fun a => a.accumulate e codes with freeN := s.freeN + rows.length }

/-- A free signed code. -/
def freeCode (n : Nat) : Int := (Config.freeNat n % 1024 : Nat) - 512

/-- A repetition that converts the 8 monitor nodes (Table CV-5). -/
def State.senseNodes (s : State) (x : Nat) (e : BitVec 64) : State :=
  let codes := (List.range 8).map fun k => (3136 + k, freeCode (s.freeN + k))
  { s.modArray x fun a => a.accumulate e codes with freeN := s.freeN + 8 }

def execSeqNop (x : ArrayId) (s : State) : Out := seqRun 0 x s fun _ s => s

def execSenseCol (x : ArrayId) (s : State) : Out := seqRun 1 x s fun e s => s.senseCols x.num e (seqPos e)

def execSenseRow (x : ArrayId) (s : State) : Out := seqRun 2 x s fun e s => s.senseRows x.num e

def execZeroRef (x : ArrayId) (s : State) : Out := seqRun 3 x s fun e s => s.senseCols x.num e (seqPos e)

def execRefCol (x : ArrayId) (s : State) : Out := seqRun 4 x s fun e s => s.senseCols x.num e 0x10000

def execBiasMon (x : ArrayId) (s : State) : Out := seqRun 6 x s fun e s => s.senseNodes x.num e

/-- An OPEN_WIRE entry skipped on an array in another state than SPARE or FREE (R78). -/
def State.skipWire (s : State) (x : Nat) : State :=
  ((s.setAr 0x27 3 x 3).modArray x fun a => { a with seqSkipped := true }).nextEntry x

/-- An OPEN_WIRE entry selects a line (Table CV-4): its group and position; position 16 is a reference line's, and an entry with it
tests columns, not rows (log entry 107). Lines are numbered as OW_FIRST_LINE numbers them. -/
def wireSelected (e : BitVec 64) (l : Nat) : Bool :=
  if l < 1024 then (seqGroups e).testBit (l / 64) && (seqPos e).testBit (l % 16)
  else if l < 1056 then (seqGroups e).testBit ((l - 1024) / 2) && (seqPos e).testBit 16
  else if 2048 ≤ l ∧ l < 3072 then
    (seqGroups e).testBit ((l - 2048) / 64) && (seqPos e).testBit (l % 16) && !(seqPos e).testBit 16
  else false

/-- G_exp of a line in nS (R78): the nominal conductances G(l) = 500 + 1000 l of its cells at their targets, a row's reference cells
among them. -/
def ArrayU.nominal (a : ArrayU) (l : Nat) : Nat :=
  let g (v : Nat) : Nat := 500 + 1000 * v
  if l < 1024 then (List.range 1024).foldl (fun t r => t + g (a.level r l)) 0
  else if l < 2048 then (List.range 1024).foldl (fun t r => t + g (a.refAt r (l - 1024))) 0
  else (List.range 1024).foldl (fun t c => t + g (a.level (l - 2048) c)) 0 + (List.range 32).foldl (fun t k => t + g (a.refAt (l - 2048) k)) 0

/-- The open-wire test reports a line (R78): stuck where a conversion returned a rail code; open where 4 µA ÷ (V_up − V_down) lies below
G_exp × (1 − OW_THRESHOLD), tested with OWPOL 00b only (the reserved 11b tests as 01b and 10b do, log entry 108). -/
def State.wireFaulty (s : State) (x : Nat) (e : BitVec 64) (m : WireMeas) : Bool :=
  m.rail || (seqOwpol e == 0 &&
    decide (4000000000000 * 65536 < (s.array x).nominal m.line * m.dv * (65536 - s.reg (Od.OW_THRESHOLD (x / 3264)))))

/-- One repetition of an OPEN_WIRE entry over what it measured (R78, R79): a line counts once in a sequence, the first one is
OW_FIRST_LINE. -/
def State.openLines (s : State) (x : Nat) (e : BitVec 64) (ms : List WireMeas) : State :=
  let s := if (s.array x).seqOw then s
    else (((s.setAr 0x28 2 x 0).setAr 0x28 3 x 0).setAr 0x28 4 x 0xFFFF).modArray x fun a => { a with seqOw := true, owLines := [] }
  let found := (ms.filter fun m => wireSelected e m.line && s.wireFaulty x e m).map WireMeas.line
  let new := found.foldl (fun l k => if (s.array x).owLines.contains k || l.contains k then l else l ++ [k]) []
  let s := (s.setAr 0x28 2 x (s.ar 0x28 2 x + (new.filter (· < 2048)).length)).setAr 0x28 3 x
    (s.ar 0x28 3 x + (new.filter (2048 ≤ ·)).length)
  let s := match new with
    | [] => s
    | l :: _ => if s.ar 0x28 4 x = 0xFFFF then s.setAr 0x28 4 x l else s
  let s := s.setAr 0x28 1 x s.now
  s.modArray x fun a => { a with seqFound := a.seqFound + new.length, owLines := a.owLines ++ new }

/-- OPEN_WIRE (R78, R79). `ms`: what the two conversions of each line give. -/
def execOpenWire (x : ArrayId) (ms : List WireMeas) (s : State) : Out :=
  let e := s.seqEntry x.num (s.ar 0x27 2 x.num)
  if s.seqState x.num = 1 ∧ seqOp e = 5 ∧ s.arrState x.num ≠ AS.SPARE ∧ s.arrState x.num ≠ AS.FREE then
    .next (s.skipWire x.num)
  else seqRun 5 x s fun e s => s.openLines x.num e ms

/-! ## The range monitor (R80 to R82) -/

/-- Bound of bin `b` in the ENVELOPE object: low in [15:0], high in [31:16]. -/
def State.envelope (s : State) (x b : Nat) : Nat × Nat :=
  (s.ar 0x26 (b + 1) x % 0x10000, s.ar 0x26 (b + 1) x / 0x10000)

/-- The envelope learned from the smallest and largest fraction of each bin (R81). -/
def ArrayU.learnedBound (a : ArrayU) (b : Nat) : Nat × Nat :=
  let lo := Store.get 0 a.envLow b
  let hi := Store.get 0 a.envHigh b
  if hi = 0 then (0, 64) else (lo / 2, Nat.min 0xFFFF (2 * hi))

/-- A judged window in LEARNING (R81). -/
def State.learn (s : State) (x : Nat) (fr : List Nat) : State :=
  let upd (a : ArrayU) (b : Nat) : ArrayU :=
    let f := fr.getD b 0
    { a with
      envLow := Store.set a.envLow b (if a.learned = 0 then f else Nat.min f (Store.get 0 a.envLow b))
      envHigh := Store.set a.envHigh b (if a.learned = 0 then f else Nat.max f (Store.get 0 a.envHigh b)) }
  let s := s.modArray x fun a => (List.range 8).foldl upd a
  let s := s.modArray x fun a => { a with learned := a.learned + 1 }
  if (s.array x).learned < s.reg (Od.ENV_LEARN_WINDOWS (x / 3264)) then s
  else
    let a := s.array x
    let s := forAll (List.range 8) s fun s b =>
      s.setAr 0x26 (b + 1) x ((a.learnedBound b).1 + 0x10000 * (a.learnedBound b).2)
    s.setAr 0x26 9 x 2

/-- A judged window of an armed array (R82): an excursion counts and goes to firmware as a RANGE_EXCURSION event. -/
def State.judgeWindow (s : State) (x : Nat) (fr : List Nat) : State :=
  let bad := (List.range 8).any fun b =>
    let e := s.envelope x b
    decide (fr.getD b 0 < e.1) || (e.2 != 0xFFFF && decide (e.2 < fr.getD b 0))
  if bad then
    let s := (s.bumpAr 0x24 8 x 1).modArray x fun a => { a with excursions := a.excursions + 1 }
    let s := { s with excursionEvents := x :: s.excursionEvents }
    if s.reg (Od.ENV_ALARM_COUNT (x / 3264)) ≤ (s.array x).excursions then s.setAr 0x26 9 x 3 else s
  else s.modArray x fun a => { a with excursions := 0 }

/-- MONITOR_WINDOW_END: at a multiple of 2^16 of the count, the window before it is latched and judged (R80). -/
def execMonitorWindowEnd (x : ArrayId) (s : State) : Out :=
  if s.now % 0x10000 ≠ 0 then .next s
  else
    let a := s.array x.num
    let w := s.now / 0x10000 - 1
    let cnt (b : Nat) : Nat := Store.get 0 a.bins (8 * w + b)
    let total := (List.range 8).foldl (fun t b => t + cnt b) 0
    let fr := (List.range 8).map fun b => cnt b * 0x10000 / Nat.max 1 total
    let s := forAll (List.range 8) s fun s b => s.setAr 0x25 (b + 1) x.num (cnt b % 0x100000000)
    let s := s.modArray x.num fun a => { a with bins := Store.keep a.bins fun k => w < k / 8 }
    if total < 16384 then .next s
    else
      let s := s.bumpAr 0x24 9 x.num 1
      .next (if s.ar 0x26 9 x.num = 1 then s.learn x.num fr
        else if s.ar 0x26 9 x.num = 2 then s.judgeWindow x.num fr else s)

end Sys2Proof.Machine
end

