-- ==== Sys2Proof/Machine/Net.lean ====
section
/-!
DEFINITION. Messages of the die network: packing (R102, R103), headers and flits (R169, R170), the port queue (R129), reduction on the
way (R176 to R179), injection (R173), and what a landing message does to sync objects (R230, R232).
-/
namespace Sys2Proof.Machine

/-! ## Packing (R102, R103) -/

/-- An element fits a nibble: F8h to FFh or 01h to 07h; every 4-bit element does (Table NF-7). -/
def nibbleFits (four : Bool) (e : Nat) : Bool := four || e ≤ 7 || 0xF8 ≤ e

/-- Elements of a block as numbers: bytes, or the nibbles of 16 bytes. -/
def packElems (four : Bool) (bs : List Byte) : List Nat :=
  if four then bs.flatMap fun b => [b.toNat % 16, b.toNat / 16] else bs.map fun b => b.toNat

def nibbles : List Nat → List Byte
  | a :: b :: t => BitVec.ofNat 8 (a % 16 + 16 * (b % 16)) :: nibbles t
  | [a] => [BitVec.ofNat 8 (a % 16)]
  | [] => []

/-- The record of one block (Table NF-7): the shortest that represents it, ZERO_RUN apart. A block with a poisoned exponent is sent with
every word poisoned (log entry 120). -/
def packBlock (four : Bool) (bs : List (Byte × Bool)) (exp : Byte × Bool) : List Byte :=
  let es := packElems four (bs.map Prod.fst)
  let mask := (List.range 32).foldl (fun m i => if es.getD i 0 = 0 then m else m + 2 ^ i) 0
  let nz := es.filter fun e => e ≠ 0
  let n := nz.length
  let dense := bs.map Prod.fst
  let pm := if exp.2 then 255
    else (List.range 8).foldl (fun m i => if ((bs.drop (4 * i)).take 4).any (·.2) then m + 2 ^ i else m) 0
  let exp := exp.1
  if pm ≠ 0 then [4, exp, BitVec.ofNat 8 pm] ++ dense
  else if (nz.all fun e => nibbleFits four e) && decide (6 + (n + 1) / 2 ≤ 2 + dense.length) then
    [1, exp] ++ leBytes 4 mask ++ nibbles nz
  else if !four && decide (6 + n ≤ 2 + dense.length) then
    [2, exp] ++ leBytes 4 mask ++ nz.map fun e => BitVec.ofNat 8 e
  else [3, exp] ++ dense

/-- Blocks as records: runs of all-zero blocks of one exponent, up to 256, become one ZERO_RUN. `run`: the run so far. -/
def packBlocks (four : Bool) : Option (Nat × Byte) → List (List (Byte × Bool) × (Byte × Bool)) → List Byte
  | none, [] => []
  | some (n, e), [] => [0, BitVec.ofNat 8 (n - 1), e]
  | run, (bs, e) :: t =>
    if !e.2 && bs.all fun b => b.1 == 0 && !b.2 then
      match run with
      | some (n, e') =>
        if e' = e.1 ∧ n < 256 then packBlocks four (some (n + 1, e.1)) t
        else [0, BitVec.ofNat 8 (n - 1), e'] ++ packBlocks four (some (1, e.1)) t
      | none => packBlocks four (some (1, e.1)) t
    else
      (match run with
        | some (n, e') => [0, BitVec.ofNat 8 (n - 1), e']
        | none => []) ++ packBlock four bs e ++ packBlocks four none t

/-- The blocks of a payload, and whether they have exponents: one exponent byte each where its length is a multiple of 33 (17 for 4-bit
elements), none where it is a multiple of 32 (16), else the payload has no blocks (log entry 21). -/
def payloadBlocks (four : Bool) (bs : List (Byte × Bool)) : Option (Bool × List (List (Byte × Bool) × (Byte × Bool))) :=
  let e := if four then 16 else 32
  let n := bs.length
  if n % (e + 1) = 0 then
    some (true, (List.range (n / (e + 1))).map fun i =>
      let b := (bs.drop (i * (e + 1))).take (e + 1)
      ((b.take e), (b.getD e (0, false))))
  else if n % e = 0 then some (false, (List.range (n / e)).map fun i => ((bs.drop (i * e)).take e, (0, false)))
  else none

/-- Bytes as words, least significant byte first (R11), the last word filled up with zeros; a word is poisoned where a byte of it is. -/
def wordsOf (bs : List (Byte × Bool)) : List PWord :=
  (List.range ((bs.length + 3) / 4)).map fun k =>
    let g (b : Nat) : Byte × Bool := bs.getD (4 * k + b) (0, false)
    PWord.mk ((g 3).1 ++ (g 2).1 ++ (g 1).1 ++ (g 0).1) ((g 0).2 || (g 1).2 || (g 2).2 || (g 3).2)

/-- The payload as carried: packed where PACK asks for it and the records are not longer than elements and exponents (R103). -/
def packPayload (auto : Bool) (pack : Nat) (ws : List PWord) : List PWord × Carried :=
  let plain : List PWord × Carried := (ws, { Carried.plain (4 * ws.length) with auto := auto })
  if pack = 0 then plain
  else match payloadBlocks (pack == 2) (ws.flatMap PWord.bytes) with
    | none => plain
    | some (exps, bs) =>
      let p := packBlocks (pack == 2) none bs
      if bs.length * ((if pack = 2 then 16 else 32) + 1) < p.length then plain
      else (wordsOf (p.map fun b => (b, false)), { Carried.plain p.length with auto := auto, pack := pack, exps := exps })

/-- The 32 elements of a sparse record: the nonzero ones in ascending order at the places of the mask. -/
def spread (mask : Nat) (els : List Nat) : List Nat :=
  (List.range 32).map fun i => if mask.testBit i then els.getD ((List.range i).filter mask.testBit).length 0 else 0

/-- The elements of a record as the block's bytes: 32, or 16 of two nibbles each. -/
def blockBytes (four : Bool) (els : List Nat) : List (Byte × Bool) :=
  let full := els ++ List.replicate (32 - els.length) 0
  (if four then nibbles full else full.map (BitVec.ofNat 8)).map fun b => (b, false)

/-- A record at the front of packed bytes (Table NF-7): the blocks it describes and what follows; none where it is invalid or cut
short. FLAGS[7:3] is RES and ignored (log entry 120). -/
def unpackRecord (four : Bool) (l : List Byte) : Option (List (List (Byte × Bool) × (Byte × Bool)) × List Byte) :=
  let e := if four then 16 else 32
  match l with
  | [] => none
  | f :: t =>
    let kind := f.toNat % 8
    let mask := leNat (slice t 1 4)
    let n := ((List.range 32).filter mask.testBit).length
    match kind, t with
    | 0, c :: x :: r => some (List.replicate (c.toNat + 1) (List.replicate e (0, false), (x, false)), r)
    | 1, x :: r =>
      let b := (n + 1) / 2
      if r.length < 4 + b then none
      else
        let ns := ((slice r 4 b).flatMap fun v => [v.toNat % 16, v.toNat / 16]).take n
        let es := if four then ns else ns.map fun v => if v < 8 then v else v + 0xF0
        some ([(blockBytes four (spread mask es), (x, false))], r.drop (4 + b))
    | 2, x :: r =>
      if four ∨ r.length < 4 + n then none
      else some ([(blockBytes false (spread mask ((slice r 4 n).map fun v => v.toNat)), (x, false))], r.drop (4 + n))
    | 3, x :: r => if r.length < e then none else some ([((r.take e).map fun b => (b, false), (x, false))], r.drop e)
    | 4, x :: m :: r =>
      if r.length < e then none
      else
        let bad (i : Nat) : Bool := m.getLsbD (i / 4)
        some ([((List.range e).map fun i => (r.getD i 0, bad i), (x, m == 255))], r.drop e)
    | _, _ => none

/-- The blocks of packed bytes; none where a record is invalid. `fuel`: at least one byte for each record. -/
def unpackBlocks (four : Bool) : Nat → List Byte → Option (List (List (Byte × Bool) × (Byte × Bool)))
  | _, [] => some []
  | 0, _ => none
  | fuel + 1, l => match unpackRecord four l with
    | none => none
    | some (bs, r) => (unpackBlocks four fuel r).map fun rest => bs ++ rest

/-- The payload that lands (R102, R103, R171): unpacked, with every word poisoned where a record is invalid, and also where a carried
word came poisoned (log entry 120). An invalid payload lands as it was carried. -/
def NetMsg.unpacked (m : NetMsg) : List PWord :=
  if m.how.pack = 0 then m.payload
  else
    let four := m.how.pack == 2
    let poison (ws : List PWord) : List PWord := ws.map fun w => PWord.mk w.val true
    match unpackBlocks four (m.how.len + 1) (((m.payload.flatMap PWord.bytes).take m.how.len).map Prod.fst) with
    | none => poison m.payload
    | some bs =>
      let ws := wordsOf (bs.flatMap fun b => if m.how.exps then b.1 ++ [b.2] else b.1)
      if m.payload.any fun w => w.poison then poison ws else ws

/-! ## Headers and flits (R169, R170, Tables DN-4, DN-5) -/

/-- The identifier of a message: source die, source position (0 on port dies and HB) and counter (Table DN-4). -/
def NetMsg.mid (m : NetMsg) : Nat := m.how.stop / 128 % 32 + 32 * (m.how.stop % 128) + 4096 * (m.how.count % 16)

/-- Die and cluster of an end as DDIE/DCL and SDIE/SCL code them, with the strand. -/
def endField (x : Nat) : Nat :=
  if x < 0x10000 then dieOf (clOf x) + 32 * kOf (clOf x) + 4096 * stOf x else x - 0x10000

/-- The four header words of a message whose destination end on this module is `dst` (Table DN-5). -/
def NetMsg.header (m : NetMsg) (dst : Nat) : List Word :=
  let data := decide (m.type ≤ 2)
  let sync := m.type == 3 || m.type == 4
  [BitVec.ofNat 32 (endField dst + 0x2000 * (if data then m.chan % 16 else 0) + 0x20000 * (if sync then m.obj % 64 else 0) +
      0x800000 * (m.type % 16) + 0x8000000 * m.how.pack),
    BitVec.ofNat 32 (endField m.src + 0x10000 * (if m.src < 0x10000 ∨ data ∨ sync then m.tenant % 1024 else 0)),
    BitVec.ofNat 32 ((m.how.len - 1) % 0x10000 + 0x10000 * (if m.type = 1 ∨ m.type = 2 then m.rgid % 0x10000 else m.part)),
    m.value]

/-- A flit: 64 bytes of data as 16 words with their tags, and the sideband of Table DN-4. -/
structure Flit where
  words : List PWord
  vc : Nat
  head : Bool
  tail : Bool
  mid : Nat
  deriving DecidableEq, Repr

/-- Even parity over the 32 bits of a word (R123). -/
def parityBit (w : Word) : Bool := (List.range 32).foldl (fun a i => a != w.getLsbD i) false

/-- PAR and PSN of a flit. -/
def Flit.par (f : Flit) : Nat := (List.range 16).foldl (fun a i => if parityBit (f.words.getD i PWord.zero).val then a + 2 ^ i else a) 0
def Flit.psn (f : Flit) : Nat := (List.range 16).foldl (fun a i => if (f.words.getD i PWord.zero).poison then a + 2 ^ i else a) 0

/-- The sideband as a number of 51 bits. -/
def Flit.sideband (f : Flit) : Nat :=
  f.par + 2 ^ 16 * f.psn + 2 ^ 32 * f.vc + 2 ^ 33 * f.head.toNat + 2 ^ 34 * f.tail.toNat + 2 ^ 35 * f.mid

/-- Words of flit `f` of a payload: 12 in the head flit, 16 in the others (R169). -/
def flitWords (f : Nat) (ws : List PWord) : List PWord :=
  if f = 0 then ws.take 12 else (ws.drop (12 + 16 * (f - 1))).take 16

/-- Words filled up with zeros to a number. -/
def fill (n : Nat) (ws : List PWord) : List PWord := ws ++ List.replicate (n - ws.length) PWord.zero

/-- The flits of a message on the way to `dst`. -/
def NetMsg.flits (m : NetMsg) (vc dst : Nat) : List Flit :=
  let n := if vc = 1 then 1 else dieFlits m.how.len
  (List.range n).map fun i =>
    let ws := flitWords i m.payload
    ⟨if i = 0 then (m.header dst).map (PWord.mk · false) ++ fill 12 ws else fill 16 ws, vc, i == 0, i + 1 == n, m.mid⟩

/-- The payload words that a receiver puts together from the flits of one MID, in order (R170). -/
def reassemble (mid : Nat) (fs : List Flit) : List PWord :=
  (fs.filter fun f => f.mid == mid).flatMap fun f => if f.head then f.words.drop 4 else f.words

/-! ## The port queue and the order of messages (R129, R173) -/

/-- Message `m` may not overtake `e`: same source and destination, and the same channel on the same ring of VC0 where AUTO chose neither
ring, or the same type of VC1 (R173, R230). -/
def NetMsg.before (e m : NetMsg) : Bool :=
  e.src == m.src && e.srcMod == m.srcMod && e.dst == m.dst &&
    (if m.type ≤ 2 then decide (e.type ≤ 2) && !m.how.auto && !e.how.auto && e.chan == m.chan && e.ring == m.ring
     else e.type == m.type)

/-- No message before message `k` in flight must land first (R173, R230). -/
def State.inOrder (s : State) (k : Nat) (m : NetMsg) : Bool := !(s.net.take k).any fun e => e.before m

/-- The message has left its source stop whole and, at its cluster, the port queue is empty or has its flits at the front (R129). -/
def State.atPort (s : State) (m : NetMsg) : Bool :=
  m.how.left == 0 && match (s.cluster (clOf m.dst)).port with
    | [] => true
    | h :: _ => h == m.mid

/-- Message `k` in flight leaves the die network: its flits leave the port queue. -/
def State.take (s : State) (k : Nat) : State :=
  match s.net[k]? with
  | none => s
  | some m =>
    let s := { s with net := s.net.eraseIdx k }
    if m.dst < 0x10000 ∧ (s.cluster (clOf m.dst)).port ≠ [] then
      s.modCluster (clOf m.dst) fun c => { c with port := c.port.dropWhile (· == m.mid) }
    else s

/-- Messages are discarded in flight; their flits leave the port queues. -/
def State.dropMsgs (s : State) (gone : NetMsg → Bool) : State :=
  let ms := s.net.filter fun m => !gone m
  { s with
    net := ms
    clusters := s.clusters.map fun (e : Nat × Cluster) => (e.1, { e.2 with
      port := e.2.port.filter fun x => ms.any fun m => decide (m.dst < 0x10000) && clOf m.dst == e.1 && m.mid == x }) }

/-- With a tick, a message that its source stop has sent whole may have reached the port queue of its cluster: up to 16 entries, the rest
stays on the ring (R129). Which messages arrive in a tick is free (log entry 123). -/
def State.tickPort (s : State) (k : Nat) : State :=
  match s.net[k]? with
  | none => s
  | some m =>
    let q := (s.cluster (clOf m.dst)).port
    if 0x10000 ≤ m.dst ∨ m.how.left ≠ 0 ∨ q.contains m.mid ∨ 16 ≤ q.length ∨
        ((s.net.take k).any fun e => e.before m && !q.contains e.mid) = true then s
    else if Config.freeBool s.freeN then
      (s.modCluster (clOf m.dst) fun c =>
        { c with port := c.port ++ List.replicate (Nat.min (16 - c.port.length) (dieFlits m.how.len)) m.mid }).spend 1
    else s.spend 1

/-! ## Reduction -/

/-- The group of a job with an RGID. -/
def State.group (s : State) (j rgid : Nat) : Option Group := (s.job j).groups.find? fun g => g.rgid == rgid

/-- The key of merge point `i` of a group: RGIDs have 16 bits (Table DN-5). -/
def mergeKey (j rgid i : Nat) : Nat := 0x10000000000 * j + 0x1000000 * rgid + i

def State.merge (s : State) (j rgid i : Nat) : MergeRun := Store.get MergeRun.new s.merges (mergeKey j rgid i)
def State.setMerge (s : State) (j rgid i : Nat) (r : MergeRun) : State :=
  { s with merges := Store.set s.merges (mergeKey j rgid i) r }

/-- Flit `f` of message `n` stands at input `src`. -/
def addFlit (l : List MergeIn) (src n f now : Nat) (ws : List PWord) : List MergeIn :=
  if l.any fun e => e.src == src && e.num == n then
    l.map fun e => if e.src = src ∧ e.num = n then { e with flits := Store.set e.flits f (now, ws) } else e
  else l ++ [⟨src, n, [(f, (now, ws))]⟩]

/-- Input `src` delivers flit `f` of its message to merge point `i`: discarded where the point has forwarded that flit already
(R179). -/
def State.mergeIn (s : State) (j rgid i src f : Nat) (ws : List PWord) : State :=
  let r := s.merge j rgid i
  let n := if f = 0 then Store.get 0 r.delivered src else Store.get 0 r.delivered src - 1
  let r := if f = 0 then { r with delivered := Store.set r.delivered src (n + 1) } else r
  if n < r.fwd ∨ (n = r.fwd ∧ f < r.flit) then s.setMerge j rgid i r
  else s.setMerge j rgid i { r with waiting := addFlit r.waiting src n f (s.jobNow j) ws }

/-- A whole message at an input of a merge point. -/
def State.mergeMsg (s : State) (j rgid i src : Nat) (m : NetMsg) : State :=
  forAll (List.range (dieFlits m.how.len)) s fun s f => s.mergeIn j rgid i src f (flitWords f m.payload)

/-- The place of a rank. -/
def State.place (s : State) (j k : Nat) : Place := (s.job j).ranks.getD k ⟨s.coord, 0⟩

/-- The message of stream `src` of a group, with the header of its lowest-ranked contributor; never packed (R171). -/
def State.reduceMsg (s : State) (j : Nat) (g : Group) (src : Nat) (ws : List PWord) : NetMsg :=
  let t := s.job j
  let p := s.place j (g.lead src)
  ⟨if g.fp then 2 else 1, p.coord, t.strandOf p, t.strandOf (s.place j g.dst), g.rgid % 4, g.chan, 0, 0,
    s.reg (Od.JOB_TENANT j), j, g.rgid, 0, BitVec.ofNat 32 g.dst, ws, Carried.plain (4 * ws.length)⟩

/-- The place of the die network from which stream `src` goes on: its contributor's stop or its merge point. -/
def State.streamAt (s : State) (j : Nat) (g : Group) (src : Nat) : Nat × Nat :=
  if src < 0x1000000 then endOf (2 * (s.place j src).cl)
  else match g.points[src - 0x1000000]? with
    | some p => (p.node / 128, p.node % 128)
    | none => (0, 0)

/-- Flit `f` of stream `src` of a group goes on into its next merge point, if that is on this module. -/
def State.reduceFlit (s : State) (j : Nat) (g : Group) (src f : Nat) (ws : List PWord) : State :=
  match g.into src with
  | some (i, p) => if p.mod = s.coord then s.mergeIn j g.rgid i src f ws else s
  | none => s

/-- Stream `src` of a group has sent a whole message on: to its next merge point on this module, or over the fabric, or to the
destination. -/
def State.reduceEnd (s : State) (j : Nat) (g : Group) (src : Nat) (ws : List PWord) : State :=
  let d := s.place j g.dst
  let m := s.reduceMsg j g src ws
  let n := dieFlits m.how.len
  let a := s.streamAt j g src
  let r := s.numbered (nodeOf a.1 a.2) d.coord m
  let away : State :=
    let pf := pfOf (((s.jobBox j).hops s.coord d.coord).getD 0 0)
    (r.1.carry j false a (pf, 100) m.ring 0 n).fabInject (s.fabHeader j 0 d.coord { r.2 with srcMod := s.coord })
  match g.into src with
  | some (_, p) => if p.mod = s.coord then s.carry j false a (p.node / 128, p.node % 128) m.ring 0 n else away
  | none =>
    if d.coord = s.coord then { r.1.carry j false a (endOf m.dst) m.ring 0 n with net := s.net ++ [r.2] } else away

/-! ## Injection (R162, R173) -/

/-- The group of a contribution that its source stop is sending. -/
def State.contribution (s : State) (m : NetMsg) : Option Group :=
  if (m.type = 1 ∨ m.type = 2) ∧ 0 < m.how.left then s.group m.job m.rgid else none

/-- The source stop may inject flits of message `m`: one that it has begun, or one of a strand that may issue (Table IS-10). -/
def State.mayInject (s : State) (m : NetMsg) : Bool :=
  decide (0 < m.how.left) && (decide (m.how.left < dieFlits m.how.len) ||
    !(s.strandState m.src == SS.HELD || s.strandState m.src == SS.FROZEN))

/-- The source stop injects the next `f` flits of message `k`: those of a contribution reach its first merge point as they come. -/
def State.inject (s : State) (k f : Nat) (m : NetMsg) : State :=
  let first := dieFlits m.how.len - m.how.left
  let m' := { m with how := { m.how with left := m.how.left - f } }
  let s := s.bump ⟨0x3052 + 0x100 * (m.how.stop / 128), 1, 0⟩ f
  let s := { s with net := if m.how.left ≤ f then s.net.eraseIdx k else s.net.set k m' }
  match s.contribution m with
  | some g =>
    let s := forAll (List.range f) s fun s i => s.reduceFlit m.job g (s.rankOf m.src) (first + i) (flitWords (first + i) m.payload)
    if m.how.left ≤ f then s.reduceEnd m.job g (s.rankOf m.src) m.payload else s
  | none => if m.how.left ≤ f then s.goOff 0 m' else s

/-- A source stop injects up to `n` flits on a ring: one for each ring clock (R130). -/
def State.injectRing (s : State) (stop ring : Nat) : Nat → Nat → State
  | 0, _ => s
  | fuel + 1, n =>
    match s.net.findIdx? (fun m => m.how.stop == stop && m.ring == ring && s.mayInject m) with
    | none => s
    | some k => match s.net[k]? with
      | none => s
      | some m =>
        let f := Nat.min n m.how.left
        if f = 0 then s else (s.inject k f m).injectRing stop ring fuel (n - f)

/-- What the source stops inject in a tick of 8 clocks: 8 flits on each ring, 4 at a ring clock ratio of 1:2. -/
def State.tickInject (s : State) : State :=
  let n := 8 / Nat.max 1 (s.reg Od.RING_DIV)
  let qs := ((s.net.filter fun m => decide (0 < m.how.left)).map fun m => (m.how.stop, m.ring)).eraseDups
  forAll qs s fun s q => s.injectRing q.1 q.2 n n

/-! ## Sync objects (R227 to R233) -/

/-- An update of object `b` of cluster `c`: the value, then every wait on it is evaluated and its result latched (R229);
a wait whose condition is met can issue from here on, so its open hold request is withdrawn (R215). -/
def State.syncUpdate (s : State) (c b : Nat) (v : Word) : State :=
  let s := s.setReg (syObj c b 3) v.toNat
  forAll [2 * c, 2 * c + 1] s fun s u =>
    match (s.strand u).stall with
    | some (.sync o eq tgt met) =>
      if o = b ∧ (met = true ∨ (if eq then v = tgt else tgt ≤ v)) then
        (s.modStrand u fun t => { t with stall := some (.sync o eq tgt true), idleOffered := false }).withdraw (s.strandJob u) (some u)
      else s
    | _ => s

/-- The value of an object. -/
def State.syncVal (s : State) (c b : Nat) : Word := BitVec.ofNat 32 (s.reg (syObj c b 3))

/-- The object is OWNED by strand `st` (Table SY-1). -/
def State.owned (s : State) (c b st : Nat) : Bool := s.reg (syObj c b 1) == 1 && s.reg (syObj c b 2) == st

/-- A notify object counts one: 63 names none (R155, R157). -/
def State.notify (s : State) (u b : Nat) : State :=
  let c := clOf u
  if b < 48 ∧ s.owned c b (stOf u) then s.syncUpdate c b (s.syncVal c b + 1) else s

/-- A sync or constellation message is discarded (Table SY-1): SYNC_DISCARDS counts. -/
def State.syncDrop (s : State) (m : NetMsg) : State := s.bump (syCnt (clOf m.dst) 3) 1

/-- A SYNC_ADD is discarded (R230): counted, and firmware receives the SYNC_DISCARD event. -/
def State.syncDiscard (s : State) (m : NetMsg) : State :=
  { s.syncDrop m with syncDiscards := (m.src, m.dst, m.obj) :: s.syncDiscards }

/-- The SYNC_ADD or CONSTELLATION message acts on its object: OWNED by the strand of DSTR, tenant as TENANT (R230). -/
def State.syncAccepts (s : State) (m : NetMsg) : Bool :=
  m.obj < 48 && s.owned (clOf m.dst) m.obj (stOf m.dst) && (s.strand m.dst).tenant == m.tenant

/-- A SYNC_ADD at its target. -/
def State.syncAdd (s : State) (m : NetMsg) : State :=
  if s.syncAccepts m then s.syncUpdate (clOf m.dst) m.obj (s.syncVal (clOf m.dst) m.obj + m.value) else s.syncDiscard m

/-- The node of constellation `b` on a cluster. -/
def State.node (s : State) (c b : Nat) : Option NodeLinks := Store.get? (s.cluster c).nodes b

/-- The payload of Table SY-2: OP and GEN, most significant byte first (R11). -/
def constBody (op : Nat) (gen : Word) : List PWord :=
  wordsOf ((beBytes 1 op ++ beBytes 3 0 ++ beBytes 4 gen.toNat).map fun b => (b, false))

/-- A CONSTELLATION message from a node to a rank (R233): OP 0 ARRIVE with the sending node's object value as GEN, 1 RELEASE with the
root's. -/
def State.constSend (s : State) (u b op k : Nat) (gen : Word) : State :=
  let j := s.strandJob u
  let p := s.place j k
  s.netSend 1 p.coord ⟨4, s.coord, u, (s.job j).strandOf p, 0, 0, b, op, (s.strand u).tenant, j, 0, 0, gen, constBody op gen,
    Carried.plain 8⟩

/-- A node's release: its object counts, its member's arrival is released, RELEASE goes to the children in ascending rank
order (R232); BARRIERS counts. `gen`: the root's object value after its increment. -/
def State.release (s : State) (u b : Nat) (children : List Nat) (gen : Word) : State :=
  let c := clOf u
  let s := s.modCluster c fun k => { k with nodes := k.nodes.map fun (e : Nat × NodeLinks) =>
    if e.1 = b then (e.1, { e.2 with waiting := false }) else e }
  let s := match (s.strand u).stall with
    | some (.arrive o _) => if o = b then
        (s.modStrand u fun t => { t with stall := some (.arrive o true) }).withdraw (s.strandJob u) (some u) else s
    | _ => s
  let s := (s.bump (syCnt c 4) 1).syncUpdate c b (s.syncVal c b + 1)
  forAll children s fun s k => s.constSend u b 1 k gen

/-- The node's count reaches the expected number (R232). -/
def State.nodeComplete (s : State) (u b : Nat) (n : NodeLinks) : State :=
  let s := s.setReg (syObj (clOf u) b 7) 0
  let v := s.syncVal (clOf u) b
  match n.parent with
  | some p => s.constSend u b 0 p v
  | none => s.release u b n.children (v + 1)

/-- One arrival at the node of constellation `b` (R232). -/
def State.arriveAt (s : State) (u b : Nat) : State :=
  let c := clOf u
  match s.node c b with
  | none => s
  | some n =>
    let k := s.reg (syObj c b 7) + 1
    if k < s.reg (syObj c b 6) then s.setReg (syObj c b 7) k else s.nodeComplete u b n

end Sys2Proof.Machine
end

