-- ==== Sys2Proof/Machine/Comm.lean ====
section
/-!
DEFINITION. DMA, sending and receiving (R155 to R157, R171) and in-network reduction (R176 to R179).
-/
namespace Sys2Proof.Machine

/-! ## DMA (R155) -/

/-- A run of `n` bytes from `a` touches a buffer that the access must wait for (R121): one of its slots. -/
def State.buffersWait (s : State) (u a n : Nat) (store : Bool) : List Nat :=
  if n = 0 ∨ a + n ≤ 0x400000 then []
  else (List.range ((a + n - 1 - 0x400000) / 0x1000 + 1 - (Nat.max a 0x400000 - 0x400000) / 0x1000)).filterMap fun i =>
    s.bufferWait u (((Nat.max a 0x400000 - 0x400000) / 0x1000 + i) * 0x1000 + 0x400000) store

/-- The strand's DMA queue. -/
def State.dmaQueue (s : State) (u : Nat) : List Dma :=
  if stOf u = 0 then (s.cluster (clOf u)).dma0 else (s.cluster (clOf u)).dma1

def State.setDma (s : State) (u : Nat) (q : List Dma) : State :=
  s.modCluster (clOf u) fun k => if stOf u = 0 then { k with dma0 := q } else { k with dma1 := q }

/-- DMA: a descriptor enters the strand's queue of 8; a full queue stalls the strand and raises its hold request (R159,
R214); a count above 2,621,440 is an illegal control value. -/
def execDma (i : Issue) (rd ra rb : Reg) (notify : Fin 64) (s : State) : Out :=
  issueCtl i s (fun s => let t := s.strand i.u.num; [t.s rd, t.s ra, t.s rb]) fun s =>
    let u := i.u.num
    let t := s.strand u
    let n := (t.s rd).val.toNat
    let a := (t.s ra).val.toNat
    let wait := s.buffersWait u a n false
    if 2621440 < n then s.strandStop u
    else if wait ≠ [] then s.stallAt u (.buffer wait) none
    else if 8 ≤ (s.dmaQueue u).length then s.stallAt u .dmaFull (some 2)
    else
      let d : Dma := ⟨i.u.st.val, a, (t.s rb).val.toNat, n, notify.val⟩
      (s.setDma u (s.dmaQueue u ++ [d])).retire i

/-- What the loads of a unit meet, where no instruction issues. -/
def Phys.ofParity (l : List (Nat × Bool)) : Phys := ⟨.clean, l, [], 0, 0, 0, 0⟩

/-- DMA_COMPLETE: the oldest descriptor of the strand's queue moves its bytes with their tags and signals its notify
object, once no queued command that has not started names an input buffer it writes (R120, R143). A strand that waited for room in the
queue can issue from here on. -/
def execDmaComplete (v : StrandId) (parity : List (Nat × Bool)) (s : State) : Out :=
  let u := v.num
  match s.dmaQueue u with
  | [] => .next s
  | d :: q =>
    if s.buffersWait u d.dst d.len true ≠ [] then .next s
    else
    let r := s.loadBytes (Phys.ofParity parity) u d.src d.len
    let s := r.1.storeBytes u d.dst r.2
    .next (((s.setDma u q).notify u d.notify).stallsEnd v.cl.num)

/-! ## RSEND (R156, R171, R176) -/

/-- FN of an RSEND is legal: FN[1:0] is 0 with AUTO (R156). -/
def rsendLegal (ring : Fin 4) (auto : Bool) : Bool := !auto || ring == 0

/-- The group that an RSEND names: target rank, channel, this strand's rank among the contributors (R176). -/
def State.sendGroup (s : State) (u rank chan : Nat) : Option Group :=
  (s.job (s.strandJob u)).groups.find? fun g => g.dst == rank && g.chan == chan && g.contrib.contains (s.rankOf u)

/-- The payload and what the send makes of it (R156, R171, R176); none where a control value is illegal. A STREAM message goes to HB of the
entry module of the context that it names (R21). `auto`: the stop chooses the
ring. -/
def State.sendMsg (s : State) (u : Nat) (d : Word) (n : Nat) (auto : Bool) (ring reduce pack : Nat) (ws : List PWord) :
    Option State :=
  let t := s.strand u
  let j := s.strandJob u
  let rank := d.toNat % 0x1000000
  let chan := d.toNat / 0x1000000 % 16
  let kind := d.toNat / 0x20000000
  if kind = 1 ∧ reduce = 0 then
    let w := packPayload auto pack ws
    let x := match ws with
      | w :: _ => w.val.toNat % 0x10000
      | [] => 0
    some (s.netSend 0 (if (s.job j).train then s.leadOf j else s.entryOf j x) ⟨7, s.coord, u, 0x10000 + HB, ring, 0, 0, 0, t.tenant, j, 0, 0, 0, w.1, w.2⟩)
  else if kind ≠ 0 then none
  else if (s.job j).ranks.length ≤ rank then none
  else if reduce = 0 then
    let p := s.place j rank
    let w := packPayload auto pack ws
    some (s.netSend 0 p.coord
      ⟨0, s.coord, u, (s.job j).strandOf p, ring, chan, 0, 0, t.tenant, j, 0, 0, BitVec.ofNat 32 rank, w.1, w.2⟩)
  else match s.sendGroup u rank chan with
    | none => none
    | some g =>
      if n = g.len ∧ g.fp = (reduce == 2) then
        some (s.netSend 0 (s.place j g.dst).coord { s.reduceMsg j g (s.rankOf u) ws with srcMod := s.coord, src := u })
      else none

/-- RSEND: a source stop with 16 messages in injection stalls it, as a full unit queue does (R159, R170; log entry 124). -/
def execRsend (i : Issue) (rd ra rb : Reg) (ring : Fin 4) (auto : Bool) (reduce pack : Fin 3) (s : State) : Out :=
  if rsendLegal ring auto then
    issueCtl i s (fun s => let t := s.strand i.u.num; [t.s rd, t.s ra, t.s rb]) fun s =>
      let u := i.u.num
      let t := s.strand u
      let n := (t.s rd).val.toNat
      let a := (t.s ra).val.toNat
      let wait := s.buffersWait u a n false
      if n < 4 ∨ 65536 < n ∨ n % 4 ≠ 0 then s.strandStop u
      else if wait ≠ [] then s.stallAt u (.buffer wait) none
      else if 16 ≤ s.injecting (stopOf i.u.cl.num) then s.stallAt u .sendFull (some 2)
      else
        let r := s.loadBytes i.ph u a n
        match r.1.sendMsg u (t.s rb).val n auto ring.val reduce.val pack.val (wordsOf r.2) with
        | some s => s.retire i
        | none => s.strandStop u
  else .refused .illegalEncoding

/-! ## Receiving (R157, R171) -/

/-- RRECV: a new landing window and notify object for a channel. -/
def execRrecv (i : Issue) (rd ra : Reg) (chan : Fin 16) (notify : Fin 64) (s : State) : Out :=
  if ((Store.get? (s.strand i.u.num).chans chan.val).isSome && (notify == 63 || s.owned i.u.cl.num notify.val i.u.st.val)) then
    issueCtl i s (fun s => let t := s.strand i.u.num; [t.s rd, t.s ra]) fun s =>
      let w (t : Strand) : Chan := ⟨(t.s ra).val.toNat, (t.s rd).val.toNat, notify.val⟩
      (s.modStrand i.u.num fun t => { t with chans := Store.set t.chans chan.val (w t) }).retire i
  else .refused .undeclared

/-- The page of SRAM offset `o` takes a message for strand `u` of tenant `t` (R125, R171); for a strand in RELEASING the check fails
(Table DN-9). -/
def State.landOk (s : State) (u t o : Nat) : Bool :=
  s.strandState u != SS.RELEASING && match locate o with
  | .sram o => let p := s.page (clOf u) (o / 4096); p.valid && p.strand == stOf u && p.tenant == t
  | _ => false

/-- Bytes of a message land from offset `a`: words whose page does not take them are discarded, one tag fault for each
page (R125). -/
def State.landBytes (s : State) (u t a : Nat) (bs : List (Byte × Bool)) : State :=
  let ws := s.mergeBytes u a bs
  let b := a / 4 * 4
  let bad := (((List.range ws.length).map fun i => (b + 4 * i) / 4096).eraseDups).filter fun p => !s.landOk u t (p * 4096)
  let s := forAll bad s fun s p => s.tagFault u (p * 4096) t
  (List.range ws.length).foldl (fun s i =>
    if s.landOk u t (b + 4 * i) then s.storeAt u (b + 4 * i) (ws.getD i PWord.zero) else s) s

/-- A DATA message at its destination: undeclared channel and overrun count RX_OVERRUNS (R157). What arrives for a strand in RELEASING
is discarded (Table DN-9). -/
def State.landMsg (s : State) (m : NetMsg) (ws : List PWord) : State :=
  let u := m.dst
  match Store.get? (s.strand u).chans m.chan with
  | none => s.bump (isaCnt (clOf u) 2) 1
  | some c =>
    let skip := 0x10000 * m.part
    let room := c.len - skip
    let bs := ws.flatMap PWord.bytes
    let past := room < bs.length
    let bs := if past then (bs.take room).map fun b => (b.1, true) else bs
    let s := if past then s.bump (isaCnt (clOf u) 2) 1 else s
    let s := s.landBytes u m.tenant (c.off + skip) bs
    if s.strandState u = SS.RELEASING then s else s.notify u c.notify

/-- Message `k` in flight may land now: it leaves the port queue, and no message that must land before it is in flight (R129, R173). -/
def State.mayLand (s : State) (k : Nat) (m : NetMsg) : Bool := s.atPort m && s.inOrder k m

/-- MESSAGE_LAND: DATA message `k` of those in flight lands, unpacked (R171). `conflicts`: the SRAM accesses that wait a clock for its
arrivals (R122, Table CL-3). -/
def execMessageLand (k conflicts : Nat) (s : State) : Out :=
  match s.net[k]? with
  | none => .next s
  | some m =>
    if m.type ≤ 2 ∧ m.dst < 0x10000 ∧ s.mayLand k m = true then
      let s := (s.take k).landMsg m m.unpacked
      .next (if conflicts = 0 then s else s.bump (clCnt (clOf m.dst) 4) conflicts)
    else .next s

/-! ## Reduction (R177 to R179) -/

/-- FP32 addition of one word: rounded once, any NaN canonical (R178); a word poisoned in any input is poisoned. -/
def addF32 (a b : PWord) : PWord := 
  ⟨BitVec.ofNat 32 (FFmt.fp32.encode false ((FFmt.fp32.decode a.val.toNat).add (FFmt.fp32.decode b.val.toNat))),
    a.poison || b.poison⟩
/-- INT32 addition modulo 2^32. -/
def addI32 (a b : PWord) : PWord := ⟨a.val + b.val, a.poison || b.poison⟩
/-- The INT32 sum wraps, as signed values. -/
def wraps32 (a b : PWord) : Bool := decide ((a.val + b.val).toInt ≠ a.val.toInt + b.val.toInt)

/-- Sum of the inputs' words left to right, with the number of words of which an addition wrapped (R178). -/
def sumWords (fp : Bool) : List (List PWord) → List PWord × Nat
  | [] => ([], 0)
  | x :: t =>
    let r := t.foldl (fun (a : List (PWord × Bool)) b =>
      (List.range a.length).map fun i =>
        let p := a.getD i (PWord.zero, false)
        let q := b.getD i PWord.zero
        if fp then (addF32 p.1 q, false) else (addI32 p.1 q, p.2 || wraps32 p.1 q)) (x.map fun w => (w, false))
    (r.map Prod.fst, (r.filter fun w => w.2).length)

/-- Flit `f` of the message due that input `src` holds: its job time of arrival and its words. -/
def MergeRun.held (r : MergeRun) (src f : Nat) : Option (Nat × List PWord) :=
  match r.waiting.find? fun w => w.src == src && w.num == r.fwd with
  | some w => Store.get? w.flits f
  | none => none

/-- Counter `sub` of the die of a merge point. -/
def MergePt.cnt (p : MergePt) (sub : Nat) : Obj := ⟨0x3052 + 0x100 * (p.node / 128), sub, 0⟩

/-- The message is complete: it has gone on in the merged stream, and the inputs drop it. -/
def State.mergeDone (s : State) (j : Nat) (g : Group) (i : Nat) (r : MergeRun) : State :=
  let s := s.setMerge j g.rgid i { r with
    fwd := r.fwd + 1, flit := 0, out := [], late := false, waiting := r.waiting.filter fun w => w.num ≠ r.fwd }
  s.reduceEnd j g (0x1000000 + i) r.out

/-- The next flit is added and forwarded: with every word poisoned once the timeout has passed for the message (R179), else counted in
MERGES (R177; log entry 121). -/
def State.mergeFlit (s : State) (j : Nat) (g : Group) (i : Nat) (p : MergePt) (ins : List (List PWord)) : State :=
  let r := s.merge j g.rgid i
  let sum := sumWords g.fp ins
  let ws := if r.late then sum.1.map fun w => PWord.mk w.val true else sum.1
  let s := if r.late then s else s.bump (p.cnt 5) 1
  let s := if sum.2 = 0 then s else s.bump (p.cnt 7) sum.2
  let s := s.reduceFlit j g (0x1000000 + i) r.flit ws
  let r := { r with flit := r.flit + 1, out := r.out ++ ws }
  if g.len / 4 ≤ r.out.length then s.mergeDone j g i r else s.setMerge j g.rgid i r

/-- MERGE_FORWARD: merge point `i` of a group adds the next flit of every input in the fixed order and forwards it
(R177); of a message whose timeout has passed, that of the inputs present (R179). -/
def execMergeForward (j rgid i : Nat) (s : State) : Out :=
  match s.group j rgid with
  | none => .next s
  | some g => match g.points[i]? with
    | none => .next s
    | some p =>
      let r := s.merge j rgid i
      let ins := p.inputs.filterMap fun x => (r.held x.src r.flit).map Prod.snd
      if p.mod = s.coord ∧ (r.late = true ∨ ins.length = p.inputs.length) ∧ ins ≠ [] then .next (s.mergeFlit j g i p ins) else .next s

/-- MERGE_TIMEOUT: the timer of the flit due passed MERGE_TIMEOUT in job time before every input's had arrived: it and every
later flit of the message are the sum of the inputs present with every word poisoned (R179, R213). -/
def execMergeTimeout (j rgid i : Nat) (s : State) : Out :=
  match s.group j rgid with
  | none => .next s
  | some g => match g.points[i]? with
    | none => .next s
    | some p =>
      let r := s.merge j rgid i
      let held := p.inputs.filterMap fun x => r.held x.src r.flit
      let first := held.foldl (fun a h => Nat.min a h.1) 0xFFFFFFFFFFFFFFFF
      let limit := s.reg ⟨0x3053 + 0x100 * (p.node / 128), 1, 0⟩
      if p.mod = s.coord ∧ r.late = false ∧ held ≠ [] ∧ held.length < p.inputs.length ∧ first + limit + s.grace < s.jobNow j then
        let s := (s.bump (p.cnt 6) 1).fault 0xC (p.node / 128) 0xFF (p.node % 128) rgid []
        .next ((s.setMerge j rgid i { r with late := true }).mergeFlit j g i p (held.map Prod.snd))
      else .next s

end Sys2Proof.Machine
end

