-- ==== Sys2Proof/Machine/Sync.lean ====
section
/-!
DEFINITION. Sync objects and constellations (R227 to R242): the Y-format instructions, the messages that reach a cluster,
control messages from HB (R19), the floor of R96, lending (R236) and the two debug writes (R240).
-/
namespace Sys2Proof.Machine

/-! ## Local instructions (R228) -/

/-- The instruction names an object that its strand declares (R192). -/
def State.declares (s : State) (i : Issue) (obj : Fin 64) : Bool := s.owned i.u.cl.num obj.val i.u.st.val

/-- An update by a local instruction, visible to every later instruction of its strand (R229). -/
def syncLocal (f : Word → Word → Word) (i : Issue) (obj : Fin 64) (ra : Reg) (s : State) : Out :=
  if s.declares i obj then
    issueCtl i s (fun s => [(s.strand i.u.num).s ra]) fun s =>
      let c := i.u.cl.num
      ((s.bump (syCnt c 1) 1).syncUpdate c obj.val (f (s.syncVal c obj.val) ((s.strand i.u.num).s ra).val)).retire i
  else .refused .undeclared

def execSinc (i : Issue) (obj : Fin 64) (ra : Reg) (s : State) : Out := syncLocal (fun v a => v + a) i obj ra s
def execSset (i : Issue) (obj : Fin 64) (ra : Reg) (s : State) : Out := syncLocal (fun _ a => a) i obj ra s

/-- SREAD. -/
def execSread (i : Issue) (obj : Fin 64) (rd : Reg) (s : State) : Out :=
  if s.declares i obj then
    issue i s fun s =>
      let c := i.u.cl.num
      ((s.bump (syCnt c 1) 1).modStrand i.u.num fun t => t.setS rd ⟨s.syncVal c obj.val, false⟩).retire i
  else .refused .undeclared

/-- A strand whose stall is over may issue its stalled instruction: it can run, no request of its own, no test gap, no replay due. -/
def State.mayResume (s : State) (u : Nat) : Bool :=
  s.canRun u && !s.requested u && (s.strand u).gap.isNone && (s.strand u).replay.isNone

/-- SWAIT and SWAITEQ: issue where the condition holds now or a latched result is there (R229); else the strand
stalls. -/
def syncWait (eq : Bool) (i : Issue) (obj : Fin 64) (ra : Reg) (s : State) : Out :=
  let u := i.u.num
  let c := i.u.cl.num
  if s.declares i obj then
    match (s.strand u).stall with
    | some (.sync o e _ met) =>
      if o = obj.val ∧ e = eq ∧ met = true ∧ s.mayResume u = true then
        issueMet i s fun s => (s.bump (syCnt c 1) 1).retire i
      else .next s
    | _ =>
      issueCtl i s (fun s => [(s.strand u).s ra]) fun s =>
        let tgt := ((s.strand u).s ra).val
        let v := s.syncVal c obj.val
        if (if eq then v == tgt else decide (tgt ≤ v)) then (s.bump (syCnt c 1) 1).retire i
        else s.stallAt u (.sync obj.val eq tgt false) none
  else .refused .undeclared

def execSwait (i : Issue) (obj : Fin 64) (ra : Reg) (s : State) : Out := syncWait false i obj ra s
def execSwaiteq (i : Issue) (obj : Fin 64) (ra : Reg) (s : State) : Out := syncWait true i obj ra s

/-- SSIG (R230): KIND other than 000b and a rank outside the slice are illegal control values; the sender's own rank is
served at its own stop. -/
def execSsig (i : Issue) (obj : Fin 64) (ra rd : Reg) (s : State) : Out :=
  issueCtl i s (fun s => let t := s.strand i.u.num; [t.s ra, t.s rd]) fun s =>
    let u := i.u.num
    let t := s.strand u
    let j := s.strandJob u
    let d := (t.s rd).val.toNat
    let rank := d % 0x1000000
    if d / 0x20000000 ≠ 0 ∨ (s.job j).ranks.length ≤ rank then s.strandStop u
    else
      let p := s.place j rank
      let m : NetMsg := ⟨3, s.coord, u, (s.job j).strandOf p, 0, 0, obj.val, 0, t.tenant, j, 0, 0, (t.s ra).val, [],
        Carried.plain 1⟩
      let s := s.bump (syCnt i.u.cl.num 2) 1
      (if rank = s.rankOf u then s.syncAdd m else s.netSend 1 p.coord m).retire i

/-- SARRIVE (R232): one arrival at the member's own node; it does not issue while the previous arrival is not released. -/
def execSarrive (i : Issue) (obj : Fin 64) (s : State) : Out :=
  let u := i.u.num
  let c := i.u.cl.num
  match s.node c obj.val with
  | none => .refused .undeclared
  | some n =>
    let go (s : State) : State :=
      ((s.modCluster c fun k => { k with nodes := Store.set k.nodes obj.val { n with waiting := true } }).arriveAt u
        obj.val).retire i
    if s.declares i obj && n.strand == i.u.st.val then
      match (s.strand u).stall with
      | some (.arrive o met) =>
        if o = obj.val ∧ met = true ∧ s.mayResume u = true then issueMet i s go else .next s
      | _ => issue i s fun s => if n.waiting then s.stallAt u (.arrive obj.val false) none else go s
    else .refused .undeclared

/-! ## Messages -/

/-- Message `k` in flight, where it is of the wanted kind and stands at the front of the port queue of its cluster (R129). -/
def State.control? (s : State) (k type op : Nat) : Option NetMsg :=
  match s.net[k]? with
  | some m => if m.type = type ∧ (type ≠ 4 ∨ m.op = op) ∧ m.dst < 0x10000 ∧ s.atPort m = true then some m else none
  | none => none

/-- SYNC_ADD (R230). -/
def execSyncAdd (k : Nat) (s : State) : Out :=
  match s.control? k 3 0 with
  | some m => if s.inOrder k m then .next ((s.take k).syncAdd m) else .next s
  | none => .next s

/-- A CONSTELLATION message of an OP that Table SY-2 does not name, at a cluster. -/
def State.strayOp (s : State) (k : Nat) : Option NetMsg :=
  match s.net[k]? with
  | some m => if m.type = 4 ∧ 3 ≤ m.op ∧ m.dst < 0x10000 ∧ s.atPort m = true then some m else none
  | none => none

/-- ARRIVE (R232). A CONSTELLATION message of another OP than Table SY-2 names is discarded here (R233). -/
def execArrive (k : Nat) (s : State) : Out :=
  match s.control? k 4 0 with
  | some m =>
    let s := s.take k
    .next (if s.syncAccepts m && (s.node (clOf m.dst) m.obj).isSome then s.arriveAt m.dst m.obj else s.syncDrop m)
  | none => match s.strayOp k with
    | some m => .next ((s.take k).syncDrop m)
    | none => .next s

/-- RELEASE (R232): forwarded with the root's object value (R233). -/
def execRelease (k : Nat) (s : State) : Out :=
  match s.control? k 4 1 with
  | some m =>
    let s := s.take k
    .next (match s.node (clOf m.dst) m.obj with
      | some n => if s.syncAccepts m then s.release m.dst m.obj n.children m.value else s.syncDrop m
      | none => s.syncDrop m)
  | none => .next s

/-- ORPHAN (R238): from HB to a strand of the job: its objects become ORPHANED, its waits complete, and the job ends on this module as it
did where the cluster reset (log entry 125). Another sender or job: discarded and counted (Table SY-1). -/
def execOrphan (k : Nat) (s : State) : Out :=
  match s.control? k 4 2 with
  | some m =>
    let s := s.take k
    if m.src = 0x10000 + HB ∧ s.strandJob m.dst = m.job ∧ (s.strand m.dst).tenant = m.tenant then
      .next (if m.value.toNat = Code.RESET then (s.orphan m.dst).endJob m.job Code.RESET Br.RESET 2
        else (s.orphan m.dst).endJob m.job Code.ORPHANED Br.ORPHANED 0)
    else .next (s.syncDrop m)
  | none => .next s

/-- A CONTROL message from HB to a strand's control logic (R19): 1 freeze at the next STEP (R137), 2 resume (Table CL-6),
3 install the bindings of version entry `v` at a BATCH (R291), 4 withdraw them, 5 clear bank `v` at a BATCH (R293),
6 cancel context `v` (R257), 7 BALLAST_FLOOR `v` with the context admitted, if one is (R96, R250), 8 the rebase of context `v` with its
next deadline in short form (R254). -/
def State.control (s : State) (u op v : Nat) : State :=
  let t := s.strand u
  s.netSend 1 s.coord ⟨6, s.coord, 0x10000 + HB, u, 0, 0, 0, op, t.tenant, s.strandJob u, 0, 0, BitVec.ofNat 32 v, [],
    Carried.plain 4⟩

/-- A CONTROL message to the cluster at a place of job `j`, on whichever module (R172). -/
def State.controlTo (s : State) (j m u op : Nat) (v : Word) (ws : List PWord) : State :=
  s.netSend 1 m ⟨6, s.coord, 0x10000 + HB, u, 0, 0, 0, op, s.reg (Od.JOB_TENANT j), j, 0, 0, v, ws, Carried.plain (4 + 4 * ws.length)⟩

/-- A CONTROL message to every cluster of a job. -/
def State.controlAll (s : State) (j op v : Nat) : State :=
  forAll (s.job j).ranks s fun s p =>
    if p.coord = s.coord then s.control ((s.job j).strandOf p) op v
    else s.controlTo j p.coord ((s.job j).strandOf p) op (BitVec.ofNat 32 v) []

/-- The bindings that a version's placement and the job's SLOTS records give to a cluster: slot and array of each block
there (R291). -/
def State.bindings (s : State) (c e : Nat) : List (Nat × Nat) :=
  match Store.get? s.versions e with
  | none => []
  | some v => v.blocks.flatMap fun b => match b.array with
    | some x => if acl x = c then
        ((s.strand (2 * c)).slots.filter fun (k : Nat × SlotUse) => !k.2.servingSlot && k.2.block == b.num).map fun k =>
          (k.1, anum x)
      else []
    | none => []

/-- STREAM messages of context `x`'s job on their way to HB (R255). -/
def State.tokensInFlight (s : State) (x : Nat) : Bool :=
  s.net.any fun m => m.type == 7 && m.job == s.reg (Od.CTX_JOB x) &&
    (match m.payload with
      | w :: _ => w.val.toNat % 0x10000 == x
      | [] => false)

/-- A cancel reaches the output cluster (R257): the request ends with CANCELLED and a final record without a token, and
counts no breach; where a stop condition ended it before, nothing changes. -/
def State.cancelled (s : State) (x : Nat) : State :=
  if 1 ≤ s.reg (Od.CTX_STATE x) ∧ s.reg (Od.CTX_STATE x) ≤ 3 then (s.finalRecord x 5 0).ctxEnding x 5 0 else s

/-- CONTROL message `k` at its strand. A cancel acts once the tokens already final are delivered (R257); at an output cluster of another
module the program ends the request by its final STREAM message. What the program makes of a rebase is its own (log entry 129). -/
def execControl (k : Nat) (s : State) : Out :=
  match s.control? k 6 0 with
  | none => .next s
  | some m =>
    if m.op = 6 ∧ s.tokensInFlight m.value.toNat = true then .next s
    else
    let s := s.take k
    let u := m.dst
    let c := clOf u
    let v := m.value.toNat
    .next (
      if m.op = 1 then
        if s.strandState u = SS.RUNNING ∨ s.strandState u = SS.HELD then s.modStrand u fun t => { t with freezeReq := true }
        else s
      else if m.op = 2 then
        if s.strandState u = SS.FROZEN then ((s.wakeCluster c).setReg (ssObj u) SS.RUNNING).endLend c else s
      else if m.op = 3 then
        let bank := s.reg (Od.VER_NUMBER v) % 2
        s.modCluster c fun k => { k with
          switching := some v
          pendingSlots := (s.bindings c v).foldl (fun p b => Store.set p (32 * bank + b.1) b.2)
            (Store.keep k.pendingSlots fun e => 64 ≤ e) }
      else if m.op = 4 then
        s.modCluster c fun k => { k with switching := none, installed := none, pendingSlots := Store.keep k.pendingSlots fun e => 64 ≤ e }
      else if m.op = 5 then s.modCluster c fun k => { k with clearing := some v }
      else if m.op = 6 then (if m.srcMod = s.coord then s.cancelled v else s)
      else if m.op = 7 then
        let s := s.modStrand u fun t => { t with floors := Store.set t.floors m.srcMod m.value.toInt }
        match m.payload with
        | w :: _ => s.modJob m.job fun t => { t with entries := Store.set t.entries w.val.toNat m.srcMod }
        | [] => s
      else s)

/-- Contexts of a job in ADMITTED, PREFILL or DECODE. -/
def State.liveCtxs (s : State) (j : Nat) : List Nat :=
  s.ctxList.filter fun x => s.reg (Od.CTX_JOB x) == j && decide (1 ≤ s.reg (Od.CTX_STATE x)) &&
    decide (s.reg (Od.CTX_STATE x) ≤ 3)

/-- A 32-bit object read as signed. -/
def signed32 (v : Nat) : Int := (BitVec.ofNat 32 v).toInt
def unsigned32 (v : Int) : Nat := (BitVec.ofInt 32 v).toNat

/-- BALLAST_FLOOR of a job (R96, R222): the smallest ballast remaining among its contexts; 7FFFFFFFh without one. -/
def State.floorOf (s : State) (j : Nat) : Int :=
  let l := (s.liveCtxs j).map fun x => signed32 (s.reg (Od.CTX_BALLAST x))
  l.foldl (fun a b => if b < a then b else a) 0x7FFFFFFF

/-- BALLAST_FLOOR of job `j` goes to the cluster of rank `r` on another module (R96); `x`: the context that is admitted. -/
def State.sendFloor (s : State) (j r : Nat) (x : Option Nat) : State :=
  let p := s.place j r
  s.controlTo j p.coord ((s.job j).strandOf p) 7 (BitVec.ofInt 32 (s.floorOf j))
    (match x with
      | some x => [PWord.mk (BitVec.ofNat 32 x) false]
      | none => [])

/-- This module's floor of job `j` at a strand of it here. -/
def State.setFloor (s : State) (j u : Nat) : State :=
  s.modStrand u fun t => { t with floors := Store.set t.floors s.coord (s.floorOf j) }

/-- BALLAST_FLOOR_UPDATE: HB sends the floor of its requests to a strand's cluster, or to a rank of a job on another module (R96). -/
def execBallastFloorUpdate (dst : FloorTo) (s : State) : Out :=
  match dst with
  | .far j r =>
    if s.jobState j = JS.ENABLED ∧ r < (s.job j).ranks.length ∧ (s.place j r).coord ≠ s.coord then .next (s.sendFloor j r none) else .next s
  | .here v => if s.strandJob v.num = 0 then .next s else .next (s.setFloor (s.strandJob v.num) v.num)

/-- A strand meets the condition of R236: EMPTY, FROZEN, or stalled at SWAIT, SWAITEQ or SARRIVE. -/
def State.lendIdle (s : State) (u : Nat) : Bool :=
  s.strandState u == SS.EMPTY || s.strandState u == SS.FROZEN ||
    match (s.strand u).stall with
    | some (.sync _ _ _ _) => true
    | some (.arrive _ _) => true
    | _ => false

/-- No array command of a cluster is queued or in progress. -/
def State.arraysQuiet (s : State) (c : Nat) : Bool :=
  s.arrays.all fun (e : Nat × ArrayU) => e.1 / 34 != c || (e.2.idle && e.2.runs.isEmpty)

/-- ALLOWANCE_LEND (R236). -/
def execAllowanceLend (c : ClusterId) (s : State) : Out :=
  let n := c.num
  let k := s.cluster n
  if s.reg (Od.ALLOW_LEND_EN c.die.val) = 1 ∧ k.lent = false ∧ 425 ≤ s.ticks - k.idleFrom ∧ s.arraysQuiet n = true ∧
      s.lendIdle (2 * n) = true ∧ s.lendIdle (2 * n + 1) = true then
    .next ((s.bump (syCnt n 6) 1).modCluster n fun k => { k with lent := true })
  else .next s

/-! ## Debug writes (R240) -/

/-- The strand that owns object `b` of cluster `c`, if any; an ORPHANED object is still its strand's (Table SY-1). -/
def State.ownerOf (s : State) (c b : Nat) : Option Nat :=
  if s.reg (syObj c b 1) ≠ 0 ∧ s.reg (syObj c b 2) < 2 then some (2 * c + s.reg (syObj c b 2)) else none

/-- The session acts for the operator or for the tenant of the object's job. -/
def State.mayForce (s : State) (n c b : Nat) : Bool :=
  s.isOp n || match s.ownerOf c b with
    | some u => s.actsFor n (s.strand u).tenant
    | none => false

/-- A write that only a strand in DEBUG takes. -/
def State.inDebug (s : State) (c b : Nat) (f : Nat → State) : Wr :=
  match s.ownerOf c b with
  | none => badState s SS.EMPTY
  | some u => if s.strandState u = SS.DEBUG then okW (f u) else badState s (s.strandState u)

def wrSyncValue (c b : Nat) (v : Word) (s : State) : Wr := s.inDebug c b fun _ => s.syncUpdate c b v

/-- SYNC_VALUE written by session `n`. -/
def execSyncValue (n : Nat) (c : ClusterId) (b : Fin 48) (v : Word) (s : State) : Out :=
  s.write n (s.mayForce n c.num b.val) (wrSyncValue c.num b.val v)

/-- NODE_FORCE of 1 completes the node as if its last expected arrival had landed; 0 does nothing. -/
def wrNodeForce (c b : Nat) (v : Bool) (s : State) : Wr :=
  if v then s.inDebug c b fun u => match s.node c b with
    | some n => s.nodeComplete u b n
    | none => s
  else okW s

def execNodeForce (n : Nat) (c : ClusterId) (b : Fin 48) (v : Bool) (s : State) : Out :=
  s.write n (s.mayForce n c.num b.val) (wrNodeForce c.num b.val v)

end Sys2Proof.Machine
end

