-- ==== Sys2Proof/Machine/Calib.lean ====
section
/-!
DEFINITION. Calibration and transit (R302 to R319): the rotation of a cluster's arrays over its spares, the verdict of
the shadow comparison, rest calibration, correction targets and ramps. What a fit or an open-wire test measures is the
command's physical input.
-/
namespace Sys2Proof.Machine

/-- P in ticks (R303). -/
def State.periodTicks (s : State) : Nat := s.reg Od.TRANSIT_PERIOD_S * 212500000

/-- Clean time of array `x` (R303). -/
def State.clean (s : State) (x : Nat) : Nat := s.reg (Od.LAST_CLEAN_TIME x)

/-- The tick from which an ACTIVE array is due: NEXT_DUE. -/
def State.nextDue (s : State) (x : Nat) : Nat := s.clean x + s.periodTicks * 31 / 32

/-- Temperature of a cluster's sensor, 1/16 °C (R315). -/
def State.clTemp (s : State) (c : Nat) : Int := int16 (s.reg (Od.SENSOR_TEMP c))

/-- The ACTIVE array that is due first: ALARM first, then the earliest clean time, then the lower number (R303). -/
def State.dueArray (s : State) (c : Nat) : Option Nat :=
  let act := (List.range 34).filter fun a => s.reg (asObj c a) == AS.ACTIVE
  let alarm := act.filter fun a => s.ar 0x26 9 (34 * c + a) == 3
  let due := act.filter fun a => decide (s.nextDue (34 * c + a) ≤ s.now)
  let pick (l : List Nat) : Option Nat :=
    l.foldl (fun b a => match b with
      | none => some a
      | some k => if s.clean (34 * c + a) < s.clean (34 * c + k) then some a else some k) none
  if alarm ≠ [] then pick alarm else pick due

/-- The rested spare with the lower number. -/
def State.restedSpare (s : State) (c : Nat) : Option Nat := ((s.spares c).find? fun p => p.2).map Prod.fst

/-- No array of the cluster is PROGRAMMING (R55). -/
def State.noneProgramming (s : State) (c : Nat) : Bool :=
  (List.range 34).all fun a => s.reg (asObj c a) != AS.PROGRAMMING

/-- TRANSIT_OVERDUE (R304): once for each time that an array misses the bound. -/
def execTransitOverdue (x : ArrayId) (s : State) : Out :=
  if s.arrState x.num = AS.ACTIVE ∧ s.reg Od.TRANSIT_EN = 1 ∧ (s.array x.num).overdue ≠ some (s.clean x.num) ∧
      s.clean x.num + s.periodTicks + s.reg Od.TRANSIT_COPY_MAX + s.reg Od.TRANSIT_WINDOW_MAX < s.now then
    let s := s.modArray x.num fun a => { a with overdue := some (s.clean x.num) }
    .next (s.event 0xC .mgmt (beBytes 1 x.cl.die.val ++ beBytes 1 x.cl.k.val ++ beBytes 1 x.a.val ++ beBytes 1 0))
  else .next s

/-! ## The verdict (R308) -/

/-- The column and path was fitted: at least 256 pairs whose a values span at least 64 LSB, and a fit exists. -/
def PairSum.fitted (p : PairSum) : Bool :=
  256 ≤ p.n && decide (64 ≤ p.hi - p.lo) && decide (0 < (p.n : Int) * p.saa - p.sa * p.sa)

/-- The least-squares gain as numerator over denominator. -/
def PairSum.gain (p : PairSum) : Int × Nat :=
  ((p.n : Int) * p.sab - p.sa * p.sb, ((p.n : Int) * p.saa - p.sa * p.sa).toNat)

/-- The least-squares offset as numerator over denominator. -/
def PairSum.offset (p : PairSum) : Int × Nat :=
  (p.sb * (p.gain.2 : Int) - p.gain.1 * p.sa, p.n * p.gain.2)

/-- The column and path mismatch. -/
def PairSum.mismatch (q : TransitSet) (p : PairSum) : Bool :=
  decide (q.count < p.dis) ||
    (p.fitted &&
      (decide (q.gain * p.gain.2 < (p.gain.1 - (p.gain.2 : Int)).natAbs * 16384) ||
        decide (q.offset * p.offset.2 < p.offset.1.natAbs)))

/-- The mismatching columns and paths of a cluster's window. -/
def State.mismatches (s : State) (c : Nat) : List Nat :=
  ((s.cluster c).pairs.filter fun (e : Nat × PairSum) => e.2.mismatch (s.cluster c).transitSet).map Prod.fst

def State.pairCount (s : State) (c : Nat) : Nat := (s.cluster c).pairs.foldl (fun a (e : Nat × PairSum) => a + e.2.n) 0

/-- SHADOW_WINDOW_END: the window ends, extended while pairs are few, and firmware gives the verdict (R307, R308). -/
def execShadowWindowEnd (c : ClusterId) (s : State) : Out :=
  let n := c.num
  let age := s.now - (s.cluster n).transitFor
  let q := (s.cluster n).transitSet
  let enough := q.minPairs ≤ s.pairCount n
  if s.reg (Od.TRANSIT_STATE n) = 2 ∧ q.window ≤ age ∧
      (enough ∨ q.windowMax ≤ age) then
    let x := 34 * n + s.reg (Od.TRANSIT_TARGET n)
    let v := if s.mismatches n ≠ [] then 2 else if enough then 1 else 3
    let s := (s.setReg (Od.LAST_VERDICT x) v).inc64 (Od.TRANSIT_COUNT x)
    let s := s.modArray x fun a => { a with cleanBefore := s.clean x }
    let s := if v = 3 then s.bump Od.TRANSIT_UNJUDGED 1 else s
    let s := if v = 2 then s else s.setReg (Od.LAST_CLEAN_TIME x) s.now
    .next (s.setReg (Od.TRANSIT_STATE n) 3)
  else .next s

/-! ## Corrections in force (R312 to R314) -/

/-- Correction entries of array `x`, line and path `p`: OFFSET and GAIN in force, and the objects of Table CA-4. -/
def corrObj (x p sub : Nat) : Obj := ⟨0x3029 + 0x100 * (x / 3264), sub, 4096 * (x % 3264) + p⟩
def calObj (x p sub : Nat) : Obj := ⟨0x7013, sub, 4096 * x + p⟩

/-- A value for a signed or unsigned 16-bit entry; the spec states none outside the entry's range (log entry 22). -/
def State.entry16 (s : State) (signed : Bool) (v : Int) : Nat :=
  if signed then (if -0x8000 ≤ v ∧ v < 0x8000 then (v % 0x10000).toNat else Config.freeNat s.freeN % 0x10000)
  else if 0 ≤ v ∧ v < 0x10000 then v.toNat else Config.freeNat s.freeN % 0x10000

/-- A ramp starts for entry `k` (2p offset, 2p + 1 gain) from the value in force to its target (R313). -/
def State.ramp (s : State) (x k : Nat) (target : Int) : State :=
  let p := k / 2
  let now := if k % 2 = 0 then (s.corr x p).1 else ((s.corr x p).2 : Int)
  s.modArray x fun a => { a with ramps := if now = target then Store.erase a.ramps k else Store.set a.ramps k (now, target - now, 0) }

/-- Reads in progress that use path `p` of array `x`, their own or their mirror's, keep the entry of their start (R313). -/
def State.keepCorr (s : State) (x p : Nat) : State :=
  let e := s.corr x p
  let keep (h : Store (Int × Nat)) : Store (Int × Nat) := if (Store.get? h p).isSome then h else Store.set h p e
  let run (own : Bool) (r : ArrRun) : ArrRun :=
    if own then { r with held := keep r.held } else if r.mirror = some x then { r with heldMirror := keep r.heldMirror } else r
  { s with arrays := s.arrays.map fun (u : Nat × ArrayU) => (u.1, { u.2 with runs := u.2.runs.map (run (u.1 == x)) }) }

/-- RAMP_LEFT of an array follows its ramps (Table CA-4). -/
def State.rampLeft (s : State) (x : Nat) : State :=
  s.setReg (Od.RAMP_LEFT x) ((s.array x).ramps.foldl (fun m (e : Nat × Int × Int × Nat) => Nat.max m (64 - e.2.2.2)) 0)

/-- Entry `k` takes a value in force. -/
def State.inForce (s : State) (x k : Nat) (v : Int) : State :=
  let s := s.keepCorr x (k / 2)
  { s.setReg (corrObj x (k / 2) (2 + k % 2)) (s.entry16 (k % 2 == 0) v) with freeN := s.freeN + 1 }

/-- The target of entry `k`. -/
def State.target (s : State) (x k : Nat) : Int :=
  if k % 2 = 0 then int16 (s.reg (calObj x (k / 2) 2)) else (s.reg (calObj x (k / 2) 3) : Int)

/-- f_temp(t, tv) · f_drift(te) as numerator over denominator (R311). -/
def cellFactor (t tv : Int) (te : Nat) : Int × Nat :=
  ((160000 - 15 * (t - tv)) * (500 * 2 ^ 40 - (log10Ms te : Int)), 160000 * (500 * 2 ^ 40))

/-- GAIN target of R312. -/
def gainTarget (conv : Nat) (f : Int × Nat) : Option Int :=
  if f.1 ≤ 0 then none else some (rneDivInt ((conv * f.2 : Nat) : Int) f.1.toNat)

/-- The ZERO_REF result of path `p` in 1/16 level-unit: the sum of 16 codes at the path's step (R71, Table CV-8). -/
def State.zeroNow (s : State) (x p : Nat) : Int :=
  Store.get 0 (s.array x).calAcc (calLine p) * (2 ^ (if p < 2048 then s.fsStep x else s.tfsStep x) : Nat)

/-- The targets of one path (R312). -/
def State.pathTarget (s : State) (x p : Nat) (now : Bool) : State :=
  let f := cellFactor (s.clTemp (acl x)) (int16 (s.reg (Od.VERIFY_TEMP x))) (s.driftTime x)
  let off := int16 (s.reg (calObj x p 4)) + (s.zeroNow x p - Store.get (s.zeroNow x p) (s.array x).zeroRest p)
  let g := match gainTarget (s.reg (calObj x p 5)) f with
    | some v => s.entry16 false v
    | none => Config.freeNat s.freeN % 0x10000
  let o := s.entry16 true off
  let newO := o ≠ s.reg (calObj x p 2)
  let newG := g ≠ s.reg (calObj x p 3)
  let s := ((s.spend 2).setReg (calObj x p 2) o).setReg (calObj x p 3) g
  if now then (s.inForce x (2 * p) (int16 o)).inForce x (2 * p + 1) g
  else
    let s := if newO then s.ramp x (2 * p) (int16 o) else s
    if newG then s.ramp x (2 * p + 1) g else s

/-- Firmware computes the targets of every path of an array. -/
def State.setTargets (s : State) (x : Nat) (now : Bool) : State :=
  let s := forAll (List.range 3072) s fun s p => s.pathTarget x p now
  (s.modArray x fun a => { a with targetsTemp := s.clTemp (acl x) }).rampLeft x

/-- CORRECTION_TARGET_UPDATE (R312): every 2^22 ticks, or when the temperature has moved by 0.5 °C; an implausible sensor
leaves the targets (R315). -/
def execCorrectionTargetUpdate (x : ArrayId) (s : State) : Out :=
  let n := x.num
  let c := acl n
  if (s.arrState n = AS.ACTIVE ∨ s.arrState n = AS.SHADOW) ∧ s.reg (Od.SENSOR_PLAUSIBLE c) = 1 ∧
      (s.now % 0x400000 = 0 ∨ 8 ≤ (s.clTemp c - (s.array n).targetsTemp).natAbs) then
    .next (s.setTargets n false)
  else .next s

/-- One boundary of every ramp of an array (R313). -/
def State.rampArray (s : State) (x : Nat) : State :=
  let a := s.array x
  if a.ramps = [] ∨ a.rampTick = s.now then s
  else
    let s := forAll a.ramps s fun s e =>
      let j := e.2.2.2 + 1
      s.inForce x e.1 (if 64 ≤ j then e.2.1 + e.2.2.1 else e.2.1 + (e.2.2.1 * (j : Int)).tdiv 64)
    let next := (a.ramps.filter fun (e : Nat × Int × Int × Nat) => e.2.2.2 + 1 < 64).map fun e =>
      (e.1, (e.2.1, (e.2.2.1, e.2.2.2 + 1)))
    (s.modArray x fun a => { a with ramps := next, rampTick := s.now }).rampLeft x

/-- RAMP_STEP: at a count that is a multiple of 2^16, in-force corrections move one step (R313). -/
def execRampStep (s : State) : Out :=
  if s.now % 0x10000 ≠ 0 then .next s else .next (forAll (s.arrays.map Prod.fst) s fun s x => s.rampArray x)

/-- Continuity values of the incoming array's path (R314); a path not fitted keeps its targets. -/
def State.continuity (s : State) (x p : Nat) (t : PairSum) : State :=
  let (o, g) := s.corr x p
  if t.fitted then
    let gc : Int := if t.gain.1 ≤ 0 then (Config.freeNat s.freeN % 0x10000 : Nat) else rneDivInt ((g * t.gain.2 : Nat) : Int) t.gain.1.toNat
    let oc : Int := if g = 0 then int16 (Config.freeNat (s.freeN + 1) % 0x10000)
      else o + rneDivInt (16 * (2 ^ s.fsStep x : Nat) * t.offset.1 * 16384) (t.offset.2 * g)
    let s := s.spend 2
    let s := (s.inForce x (2 * p) oc).inForce x (2 * p + 1) gc
    (s.ramp x (2 * p) (s.target x (2 * p))).ramp x (2 * p + 1) (s.target x (2 * p + 1))
  else (s.inForce x (2 * p) (s.target x (2 * p))).inForce x (2 * p + 1) (s.target x (2 * p + 1))

/-! ## The swap (R309) -/

/-- Every slot that binds the target is rebound to the incoming array and the target becomes SPARE or RETIRED. -/
def State.swapTransit (s : State) (c : Nat) : State :=
  let tgt := s.reg (Od.TRANSIT_TARGET c)
  let inc := s.reg (Od.TRANSIT_INCOMING c)
  let x := 34 * c + tgt
  let y := 34 * c + inc
  let bad := s.mismatches c
  let pairs := (s.cluster c).pairs
  let miss := s.reg (Od.LAST_VERDICT x) = 2
  let slots := s.slotsOf x
  let others := (s.spares c).filter fun p => p.1 ≠ inc
  let s := if miss then
      let s := s.expose x 1 bad.length (bad.getD 0 0xFFFF) (s.clean x) s.now
      let s := ((s.setReg (asObj c tgt) AS.RETIRED).endSeq x 4).bump Od.TRANSIT_RETIREMENTS 1
      let s := s.setSpares c others
      forAll pairs s fun s e => (s.inForce y (2 * e.1) (s.target y (2 * e.1))).inForce y (2 * e.1 + 1) (s.target y (2 * e.1 + 1))
    else
      let s := (s.setReg (asObj c tgt) AS.SPARE).setSpares c (others ++ [(tgt, false)])
      let s := s.modArray x fun a => { a with leftActive := s.now }
      let s := (s.setReg (Od.LAST_CLEAN_TIME x) s.now).bump Od.TRANSITS_DONE 1
      forAll pairs s fun s e => s.continuity y e.1 e.2
  let s := (s.setReg (asObj c inc) AS.ACTIVE).setReg (Od.LAST_CLEAN_TIME y) s.now
  let s := s.modCluster c fun u => slots.foldl (fun u (p : Nat × Nat) => u.bind p.1 p.2 inc) u
  let s := (((s.moveBlocks x y).armArray y).rampLeft y).transitIdle c
  s.checkSpare c

/-- TRANSIT_SWAP with no job of strand 0 RUNNING or HELD: the first tick in which neither queue of the target holds a
command is the boundary. With such a job the swap is part of its BATCH (R309). -/
def execTransitSwap (c : ClusterId) (s : State) : Out :=
  let n := c.num
  let st := s.strandState (2 * n)
  if s.reg (Od.TRANSIT_STATE n) = 3 ∧ st ≠ SS.RUNNING ∧ st ≠ SS.HELD ∧
      (s.array (34 * n + s.reg (Od.TRANSIT_TARGET n))).idle = true then .next (s.swapTransit n)
  else .next s

/-- TRANSIT_COPY_TIMEOUT (R317). -/
def execTransitCopyTimeout (c : ClusterId) (s : State) : Out :=
  let n := c.num
  if s.reg (Od.TRANSIT_STATE n) = 1 ∧ s.reg (Od.TRANSIT_START n) + (s.cluster n).transitSet.copyMax < s.now then
    .next ((s.abandonTransit n).checkSpare n)
  else .next s

/-- TRANSIT_PERIOD_S: a change of the period abandons the running transits (R317, R319). -/
def wrTransitPeriodS (v : Nat) (s : State) : Wr :=
  if v < 600 ∨ 86400 < v then noW s Code.RANGE_CONFLICT
  else
    let s := if v = s.reg Od.TRANSIT_PERIOD_S then s
      else forAll (List.range 1536) s fun s c => if s.reg (Od.TRANSIT_STATE c) = 0 then s else (s.abandonTransit c).checkSpare c
    okW (s.setReg Od.TRANSIT_PERIOD_S v)

def execTransitPeriodS (n : Nat) (v : Word) (s : State) : Out := s.write n (s.isOp n) (wrTransitPeriodS v.toNat)

/-! ## Rest calibration (R311) -/

/-- What rest calibration measures on one path: line and path, fitted offset in 1/16 level-unit, fitted gain in 2^-14, and
the ZERO_REF result in 1/16 level-unit. -/
def State.restPath (s : State) (x : Nat) (m : Nat × Int × Nat × Int) : State :=
  let p := m.1
  let f := cellFactor (s.clTemp (acl x)) (int16 (s.reg (Od.VERIFY_TEMP x))) (s.driftTime x)
  let s := s.setReg (calObj x p 4) (s.entry16 true m.2.1)
  let s := s.spend 1
  let s := s.setReg (calObj x p 5) (s.entry16 false (rneDivInt ((m.2.2.1 : Int) * f.1) f.2))
  (s.spend 1).modArray x fun a => { a with zeroRest := Store.set a.zeroRest p m.2.2.2 }

/-- REST_CALIBRATION of a spare that is not rested and not an incoming array: an open or stuck line retires it (R79), else
its rest values are stored and it is rested. -/
def execRestCalibration (x : ArrayId) (fit : List (Nat × Int × Nat × Int)) (meas : List WireMeas) (s : State) : Out :=
  let n := x.num
  let c := acl n
  let inc := 1 ≤ s.reg (Od.TRANSIT_STATE c) ∧ s.reg (Od.TRANSIT_STATE c) ≤ 3 ∧ s.reg (Od.TRANSIT_INCOMING c) = x.a.val
  if s.arrState n = AS.SPARE ∧ s.isRested c x.a.val = false ∧ ¬inc ∧ s.seqState n = 0 then
    let s := s.modArray n fun a => { a with seqFound := 0, seqOw := false, owLines := [] }
    let s := (s.openLines n (stdEntry 0 8) meas).openLines n (stdEntry 0 13) meas
    if 0 < (s.array n).seqFound then .next ((s.setAr 0x27 3 n 5).openFound n)
    else .next ((forAll fit s fun s m => s.restPath n m).setRested c x.a.val true)
  else .next s

end Sys2Proof.Machine
end

