-- ==== Sys2Proof/Machine/TimeIns.lean ====
section
/-!
DEFINITION. The time instructions of Table IS-5 (R158 to R161), NOP, BATCH and STEP (R52, R161, R272, R291), END, the
privileged instructions, and the idle gap (R200).
-/
namespace Sys2Proof.Machine

/-! ## Time -/

/-- The value that schedule point `p` is bound to, none where the role declares no such point (R158, R194). -/
def Strand.point (t : Strand) (p : Nat) : Option Nat := Store.get? t.points p

/-- TWAIT (R158): issues in the first tick whose job time is at least base + point. -/
def execTwait (i : Issue) (p : BitVec 12) (s : State) : Out :=
  let u := i.u.num
  match (s.strand u).point p.toNat with
  | none => .refused .undeclared
  | some v =>
    let tgt := (s.strand u).base + v
    match (s.strand u).stall with
    | some (.tick t) =>
      if t = tgt ∧ tgt ≤ s.jobTime u ∧ s.mayResume u = true then issueMet i s fun s => s.retire i else .next s
    | _ => issue i s fun s => if tgt ≤ s.jobTime u then s.retire i else s.stallAt u (.tick tgt) none

/-- DLN (R159): the deadline of the next instruction. A strand that reaches DLN after that tick is late from the next
instruction's first clock on. -/
def execDln (i : Issue) (p : BitVec 12) (s : State) : Out :=
  let u := i.u.num
  match (s.strand u).point p.toNat with
  | none => .refused .undeclared
  | some v => issue i s fun s =>
    (s.retire i).modStrand u fun t => { t with deadline := some (t.base + v), dlnAt := (s.now, i.ph.clk.val), late := false }

/-- TBASE: base = base + point. -/
def execTbase (i : Issue) (p : BitVec 12) (s : State) : Out :=
  let u := i.u.num
  match (s.strand u).point p.toNat with
  | none => .refused .undeclared
  | some v => issue i s fun s =>
    (s.modStrand u fun t => { t with base := (t.base + v) % 0x10000000000000000 }).retire i

/-- TRST: base = job time at issue. -/
def execTrst (i : Issue) (s : State) : Out :=
  issue i s fun s => (s.modStrand i.u.num fun t => { t with base := s.jobTime i.u.num }).retire i

/-- TNOW: sRD = low 32 bits of job time − base. -/
def execTnow (i : Issue) (rd : Reg) (s : State) : Out :=
  issue i s fun s =>
    let d := BitVec.ofNat 32 (s.jobTime i.u.num) - BitVec.ofNat 32 (s.strand i.u.num).base
    (s.modStrand i.u.num fun t => t.setS rd ⟨d, false⟩).retire i

/-- TGAP (R160): the strand issues nothing for the gap's length in job time. -/
def execTgap (i : Issue) (g : BitVec 12) (s : State) : Out :=
  let u := i.u.num
  match Store.get? (s.strand u).gaps g.toNat with
  | none => .refused .illegalEncoding
  | some n => issue i s fun s =>
    (s.retire i).modStrand u fun t => { t with gap := some (g.toNat, s.jobTime u + n) }

/-! ## Batch and step boundaries -/

/-- A command, of either strand, is queued for the array that slot `k` of bank `b` binds (R52). -/
def State.slotQueued (s : State) (u b k : Nat) : Bool :=
  !(s.array (34 * clOf u + (s.cluster (clOf u)).bound b k)).idle

/-- Pending bindings of kind 0 (switch) or 1 (replacements). -/
def Cluster.pendingOf (k : Cluster) (kind : Nat) : List (Nat × Nat) := k.pendingSlots.filter fun e => e.1 / 64 == kind

/-- The bindings of a meridian switch take effect together (R161, R291). -/
def State.installSwitch (s : State) (c e : Nat) : State :=
  let k := s.cluster c
  s.setCluster c { (k.pendingOf 0).foldl (fun (k : Cluster) p => k.bind (p.1 / 32 % 2) (p.1 % 32) p.2) k with
    pendingSlots := Store.keep k.pendingSlots fun e => 64 ≤ e, switching := none, installed := some e }

/-- A bank is cleared: its bindings return to slot s to array As (R293; log entry 24). -/
def Cluster.clearBank (k : Cluster) (b : Nat) : Cluster :=
  if b = 0 then { k with slotMap0 := [], clearing := none } else { k with slotMap1 := [], clearing := none }

/-- Replacements of R53 take effect one by one where no command is queued for their slot. -/
def State.installReplacements (s : State) (u : Nat) : State :=
  let c := clOf u
  forAll ((s.cluster c).pendingOf 1) s fun s p =>
    if s.slotQueued u (p.1 / 32 % 2) (p.1 % 32) then s
    else s.modCluster c fun k => { k.bind (p.1 / 32 % 2) (p.1 % 32) p.2 with pendingSlots := Store.erase k.pendingSlots p.1 }

/-- What takes effect at a BATCH of strand 0 (R52, R161, R293, R309, Table AX-8): a switch first, and then no swap or
replacement before the next BATCH. -/
def State.atBatch (s : State) (u : Nat) : State :=
  let c := clOf u
  let k := s.cluster c
  match k.switching with
  | some e =>
    if (k.pendingOf 0).any fun p => s.slotQueued u (p.1 / 32 % 2) (p.1 % 32) then s else s.installSwitch c e
  | none =>
    let s := match k.clearing with
      | some b => if (List.range 32).any (fun i => s.slotQueued u b i) then s else s.modCluster c fun k => k.clearBank b
      | none => s
    let s := s.installReplacements u
    if s.reg (Od.TRANSIT_STATE c) = 3 then
      if (s.array (34 * c + s.reg (Od.TRANSIT_TARGET c))).idle then s.swapTransit c else s
    else s

/-- BATCH (R161, R272): strand 0 only; never waits. -/
def execBatch (i : Issue) (bank : Fin 2) (s : State) : Out :=
  if i.u.st = 0 then
    issue i s fun s =>
      let s := s.modStrand i.u.num fun t => { t with bank := bank.val }
      (s.atBatch i.u.num).retire i
  else .refused .illegalEncoding

/-- The bank of the version that is CURRENT for the serving job on a strand's cluster (R272). -/
def State.servingBank (s : State) (c : Nat) : Nat :=
  let j := s.strandJob (2 * c)
  match (List.range 16).find? fun e => s.reg (Od.VER_JOB e) == j && s.reg (Od.VER_STATE e) == 5 with
  | some e => s.reg (Od.VER_NUMBER e) % 2
  | none => (s.strand (2 * c)).bank

/-- STEP (R161, R137): strand 1 only. A pending freeze takes effect at the first STEP, which waits until no array command, DMA
descriptor or send of the strand is outstanding. -/
def execStep (i : Issue) (s : State) : Out :=
  if i.u.st = 1 then
    issue i s fun s =>
      let u := i.u.num
      let c := i.u.cl.num
      let j := s.strandJob u
      if (s.strand u).freezeReq && s.strandState u == SS.RUNNING && s.outstanding u then s.stallAt u .boundary none else
      let s := (s.retire i).modStrand u fun t => { t with lastStep := s.jobTime u, bank := s.servingBank c }
      let s := if s.rankOf u = 0 then s.setReg (Od.TRAIN_STEPS j) ((s.reg (Od.TRAIN_STEPS j) + 1) % 0x10000000000000000) else s
      if (s.strand u).freezeReq ∧ s.strandState u = SS.RUNNING then
        let s := s.modStrand u fun t => { t with freezeReq := false, frozenAt := s.now }
        let s := s.setReg (ssObj u) SS.FROZEN
        if s.rankOf u = 0 then s.event 6 (.tenant (s.reg (Od.JOB_TENANT j))) (beBytes 1 j ++ beBytes 1 0 ++ beBytes 2 0) else s
      else s
  else .refused .illegalEncoding

/-- END: the job ends complete once every strand of it has ended (Tables CL-6, PC-6). -/
def execEnd (i : Issue) (s : State) : Out :=
  issue i s fun s =>
    let u := i.u.num
    let j := s.strandJob u
    let s := (s.retire i).releaseStrand u
    if (s.jobStrands j).all fun v => s.strandState v == SS.RELEASING || s.strandState v == SS.EMPTY then
      s.endJob j Code.OK 0 0
    else s

/-! ## Privileged instructions -/

/-- PSLOT: slot sRA[4:0] is bound to array sRA[10:5] of the cluster, in the bank of the strand's batch, at the BATCH at which R52
lets the slot map change. The spec names no array for 34 to 63 (log entry 26). -/
def execPslot (i : Issue) (ra : Reg) (s : State) : Out :=
  issueCtl i s (fun s => [(s.strand i.u.num).s ra]) fun s =>
    let u := i.u.num
    let c := i.u.cl.num
    let v := ((s.strand u).s ra).val.toNat
    let slot := v % 32
    let a := if v / 32 % 64 < 34 then v / 32 % 64 else Config.freeNat s.freeN % 34
    let s := s.spend 1
    let b := (s.strand u).bank
    (s.modCluster c fun k => { k with pendingSlots := Store.set k.pendingSlots (64 + 32 * b + slot) a }).retire i

/-- PTAG: page sRA[9:0] takes the tag sRD[11:0]: valid, strand, tenant (log entry 25: bit 11, bit 10, bits 9 to 0). A
page from 640 on, which no SRAM has, keeps its tag and counts in PAGES_USED too (log entry 115). -/
def execPtag (i : Issue) (ra rd : Reg) (s : State) : Out :=
  issueCtl i s (fun s => [(s.strand i.u.num).s ra, (s.strand i.u.num).s rd]) fun s =>
    let t := s.strand i.u.num
    let p := (t.s ra).val.toNat % 1024
    let w := (t.s rd).val.toNat
    let tag : PageTag := ⟨w / 2048 % 2 == 1, w / 1024 % 2, w % 1024⟩
    { s with pages := Store.set s.pages (1024 * i.u.cl.num + p) tag }.retire i

/-- PCSRR: sRD = control register IMM. -/
def execPcsrr (i : Issue) (rd : Reg) (n : BitVec 12) (s : State) : Out :=
  issue i s fun s =>
    let v := Store.get 0 (s.cluster i.u.cl.num).pcsr n.toNat
    (s.modStrand i.u.num fun t => t.setS rd ⟨v, false⟩).retire i

/-- PCSRW: control register IMM = sRA. -/
def execPcsrw (i : Issue) (ra : Reg) (n : BitVec 12) (s : State) : Out :=
  issueCtl i s (fun s => [(s.strand i.u.num).s ra]) fun s =>
    let v := ((s.strand i.u.num).s ra).val
    (s.modCluster i.u.cl.num fun k => { k with pcsr := Store.set k.pcsr n.toNat v }).retire i

/-- Clearing of a strand (R126): its pages zeroed, its tags invalid, its instruction store and register files cleared. -/
def State.clearStrand (s : State) (u : Nat) : State :=
  let c := clOf u
  let mine (p : Nat) : Bool := let t := s.page c p; t.valid && t.strand == stOf u
  let s := s.clearSram c mine
  let s := s.clearTags c fun t => t.valid && t.strand == stOf u
  s.modStrand u fun t => { t with sreg := [], vreg := [], preg := [], imem := [], pc := 0 }

/-- PCLR: strand sRA[0] is cleared as R126 states. -/
def execPclr (i : Issue) (ra : Reg) (s : State) : Out :=
  issueCtl i s (fun s => [(s.strand i.u.num).s ra]) fun s =>
    let v := 2 * i.u.cl.num + ((s.strand i.u.num).s ra).val.toNat % 2
    if v = i.u.num then (s.retire i).clearStrand v else (s.clearStrand v).retire i

/-! ## Idle gaps (R200) -/

/-- IDLE_GAP: a strand stalled at SWAIT, SWAITEQ or TWAIT for 213 ticks, with no deadline pending, offers its stall. -/
def execIdleGap (v : StrandId) (s : State) : Out :=
  let u := v.num
  let t := s.strand u
  let waits : Bool := match t.stall with
    | some (.sync _ _ _ met) => !met
    | some (.tick _) => true
    | _ => false
  if waits = true ∧ t.deadline = none ∧ t.idleOffered = false ∧ t.stallSince + 213 ≤ s.now ∧
      s.strandState u ≠ SS.EMPTY then
    .next (s.modStrand u fun t => { t with idleOffered := true })
  else .next s

end Sys2Proof.Machine
end

