-- ==== Sys2Proof/Machine/DieNet.lean ====
section
/-!
DEFINITION. Checking, replay and the fallback path of the die network (R170, R182 to R184).
-/
namespace Sys2Proof.Machine

/-- BAD_HEADERS: a message of a reserved TYPE reaches a stop of die `d` and is discarded (Table DN-6). -/
def execBadHeaders (d : Fin 16) (type : Fin 16) (s : State) : Out :=
  if 11 ≤ type.val then .next (s.bump ⟨0x3052 + 0x100 * d.val, 9, 0⟩ 1) else .next s

/-- The jobs whose bound routes cross a die link (R172, R183). -/
def linkJobs (s : State) (l : Nat) : List Nat :=
  (s.jobs.filter fun (e : Nat × Job) => e.2.links.contains l &&
    (s.jobState e.1 == JS.BOUND || s.jobState e.1 == JS.ENABLED)).map Prod.fst

/-- A die link leaves UP for DOWN, TRAINING or RETIRED: its flits are discarded, and every job whose routes cross it ends
with LINK_LOST, source its number (R183). -/
def State.loseLink (s : State) (l st why : Nat) : State :=
  let js := linkJobs s l
  let s := s.setReg (Od.LINK_STATE l) st
  let s := forAll js s fun s j => s.endJob j Code.LINK_LOST Br.LINK_LOST l
  let s := s.dropMsgs fun m => js.contains m.job
  if st = 3 then s.fault 7 0xFF 0xFF l why [] else s

/-- Words of a flit or message with those listed in `bad` poisoned. -/
def poisonAt (bad : List Nat) (ws : List PWord) : List PWord :=
  ((List.range ws.length).zip ws).map fun e => if bad.contains e.1 then PWord.mk e.2.val true else e.2

/-- Words fail again after their replay and are poisoned (R182); the state, and how many there are. -/
def State.poisonWords (s : State) (what : ReplayOf) (bad : List Nat) : State × Nat :=
  let hit (ws : List PWord) : Nat := (bad.eraseDups.filter fun i => decide (i < ws.length)).length
  match what with
  | .none => (s, 0)
  | .message k => match s.net[k]? with
    | none => (s, 0)
    | some m => ({ s with net := s.net.set k { m with payload := poisonAt bad m.payload } }, hit m.payload)
  | .part j rgid i src f =>
    let r := s.merge j rgid i
    match r.held src f with
    | none => (s, 0)
    | some h =>
      (s.setMerge j rgid i { r with waiting := r.waiting.map fun w =>
        if w.src = src ∧ w.num = r.fwd then { w with flits := Store.set w.flits f (h.1, poisonAt bad h.2) } else w }, hit h.2)

/-- Firmware retires the cluster of position `p` of a die, if it is a cluster's (R184). -/
def State.retireStop (s : State) (d p : Nat) : State :=
  if p % 25 = 0 then s
  else
    let c := 96 * d + (p - 1 - (p - 1) / 25)
    (s.clusterReset c Code.ORPHANED Br.ORPHANED 0).retireCluster c 0 s.now

/-- A segment over its threshold is bypassed over its twin; a second one at the position retires the cluster clockwise of
it (R184). -/
def State.bypassSeg (s : State) (d g : Nat) : State :=
  let p := g % 100
  let second := (List.range 4).any fun r => s.bypassed d r p
  let n := Store.get 0 s.segReplays (400 * d + g)
  let s := (s.setReg ⟨0x3051 + 0x100 * d, 1, g⟩ 1).fault 6 d 0xFF g n []
  if second then s.retireStop d ((p + 1) % 100) else s

/-- FLIT_REPLAY on ring segment `g` of die `d` (`link` none) or on a die link: one replay, which resends flits of the retry buffer of
8 or 256 (R182; log entry 121); `again.bad` lists the words of `what` that fail again. A segment that fails persistently is bypassed, its
retry buffer resent over the twin (R184). -/
def execFlitReplay (d : Fin 16) (g : Fin 400) (link : Option (Fin 33)) (what : ReplayOf) (again : Again) (s : State) : Out :=
  let r := s.poisonWords what again.bad
  let s := r.1
  match link with
  | none =>
    let key := 400 * d.val + g.val
    let n := Store.get 0 s.segReplays key + 1
    let s := { s.bump ⟨0x3052 + 0x100 * d.val, 3, 0⟩ 1 with segReplays := Store.set s.segReplays key n }
    let s := if r.2 = 0 then s else
      (s.bump ⟨0x3052 + 0x100 * d.val, 4, 0⟩ r.2).fault 3 d.val 0xFF g.val r.2 []
    .next (if (again.persists = true ∨ s.reg ⟨0x3053 + 0x100 * d.val, 2, 0⟩ < n) ∧ s.bypassed d.val (g.val / 100) (g.val % 100) = false then
      (s.bypassSeg d.val g.val).bump ⟨0x3052 + 0x100 * d.val, 8, 0⟩ (Nat.min 8 again.resent.val) else s)
  | some l =>
    let n : Nat := Store.get 0 s.linkReplays l.val + 1
    let s := { s.bump (Od.LINK_REPLAYS l.val) 1 with linkReplays := Store.set s.linkReplays l.val n }
    let s := s.bump (Od.LINK_FLITS l.val) again.resent.val
    let s := if r.2 = 0 then s else (s.bump (Od.LINK_POISONED_WORDS l.val) r.2).fault 4 0xFF 0xFF l.val r.2 []
    if s.reg Od.LINK_RETIRE_THRESHOLD < n && s.linkUp l.val then .next (s.loseLink l.val 3 1) else .next s

/-- LINK_ACK_TIMEOUT: 1,024 clocks without acknowledgement take an UP link to DOWN; firmware retrains it at once, but the
third DOWN in one monitor window retires it (R183). -/
def execLinkAckTimeout (l : Fin 33) (s : State) : Out :=
  if s.linkUp l.val then
    let n := Store.get 0 s.linkDowns l.val + 1
    let s := { s with linkDowns := Store.set s.linkDowns l.val n }
    if 3 ≤ n then .next (s.loseLink l.val 3 3)
    else .next { s.loseLink l.val 1 0 with linkTrainAt := Store.set s.linkTrainAt l.val s.now }
  else .next s

/-- Recovery goes on to TRIMS once no link trains (Table RL-8). -/
def State.linksDone (s : State) : State :=
  if s.reg Od.RECOVERY_STATE = 1 ∧ (List.range 33).all (fun l => s.reg (Od.LINK_STATE l) != 1) = true then s.setReg Od.RECOVERY_STATE 2
  else s

/-- LINK_TRAINING_DONE: to UP within 1 ms, else to RETIRED; the training of bring-up takes 1.2 s (Table PK-5). -/
def execLinkTrainingDone (l : Fin 33) (ok : Bool) (s : State) : Out :=
  if s.reg (Od.LINK_STATE l.val) = 1 then
    if ok && (s.reg Od.RECOVERY_STATE == 1 || decide (s.now ≤ Store.get 0 s.linkTrainAt l.val + 212500)) then
      .next (s.setReg (Od.LINK_STATE l.val) 2).linksDone
    else .next (s.loseLink l.val 3 2).linksDone
  else .next s

/-- LINK_RETRAIN: 1 retrains a link in DOWN or RETIRED (Table DN-11). -/
def wrLinkRetrain (l : Nat) (v : Bool) (s : State) : Wr :=
  let st := s.reg (Od.LINK_STATE l)
  if v then
    if st = 1 ∨ st = 2 then badState s st
    else okW { s.setReg (Od.LINK_STATE l) 1 with linkTrainAt := Store.set s.linkTrainAt l s.now }
  else okW s

def execLinkRetrain (n : Nat) (l : Fin 33) (v : Bool) (s : State) : Out := s.write n (s.isOp n) (wrLinkRetrain l.val v)

end Sys2Proof.Machine
end

