-- ==== Sys2Proof/Machine/Sidereal.lean ====
section
/-!
DEFINITION. Sidereal time, holds, elastic buffers and synchronisation (R203, R206 to R225, R237): the tick, the start and
end of strands and holds, ballast, peers, and beacons.
-/
namespace Sys2Proof.Machine

/-! ## Job lag and ballast (R219, R222) -/

/-- Λ of a job rises to `off`: each context in flight draws the rise, charged to a hold cause (R222). -/
def State.raiseLag (s : State) (j off cause : Nat) : State :=
  let d := off - s.reg (Od.JOB_LAG j)
  if d = 0 then s
  else
    let live := s.liveCtxs j
    let s := s.setReg (Od.JOB_LAG j) off
    let s := forAll live s fun s x =>
      let s := s.setReg (Od.CTX_BALLAST x) (unsigned32 (signed32 (s.reg (Od.CTX_BALLAST x)) - d))
      let c := s.ctx x
      s.setCtx x { c with drawn := Store.set c.drawn cause (Store.get 0 c.drawn cause + d) }
    if live = [] then s else s.bump Od.BALLAST_DRAWN_TICKS (d * live.length)

/-! ## Holds (R214 to R218) -/

/-- The end of one request: raised + n for a span, withdrawn + 1 for an open one, none while it is open (R215). -/
def HoldReq.fin (r : HoldReq) : Option Nat :=
  match r.span with
  | some n => some (r.raised + n)
  | none => r.withdrawn.map (· + 1)

/-- E of the current hold: the largest end of its requests, none while one is open. -/
def holdEnd (l : List HoldReq) : Option Nat :=
  (l.filter fun r => !r.after).foldl (fun a r => match a, r.fin with
    | some x, some y => some (Nat.max x y)
    | _, _ => none) (some 0)

/-- The end of the current hold and of the replay hold that follows it, its span added in full (Table NF-5). -/
def holdUntil (l : List HoldReq) : Option Nat :=
  (holdEnd l).map fun e => e + (l.filter fun r => r.after).foldl (fun a r => Nat.max a (r.span.getD 0)) 0

/-- A hold of the job lasts through tick `now` (R215). -/
def Job.holding (t : Job) (now : Nat) : Bool :=
  t.holdStart.isSome && match holdUntil t.reqs with
    | some e => decide (now < e)
    | none => true

/-- HOLD_OFFSET of the job on this module follows its strands: the largest of theirs (log entry 117), and Λ with it. -/
def State.offsetRises (s : State) (j cause : Nat) : State :=
  let v := (s.jobStrands j).foldl (fun a u => Nat.max a (s.reg (hoObj u))) (s.reg (Od.JOB_HOLD_OFFSET j))
  (s.setReg (Od.JOB_HOLD_OFFSET j) v).raiseLag j v cause

/-- Strands of the job add `n` ticks to their HOLD_OFFSET (R131, R215). -/
def State.addOffset (s : State) (j n cause : Nat) (us : List Nat) : State :=
  (forAll us s fun s u => s.setReg (hoObj u) ((s.reg (hoObj u) + n) % 0x10000000000000000)).offsetRises j cause

/-- HOLD_OFFSET of the job on this module and of its strands takes a value. -/
def State.setOffset (s : State) (j v : Nat) : State :=
  forAll (s.jobStrands j) (s.setReg (Od.JOB_HOLD_OFFSET j) v) fun s u => s.setReg (hoObj u) v

/-- HOLD_START: from the tick after the first request every RUNNING strand of the job is HELD (R132, R215, Table CL-6). A job end, a
debug stop or a freeze of the request's own tick comes first (R139). -/
def execHoldStart (j : Nat) (s : State) : Out :=
  let t := s.job j
  match t.reqs, t.holdStart with
  | r :: _, none =>
    if s.jobState j = JS.ENABLED ∧ r.raised < s.now then
      let s := s.modJob j fun t => { t with holdStart := some r.raised }
      let s := forAll (s.jobStrands j) s fun s u =>
        if s.strandState u = SS.RUNNING then s.setReg (ssObj u) SS.HELD else s
      let s := s.setReg (Od.LAST_HOLD_CAUSE j) r.cause
      let s := s.addOffset j (s.now - r.raised) r.cause ((s.jobStrands j).filter fun u => s.strandState u == SS.HELD)
      .next ((s.bump Od.HOLDS 1).holdRecord j r.cause r.raised ((holdUntil t.reqs).getD 0))
    else .next s
  | _, _ => .next s

/-- A cluster's own copy of the floor falls by the length of a hold that ends; the value that stands for no request stays (R96). -/
def Strand.lowerFloor (t : Strand) (n : Nat) : Strand :=
  { t with floors := t.floors.map fun (e : Nat × Int) => if e.2 = 0x7FFFFFFF then e else (e.1, e.2 - n) }

/-- HOLD_END: at E issue resumes (R215), or the hold of a replay raised in this one starts (Table NF-5). -/
def execHoldEnd (j : Nat) (s : State) : Out :=
  let t := s.job j
  match t.holdStart, holdEnd t.reqs with
  | some b, some e =>
    if e ≤ s.now then
      let s := s.bump Od.HOLD_TICKS (e - b)
      let s := s.holdRecord j (s.reg (Od.LAST_HOLD_CAUSE j)) b e
      let s := forAll (s.jobStrands j) s fun s u => s.modStrand u fun k => k.lowerFloor (e - b)
      match t.reqs.filter fun r => r.after with
      | [] =>
        let s := forAll (s.jobStrands j) s fun s u =>
          if s.strandState u = SS.HELD then (s.setReg (ssObj u) SS.RUNNING).endLend (clOf u) else s
        .next (s.modJob j fun t => { t with reqs := [], holdStart := none, alarmed := false })
      | l =>
        let l := l.map fun r => { r with raised := e, after := false }
        let s := (s.modJob j fun t => { t with reqs := l, holdStart := some e, alarmed := false }).setReg (Od.LAST_HOLD_CAUSE j) 4
        .next ((s.bump Od.HOLDS 1).holdRecord j 4 e ((holdEnd l).getD 0))
    else .next s
  | _, _ => .next s

/-- HOLD_OFFSET of module `m` now, by its last record: while its hold lasts it grows with the tick (R218; log entry 118). -/
def State.peerOffset (s : State) (j m : Nat) : Nat :=
  Store.get 0 (s.job j).peers m + match Store.get? (s.job j).peerHolds m with
    | some h => (if h.2 = 0 then s.now else Nat.min s.now h.2) - h.1
    | none => 0

/-- The PEER requests due: Δ above 3,840 ticks against a module that sends to this one and that none was sent to yet (R218). -/
def State.askPeers (s : State) (j : Nat) : State :=
  let own := s.reg (Od.JOB_HOLD_OFFSET j)
  let lim := s.reg Od.PEER_THRESHOLD
  let far := (s.job j).senders.filter fun m => decide (lim < own - s.peerOffset j m)
  let new := far.filter fun m => !(s.job j).asked.contains m
  let s := forAll new s fun s m => (s.notice m 6 [j, s.coord, short32 own]).bump Od.PEER_HOLDS_SENT 1
  s.modJob j fun t => { t with asked := far }

/-- The peer hold of this module is withdrawn once Δ is at most 3,840 (R218). -/
def State.peerDone (s : State) (j : Nat) : State :=
  match (s.job j).peerHold with
  | none => s
  | some m =>
    if s.peerOffset j m - s.reg (Od.JOB_HOLD_OFFSET j) ≤ s.reg Od.PEER_THRESHOLD then
      s.modJob j fun t => { t with
        peerHold := none
        reqs := t.reqs.map fun (r : HoldReq) =>
          if r.cause = 5 ∧ r.src = none ∧ r.withdrawn = none then { r with withdrawn := some s.now } else r }
    else s

/-- HOLD_RECORD from module `m`: cause, t, E (0 while the hold is open) and HOLD_OFFSET, in short form (R216, R218, R219). -/
def execHoldRecord (j m cause : Nat) (times : HoldTimes) (s : State) : Out :=
  if (s.jobModules j).contains m && m != s.coord then
    let v := expand32 (Store.get 0 (s.job j).peers m) times.off.toNat
    let b := expand32 s.now times.start.toNat
    let f := expand32 s.now times.fin.toNat
    let s := s.modJob j fun k => { k with
      peers := Store.set k.peers m v
      peerHolds := if times.fin = 0 then Store.set k.peerHolds m (b, 0)
        else if s.now < f then Store.set k.peerHolds m (b, f) else Store.erase k.peerHolds m }
    .next (((s.raiseLag j v cause).askPeers j).peerDone j)
  else .next s

/-- PEER_HOLD_REQUEST from module `m` with its HOLD_OFFSET (R218). In a hold it joins it (Table ST-6). -/
def execPeerHoldRequest (j m : Nat) (off : Word) (s : State) : Out :=
  if (s.jobModules j).contains m && m != s.coord && s.jobState j == JS.ENABLED then
    let s := if (Store.get? (s.job j).peerHolds m).isSome then s
      else s.modJob j fun t => { t with peers := Store.set t.peers m (expand32 (Store.get 0 t.peers m) off.toNat) }
    let s := match (s.job j).peerHold with
      | some _ => s
      | none => (s.request j none 5 none).modJob j fun t => { t with peerHold := some m }
    .next (s.peerDone j)
  else .next s

/-- The input of a merge point of this module that a message from module `src`, strand `u`, enters: the point and its
stream. -/
def State.mergeEntry (s : State) (j : Nat) (g : Group) (src u : Nat) : Option (Nat × Nat) :=
  (List.range g.points.length).findSome? fun i =>
    match g.points[i]? with
    | some p =>
      let from' (x : MergeSrc) : Bool :=
        let q := s.place j (g.lead x.src)
        q.coord == src && (s.job j).strandOf q == u
      if p.mod = s.coord then (p.inputs.find? from').map fun x => (i, x.src) else none
    | none => none

/-- A message goes on from the arrival PF, with a number of its source stop there: into a merge point, or to its stop (R177, R357). One of
a reserved TYPE is discarded (Table DN-6). -/
def State.enterNet (s : State) (f : FabMsg) : State :=
  let r := s.numbered (nodeOf (if f.spf = 0 then PF0 else PF1) 0) s.coord f.msg
  let m := { r.2 with how := { r.2.how with left := 0 } }
  let s := r.1
  if 11 ≤ m.type then (if m.dst < 0x10000 then s.bump ⟨0x3052 + 0x100 * dieOf (clOf m.dst), 9, 0⟩ 1 else s) else
  match (if m.type = 1 ∨ m.type = 2 then s.group m.job m.rgid else none) with
  | some g =>
    match s.mergeEntry m.job g f.src m.src with
    | some e => s.mergeMsg m.job m.rgid e.1 e.2 m
    | none => { s with net := s.net ++ [m] }
  | none => { s with net := s.net ++ [m] }

/-- ELASTIC_RELEASE: message `k` of the job's elastic buffer enters the die network once job time reaches its release
(R217). -/
def execElasticRelease (j k : Nat) (s : State) : Out :=
  match (s.job j).elastic[k]? with
  | none => .next s
  | some e =>
    if e.release ≤ s.jobNow j then
      let s := s.modJob j fun t => { t with elastic := t.elastic.eraseIdx k }
      .next (s.enterNet e.msg)
    else .next s

/-! ## Strands (R203, R126) -/

/-- STRAND_START: at the job's start tick its LOADED strands run from the entry point (R203, Table CL-6); a READY version
of a job without a CURRENT one becomes CURRENT (Table WT-1). -/
def execStrandStart (j : Nat) (s : State) : Out :=
  match (s.job j).startTick with
  | none => .next s
  | some t =>
    if s.now < t then .next s
    else
      let vs := (List.range 16).filter fun e => s.reg (Od.VER_JOB e) == j
      let s := if vs.any fun e => s.reg (Od.VER_STATE e) == 5 then s
        else match vs.find? fun e => s.reg (Od.VER_STATE e) == 4 with
          | some e => (s.setReg (Od.VER_STATE e) 5).setReg (Od.ADMISSION_PAUSED j) 0
          | none => s
      let bank := match vs.find? fun e => s.reg (Od.VER_STATE e) == 5 with
        | some e => s.reg (Od.VER_NUMBER e) % 2
        | none => 0
      let s := (s.setOffset j 0).setReg (Od.JOB_LAG j) 0
      let s := forAll (s.jobStrands j) s fun s u =>
        if s.reg (ssObj u) = SS.LOADED then
          let s := s.modStrand u fun k => { k with base := t, pc := k.entry, bank := bank, lastStep := t }
          (s.setReg (ssObj u) SS.RUNNING).endLend (clOf u)
        else s
      .next ((s.setReg (Od.JOB_ENABLE j) 1).modJob j fun k => { k with startTick := none, peers := [], peerHolds := [] })

/-- The objects of a strand that reaches EMPTY are FREE (Table SY-1). -/
def State.freeObjs (s : State) (u : Nat) : State :=
  let c := clOf u
  let s := forAll (List.range 48) s fun s b =>
    if s.reg (syObj c b 1) ≠ 0 ∧ s.reg (syObj c b 2) = stOf u then
      forAll [(1, 0), (2, 0xFF), (3, 0), (5, 0), (6, 0), (7, 0), (8, 0xFFFFFFFF), (10, 0)] s fun s e =>
        s.setReg (syObj c b e.1) e.2
    else s
  s.modCluster c fun k => { k with nodes := k.nodes.filter fun (e : Nat × NodeLinks) => e.2.strand != stOf u }

/-- Bytes of the pool pages of a job on this module (R431). -/
def Job.poolBytes (t : Job) : Nat :=
  4096 * ((t.pools.flatMap fun p => (List.range ((p.2.2.1 + p.2.2.2 + 4095) / 4096 - p.2.2.1 / 4096)).map fun i =>
    (p.2.1, p.2.2.1 / 4096 + i)).eraseDups).length

/-- An ENDING job whose strands are all EMPTY returns to NONE (Table PC-6); its CURRENT version returns to READY (Table
WT-1), unless another version of the job waits for the drain. -/
def State.jobToNone (s : State) (j : Nat) : State :=
  if s.jobState j = JS.ENDING ∧ (s.jobStrands j).all (fun v => s.reg (sjObj v) ≠ j || s.reg (ssObj v) == SS.EMPTY) = true then
    let waits := (List.range 16).any fun e => s.reg (Od.VER_JOB e) == j && s.reg (Od.VER_STATE e) == 2
    let s := forAll (List.range 16) s fun s e =>
      if s.reg (Od.VER_JOB e) = j ∧ s.reg (Od.VER_STATE e) = 5 ∧ waits = false then s.setReg (Od.VER_STATE e) 4 else s
    let s := { s with merges := Store.keep s.merges fun k => k / 0x10000000000 != j }
    let t := s.reg (Od.JOB_TENANT j)
    let s := s.setReg (Od.TENANT_SRAM_USED t) (s.reg (Od.TENANT_SRAM_USED t) - (s.job j).poolBytes)
    ((s.setReg (Od.JOB_STATE j) JS.NONE).setReg (Od.TRAIN_PAIR j) 0).setJob j Job.new
  else s

/-- STRAND_CLEAR_DONE (R126): a RELEASING strand is cleared and EMPTY. -/
def execStrandClearDone (v : StrandId) (s : State) : Out :=
  let u := v.num
  let c := clOf u
  if s.reg (ssObj u) = SS.RELEASING then
    let j := s.strandJob u
    let s := (s.clearStrand u).freeObjs u
    let s := s.setStrand u Strand.new
    let s := ((s.setReg (ssObj u) SS.EMPTY).setReg (sjObj u) 0).setReg (hoObj u) 0
    let s := s.dropMsgs fun m => m.dst == u && decide (m.dst < 0x10000)
    let s := s.modCluster c fun k => { k with idleFrom := s.ticks, restFrom := s.ticks }
    .next (s.jobToNone j)
  else .next s

/-! ## The tick (R206) -/

/-- A deadline that this tick missed without an issue or a stall (R159, R214): the request stands from this tick on. -/
def State.tickDeadline (s : State) (u : Nat) : State :=
  if s.strandState u = SS.RUNNING ∧ s.overdue u then s.missed u else s

/-- The held ticks of one job before the count advances: HOLD_OFFSET of a strand grows while the job is held and its end not reached,
and while the strand is FROZEN or in DEBUG, once a tick (R131, R139, Table CL-6). -/
def State.tickJob (s : State) (j : Nat) : State :=
  let us := s.jobStrands j
  let held := (s.job j).holding s.now
  let grows := us.filter fun u => s.strandState u == SS.FROZEN || s.strandState u == SS.DEBUG || held && s.strandState u == SS.HELD
  if grows = [] then s
  else
    let s := forAll us s fun s u => if s.strandState u = SS.HELD ∧ stOf u = 0 ∧ held then s.bump (clCnt (clOf u) 7) 1 else s
    s.addOffset j 1 (s.reg (Od.LAST_HOLD_CAUSE j)) grows

/-- One strand after the count advanced: a test gap that ends (R160), an idle gap's tick (R200) or its end, a stall that is over, a
deadline missed by a stalled instruction (R159). -/
def State.tickStrand (s : State) (u : Nat) : State :=
  let t := s.strand u
  let s := match t.gap with
    | some g => if g.2 ≤ s.jobTime u then s.modStrand u fun t => { t with gap := none } else s
    | none => s
  let ended := s.stallOver u
  let s := if t.idleOffered then
      (if ended then s.modStrand u fun t => { t with idleOffered := false } else s.bump Od.IDLE_GAP_TICKS 1)
    else s
  match t.stall with
  | none => s
  | some _ =>
    if ended then s.withdraw (s.strandJob u) (some u)
    else if s.overdue u ∧ s.strandState u = SS.RUNNING then s.missed u else s

/-- The place of a fragment is still there (R390). -/
def State.placeHolds (s : State) (c place : Nat) : Bool :=
  if place < 2 then (s.strand (2 * c + place)).gap.isSome
  else if place < 4 then (s.strand (2 * c + place - 2)).idleOffered
  else s.strandState (2 * c) == SS.EMPTY && s.strandState (2 * c + 1) == SS.EMPTY

/-- Every fragment of a list of packs, in pack order, as (pack, index). -/
def fragmentOrder (packs : List (List Fragment)) : List (Nat × Nat) :=
  (List.range packs.length).flatMap fun p => (List.range (packs.getD p []).length).map fun i => (p, i)

/-- The packs of a cluster's round: those it started with, or those held now where no round runs (R437). -/
def State.packsOf (s : State) (c : Nat) : List (List Fragment) := if (s.cluster c).inRound then (s.cluster c).packs else s.packs

/-- The place of the fragment that is due on a cluster. -/
def State.duePlace (s : State) (c : Nat) : Nat × Nat :=
  if (s.cluster c).inRound then ((s.cluster c).pfPack, (s.cluster c).pfFrag) else (fragmentOrder s.packs).getD 0 (0, 0)

/-- The fragment that is due on a cluster (R390). -/
def State.dueFragment (s : State) (c : Nat) : Option Fragment :=
  ((s.packsOf c).getD (s.duePlace c).1 [])[(s.duePlace c).2]?

/-- A fragment whose gap ends before its length has passed stops (R391). -/
def State.tickFragment (s : State) (c : Nat) : State :=
  match (s.cluster c).pfRunning, s.dueFragment c with
  | some r, some f => if s.now < r.start + f.ticks ∧ s.placeHolds c r.place = false then s.stopFragment c else s
  | _, _ => s

/-- Idle and lent ticks of a cluster (R236, R414). One that nothing has touched since the reset has been idle since then. -/
def State.tickCluster (s : State) (c : Nat) : State :=
  let k := s.cluster c
  let idle := s.lendIdle (2 * c) && s.lendIdle (2 * c + 1) && s.arraysQuiet c
  let rest (u : Nat) : Bool := s.strandState u == SS.EMPTY || s.strandState u == SS.FROZEN
  let quiet := rest (2 * c) && rest (2 * c + 1) && s.arraysQuiet c &&
    !s.net.any fun m => m.dst < 0x10000 && clOf m.dst == c
  let s := if k.lent then s.bump (syCnt c 7) 1 else s
  s.setCluster c { k with
    idleFrom := if idle then k.idleFrom else s.ticks
    restFrom := if quiet then k.restFrom else s.ticks }

/-- The end of a monitor window of 2^16 ticks: replays of the window become readable and counting starts again (R183,
R184, R350). -/
def State.windowEnd (s : State) : State :=
  let s := forAll s.segReplays s fun s e => s.setReg ⟨0x3051 + 0x100 * (e.1 / 400), 2, e.1 % 400⟩ e.2
  let s := forAll s.ports s fun s e => s.setReg (Od.PORT_REPLAYS e.1) e.2.replays
  { s with
    segReplays := s.segReplays.filterMap fun e => if e.2 = 0 then none else some (e.1, 0)
    linkReplays := []
    linkDowns := []
    ports := s.ports.map fun (e : Nat × Port) => (e.1, { e.2 with replays := 0 }) }

/-- A serving job's load has stayed below TRAIN_RESUME_AT since a tick (R266). -/
def State.tickLow (s : State) (j : Nat) : State :=
  if (s.liveCtxs j).length < s.reg (Od.TRAIN_RESUME_AT j) then
    s.modJob j fun t => { t with lowSince := some (t.lowSince.getD s.now) }
  else s.modJob j fun t => { t with lowSince := none }

/-- The UP ports. -/
def State.upPorts (s : State) : List Nat := (List.range 6).filter fun p => s.reg (Od.PORT_STATE p) == 2

/-- The module is the timing root: its strap is high, or it has no fabric link, all bypasses closed and no port UP (R207; log
entry 51). -/
def State.isRoot (s : State) : Bool := s.reg Od.TIMING_ROOT == 1 || (s.reg Od.BYPASS_STATE == 7 && s.upPorts.isEmpty)

/-- A beacon interval without a beacon is counted as it ends (R209, R210). -/
def State.tickBeacon (s : State) : State :=
  if s.isRoot = false ∧ 1 ≤ s.reg Od.SYNC_STATE ∧ s.sync.lastBeacon < s.now ∧ (s.now - s.sync.lastBeacon) % 0x10000 = 0 then
    s.bump Od.BEACONS_MISSED 1
  else s

/-! ## Synchronisation (R207 to R211) -/

/-- Synchronisation states of Table ST-3. -/
abbrev SY.FREE : Nat := 0
abbrev SY.ACQUIRING : Nat := 1
abbrev SY.LOCKED : Nat := 2
abbrev SY.HOLDOVER : Nat := 3
abbrev SY.LOST : Nat := 4

def State.syncState (s : State) : Nat := s.reg Od.SYNC_STATE

/-- PTP_TIME_VALID: the root sets its count from PTP time in ns and leaves FREE (R207). -/
def execPtpTimeValid (t : BitVec 64) (s : State) : Out :=
  if s.isRoot && s.syncState == SY.FREE then
    .next ({ s with count := BitVec.ofNat 64 (t.toNat * 17 / 80) }.setReg
      Od.SYNC_STATE SY.LOCKED)
  else .next s

/-- A beacon leaves through a port (Table ST-2): COUNT, root, HOPS, SEQ, FLAGS, ROOT_OFFSET. -/
def State.sendBeacon (s : State) (p root hops seq flags off : Nat) : State :=
  s.notice (s.reg (Od.NEIGHBOUR_COORD p)) 9 [p, s.now, root, hops, seq, flags, off]

/-- BEACON_SEND (R207, R208). `ptp`: PTP time in ns in this tick, if the PTP input is valid. A root sends once its count is set (log
entry 119), with PTP_TRACEABLE where that input is valid and the master announces a traceable time (R322; log entry 132). -/
def execBeaconSend (ptp : Option (BitVec 64)) (s : State) : Out :=
  if s.isRoot && s.syncState != SY.FREE && s.now % 0x10000 == 0 then
    let s := forAll s.upPorts s fun s p =>
      s.sendBeacon p s.coord 1 (s.now / 0x10000 % 0x100000000)
        ((if ptp.isSome && s.sync.ptpTraceable then 1 else 0) + (if s.syncState = SY.HOLDOVER then 2 else 0)) 0
    match ptp with
    | none => .next s
    | some t =>
      let off : Int := (s.now * 80 / 17 : Nat) - (t.toNat : Int)
      let s := s.setReg Od.PTP_OFFSET_NS (unsigned32 off)
      .next (if s.reg Od.PTP_OFFSET_LIMIT < off.natAbs then s.event 0xD .mgmt (beBytes 4 (unsigned32 off)) else s)
  else .next s

/-! ## MEMBER messages (Table FB-6) -/

/-- Coordinates as three bytes x, y, z. -/
def coordBytes (m : Nat) : List Byte := beBytes 1 (cx m) ++ beBytes 1 (cy m) ++ beBytes 1 (cz m)

/-- The 24 bytes of a MEMBER payload. -/
def memberBytes (op cause m port epoch time reporter : Nat) : List Byte :=
  beBytes 1 op ++ beBytes 1 cause ++ beBytes 2 0 ++ coordBytes m ++ beBytes 1 port ++ beBytes 4 epoch ++ beBytes 4 time ++
    coordBytes reporter ++ beBytes 5 0

/-- A MEMBER message to HB of module `dst`: the bytes of Table FB-6. -/
def State.member (s : State) (dst op cause m port epoch : Nat) : State :=
  s.notice dst 10 ((memberBytes op cause m port epoch (short32 s.now) s.coord).map fun b => b.toNat)

/-- The port of the dimension-ordered route towards the root (R208). -/
def upstreamPort (m root : Nat) : Option Nat := (Box.torus.hops m root).head?

/-- The ports a beacon is forwarded on: those whose neighbour's upstream port faces this module, and those that asked for
it (R208, R364). -/
def State.beaconPorts (s : State) (root from' : Nat) : List Nat :=
  s.upPorts.filter fun p => p != from' &&
    ((Store.get Port.new s.ports p).forward ||
      upstreamPort (s.reg (Od.NEIGHBOUR_COORD p)) root == some (facing p))

/-- The measured delay of a port's link in 1/256 tick (R351; 212.5 MHz). -/
def State.delay256 (s : State) (p : Nat) : Nat := (rneDiv (s.reg (Od.LINK_DELAY_PS p) * 17 * 256) 80000)

/-- Entry to LOST: every job that spans modules ends with TIME_LOST (R211). -/
def State.timeLost (s : State) : State :=
  forAll (s.jobs.map Prod.fst) (s.setReg Od.SYNC_STATE SY.LOST) fun s j =>
    if s.spans j then s.endJob j Code.TIME_LOST Br.TIME_LOST 0 else s

/-- A job runs on the module. -/
def State.anyJobRuns (s : State) : Bool := s.jobs.any fun (e : Nat × Job) => s.jobState e.1 == JS.ENABLED

/-- The count is loaded: COUNT + ROOT_OFFSET ÷ 256 + link delay, to the nearest tick. -/
def State.loadCount (s : State) (v : Int) : State := { s with count := BitVec.ofInt 64 (rneDivInt v 256) }

/-- What the module does with error `e` in 1/256 tick (R209, Table ST-3); `v`: the root's count in 1/256 tick. -/
def State.judgeBeacon (s : State) (e v : Int) : State :=
  let slew (s : State) : State := { s with sync := { s.sync with slew := if 0 < e then 1 else -1 } }
  let bad (s : State) : State := { s with sync := { s.sync with good := 0 } }
  if s.syncState = SY.FREE then (s.loadCount v).setReg Od.SYNC_STATE SY.ACQUIRING
  else if s.syncState = SY.ACQUIRING then
    if s.sync.reload then { bad (s.loadCount v) with sync := { s.sync with reload := false, good := 0 } }
    else if e.natAbs ≤ 256 then
      let s := { s with sync := { s.sync with good := s.sync.good + 1 } }
      if 2 ≤ s.sync.good then s.setReg Od.SYNC_STATE SY.LOCKED else s
    else if e.natAbs ≤ 64 * 256 then bad (slew s)
    else if s.anyJobRuns then bad (slew s) else bad (s.loadCount v)
  else if s.syncState = SY.LOST then s
  else
    if 64 * 256 < e.natAbs then s.timeLost
    else
      let s := if e.natAbs ≤ 256 then s else slew s
      if s.syncState = SY.HOLDOVER then s.setReg Od.SYNC_STATE SY.LOCKED else s

/-- BEACON on port `p` (R208, R209, R364): COUNT, root coordinates, HOPS, SEQ, FLAGS, ROOT_OFFSET. -/
def execBeacon (p : Fin 6) (cnt : BitVec 64) (root : Fin 0x1000000) (hops : Fin 256) (seq : Word) (flags : Byte)
    (off : BitVec 16) (s : State) : Out :=
  let up := upstreamPort s.coord root.val
  let mine := up == some p.val || s.sync.alt == some p.val
  if s.isRoot || !mine || s.reg (Od.PORT_STATE p.val) != 2 then .next s
  else
    let v : Int := (cnt.toNat : Int) * 256 + off.toInt + s.delay256 p.val
    let e : Int := v - (s.now : Int) * 256
    let e16 := if e < -0x8000 then -0x8000 else if 0x7FFF < e then 0x7FFF else e
    let s := s.bump Od.BEACONS_RX 1
    let s := ((s.setReg Od.ROOT_COORD root.val).setReg Od.BEACON_HOPS hops.val).setReg Od.BEACON_OFFSET (unsigned32 e)
    let s := match s.sync.alt with
      | some a => if up = some p.val ∧ a ≠ p.val then
          { s.member (s.reg (Od.NEIGHBOUR_COORD a)) 6 0 s.coord a 0 with sync := { s.sync with alt := none } } else s
      | none => s
    let held := s.syncState == SY.HOLDOVER
    let s := s.judgeBeacon e v
    let s := { s with sync := { s.sync with lastBeacon := s.now } }
    let fl := (if flags.getLsbD 0 then 1 else 0) + (if flags.getLsbD 1 || held then 2 else 0)
    .next (forAll (s.beaconPorts root.val p.val) s fun s q =>
      s.sendBeacon q root.val (hops.val + 1) seq.toNat fl (BitVec.ofInt 16 e16).toNat)

/-- SLEW: in the tick whose count is a multiple of 2^16 plus 2^15 the pending slew is made: the next tick skips the count value that
follows, or repeats this one (R209). -/
def execSlew (s : State) : Out :=
  if s.now % 0x10000 = 0x8000 ∧ s.sync.slew ≠ 0 then
    .next ({ s with sync := { s.sync with slew := 0, step := s.sync.slew } }.bump Od.SLEW_TICKS 1)
  else .next s

/-- BEACON_TIMEOUT: four beacon intervals without a beacon (R209, R210). -/
def execBeaconTimeout (s : State) : Out :=
  let st := s.syncState
  if s.isRoot = false ∧ 1 ≤ st ∧ st ≤ 3 ∧ s.sync.lastBeacon + 0x40000 ≤ s.now then
    let s := { s with sync := { s.sync with lastBeacon := s.now, good := 0 } }
    .next (if st = SY.LOCKED then s.setReg Od.SYNC_STATE SY.HOLDOVER else s)
  else .next s

/-- SYNC_REACQUIRE: a LOST module without a job that spans modules returns to ACQUIRING and reloads its count from the
next beacon (Table ST-3). -/
def execSyncReacquire (s : State) : Out :=
  if s.syncState = SY.LOST ∧ (s.jobs.any fun (e : Nat × Job) => s.spans e.1 && s.jobState e.1 != JS.NONE) = false then
    .next ({ s with sync := { s.sync with reload := true, good := 0 } }.setReg Od.SYNC_STATE SY.ACQUIRING)
  else .next s

/-- CEILING_REPORT (R220): this module's HB reports a die's ceiling to the entry modules of its jobs, or the report of
module `m` arrives. -/
def execCeilingReport (m : Nat) (d : Fin 16) (c : Nat) (s : State) : Out :=
  if m = s.coord then
    let leads := ((s.jobs.filter fun (e : Nat × Job) => s.spans e.1).map fun e => s.leadOf e.1).eraseDups
    .next (forAll (leads.filter fun n => n != s.coord) s fun s n => s.notice n 11 [d.val, s.reg (Od.CEILING_NOW d.val)])
  else .next { s with peerCeil := Store.set s.peerCeil (16 * m + d.val) c }

end Sys2Proof.Machine
end

