-- ==== Sys2Proof/Machine/Latency.lean ====
section
/-!
DEFINITION. Latency tables (R195 to R197, Tables PC-5, FB-5, SV-5), replay spans, and the prices of messages and
constellations (R180, R181, R234, R358).
-/
namespace Sys2Proof.Machine

/-- An entry of a latency table: unit (0 clocks, 1 ring clocks, 2 ticks) and value. -/
structure LatEntry where
  unit : Nat
  value : Nat
  deriving DecidableEq, Repr

/-- The entries whose value differs between steppings: A0, A1, B0. -/
def latVar : List (Nat × Nat × Nat × Nat × Nat) :=
  [(0x0002, 0, 5, 5, 4), (0x0003, 0, 5, 5, 4), (0x0004, 0, 12, 12, 10), (0x0005, 0, 18, 18, 16), (0x0006, 0, 10, 10, 9),
   (0x0007, 0, 6, 6, 5), (0x000C, 0, 12, 10, 10), (0x0400, 0, 32, 32, 28), (0x0500, 0, 40, 40, 36),
   (0x0501, 0, 48, 48, 44), (0x0600, 2, 64, 64, 48)]

/-- The entries equal at every stepping: ID, unit, value. -/
def latSame : List (Nat × Nat × Nat) :=
  [(0x0000, 0, 1), (0x0001, 0, 2), (0x0008, 0, 1), (0x0009, 0, 8), (0x000A, 0, 4), (0x000B, 0, 2), (0x000D, 1, 3),
   (0x000E, 0, 4), (0x0100, 0, 68), (0x0101, 0, 17), (0x0102, 0, 60), (0x0103, 0, 9), (0x0104, 0, 85), (0x0105, 0, 32),
   (0x0106, 0, 69), (0x0107, 0, 16), (0x0108, 0, 102), (0x0109, 0, 78), (0x0200, 1, 3), (0x0201, 1, 1), (0x0202, 1, 3),
   (0x0203, 1, 2), (0x0204, 1, 1), (0x0205, 1, 2), (0x0206, 1, 2), (0x0401, 0, 4), (0x0502, 0, 8), (0x0503, 0, 17),
   (0x0504, 2, 4)]

/-- The table that a module holds for a stepping from the factory. -/
def factoryEntry (st id : Nat) : Option LatEntry :=
  match latVar.find? fun e => e.1 == id with
  | some (_, u, a0, a1, b0) => some ⟨u, if st = 0 then a0 else if st = 1 then a1 else b0⟩
  | none => (latSame.find? fun e => e.1 == id).map fun e => ⟨e.2.1, e.2.2⟩

/-- Entry `id` of the module's table for a stepping: the committed update (R437), else the factory's. An entry is kept as
value + 2^32 · unit. -/
def State.latEntry (s : State) (st id : Nat) : Option LatEntry :=
  match Store.get? s.tables st with
  | some t => (Store.get? t.2 id).map fun v => ⟨v / 0x100000000, v % 0x100000000⟩
  | none => if st ≤ 2 then factoryEntry st id else none

/-- VERSION of the table for a stepping; the factory's, which the spec does not give, is 0 (log entry 128). -/
def State.latVersion (s : State) (st : Nat) : Nat := match Store.get? s.tables st with | some t => t.1 | none => 0

/-- This module's stepping as a table number (1000h:04). -/
def State.stepping (s : State) : Nat := s.reg Od.STEPPING

/-- The effective table of a set of steppings (bit 0 A0, bit 1 A1, bit 2 B0): the largest value of each entry (R197). -/
def State.effEntry (s : State) (mask id : Nat) : Option LatEntry :=
  ([0, 1, 2].filterMap fun st => if mask.testBit st then s.latEntry st id else none).foldl (fun a e =>
    match a with
    | none => some e
    | some x => some (if x.value < e.value then e else x)) none

/-- Entry in clocks: ring clocks at the ring ratio in force, ticks of 8 clocks (R180, R195). -/
def State.effClocks (s : State) (mask id : Nat) : Nat :=
  match s.effEntry mask id with
  | some e => if e.unit = 1 then e.value * s.reg Od.RING_DIV else if e.unit = 2 then 8 * e.value else e.value
  | none => 0

/-- Replay span of a site of `g` groups (R196). -/
def State.replaySpan (s : State) (mask g : Nat) : Nat :=
  (s.effClocks mask 0x0400 + g * s.effClocks mask 0x0401 + 7) / 8

/-! ## Messages -/

/-- Bypassed segments of a route on a ring. -/
def State.bypassesOn (s : State) (ring : Nat) (r : Route) : Nat :=
  (r.segs.filter fun g => s.bypassed g.1 ring g.2).length

/-- H + 3C + 2M in clocks with the entries of Table PC-5, and the extra of the bypassed segments for `f` flits. -/
def State.pathClocks (s : State) (mask ring merges f : Nat) (r : Route) : Nat :=
  let e (id : Nat) : Nat := s.effClocks mask id
  r.h * e 0x0201 + r.links.length * e 0x0202 + merges * e 0x0203 +
    s.bypassesOn ring r * (e 0x0206 + (f - 1) * e 0x0204)

/-- The ring of a message whose ring AUTO chooses: the one that costs most (R172, R180). -/
def State.worstRing (s : State) (ring : Nat) (r : Route) : Nat :=
  if ring < 4 then ring
  else [1, 2, 3].foldl (fun a k => if s.bypassesOn a r < s.bypassesOn k r then k else a) 0

/-- The entries of the fabric (Table FB-5) in clocks, by ID, with the ring ratio under 0: what a job is priced with from one enable to the
next (R180, R203). -/
def State.fabricTable (s : State) (mask : Nat) : Store Nat :=
  (0, s.reg Od.RING_DIV) :: ([0x0500, 0x0501, 0x0502, 0x0503, 0x0504].map fun id => (id, s.effClocks mask id))

/-- The modules that a route passes through: entry 0502h where both ports sit on one PF die, else 19 ring clocks
(R358). `e`: the entries of `State.fabricTable`. -/
def passClocks (e : Store Nat) (b : Box) (m n : Nat) : Nat :=
  (b.passes m n).foldl (fun a p => match p.2.2 with
    | none => a
    | some q => a + (if pfOf p.2.1 = pfOf q then Store.get 0 e 0x0502 else 19 * Store.get 0 e 0)) 0

/-- The fabric part of a message: h × (E + D + I) + ΣB + S + 8 × G, with entry 0504h in clocks (R358). -/
def fabricClocks (e : Store Nat) (d : Nat) (b : Box) (m n len : Nat) : Nat :=
  let v (id : Nat) : Nat := Store.get 0 e id
  let h := (b.hops m n).length
  let ser := Nat.max ((dieFlits len - 1) * v 0) (((fabFlits len - 1) * v 0x0503 + 19) / 20)
  h * (v 0x0500 + d + v 0x0501) + passClocks e b m n + ser + v 0x0504

/-- The route of a message on the sender's module and on the receiver's, where they differ: its PF dies by the bound
route (R356). `up`: the links that routes are fixed over. -/
def bothRoutes (up : Nat → Bool) (b : Box) (m c n d : Nat) : Option (Route × Route) :=
  let pc : Nat × Nat := (dieOf c, posOf (kOf c))
  let pd : Nat × Nat := (dieOf d, posOf (kOf d))
  if m = n then (route up 0 pc pd).map fun r => (r, Route.empty)
  else
    let hs := b.hops m n
    match route up 0 pc (pfOf (hs.getD 0 0), 100), route up 0 (pfOf (facing (hs.getD (hs.length - 1) 0)), 100) pd with
    | some a, some z => some (a, z)
    | _, _ => none

/-- T of R180 or R358 in clocks for `len` payload bytes from cluster `c` of module `m` to cluster `d` of module `n`;
`ma`, `mz`: merge points on the source module and on the destination module. -/
def State.messageClocks (s : State) (up : Nat → Bool) (mask dl : Nat) (b : Box) (ring m c n d len ma mz : Nat) : Nat :=
  let e (id : Nat) : Nat := s.effClocks mask id
  let f := dieFlits len
  match bothRoutes up b m c n d with
  | none => 0
  | some (a, z) =>
    if m = n then e 0x0200 + s.pathClocks mask (s.worstRing ring a) ma f a + (f - 1) * e 0x0204 + e 0x0205
    else
      e 0x0200 + s.pathClocks mask (s.worstRing ring a) ma f a + fabricClocks (s.fabricTable mask) dl b m n len +
        s.pathClocks mask (s.worstRing ring z) mz f z + e 0x0205

/-! ## Constellations -/

/-- 3 + 6H + 12C + 2 ring clocks (R181). -/
def State.vc1Ring (s : State) (r : Route) : Nat := (3 + 6 * r.h + 12 * r.links.length + 2) * s.reg Od.RING_DIV

/-- The bound of a VC1 message from one cluster of a slice to another (R181, R234, R358). -/
def State.vc1Bound (s : State) (up : Nat → Bool) (mask dl : Nat) (b : Box) (m c n d : Nat) : Nat :=
  let e (id : Nat) : Nat := s.effClocks mask id
  match bothRoutes up b m c n d with
  | none => 0
  | some (a, z) =>
    if m = n then s.vc1Ring a + 16
    else
      let through := (b.passes m n).foldl (fun t p => match p.2.2 with
        | none => t
        | some q => t + (if pfOf p.2.1 = pfOf q then e 0x0502 + 6
          else match route up 0 (pfOf p.2.1, 100) (pfOf q, 100) with
            | some r => s.vc1Ring r
            | none => 0)) 0
      s.vc1Ring a + (b.hops m n).length * (e 0x0500 + e 0x0501 + 3 * dl + 97) + through + s.vc1Ring z + 16

/-- A link delay in whole clocks, rounded up: 17 clocks take 10,000 ps (R13, R355). -/
def delayClocks (ps : Nat) : Nat := (ps * 17 + 9999) / 10000

/-- The largest delay of this module's ports that face other modules of a block, in picoseconds (R355). -/
def State.blockDelay (s : State) (b : Box) : Nat :=
  (List.range 6).foldl (fun a p =>
    if s.reg (Od.PORT_STATE p) = 2 ∧ b.has (neighbour s.coord p) = true then Nat.max a (s.reg (Od.LINK_DELAY_PS p)) else a) 0

end Sys2Proof.Machine
end

