-- ==== Sys2Proof/Machine/Image.lean ====
section
/-!
DEFINITION. The layout of a program image (R187, R190, R194, Tables PC-1 to PC-3): the reader of its header, directory,
sections and records, which answers none where a layout rule is broken.
-/
namespace Sys2Proof.Machine

/-- Little-endian fields of a byte string. -/
def u8 (b : List Byte) (o : Nat) : Nat := (b.getD o 0).toNat
def u16 (b : List Byte) (o : Nat) : Nat := leNat (slice b o 2)
def u32 (b : List Byte) (o : Nat) : Nat := leNat (slice b o 4)

/-- Bytes `o` to `o + n − 1` are zero (RES fields). -/
def resOk (b : List Byte) (o n : Nat) : Bool := (slice b o n).all fun x => x == 0

/-- A rank reference (R189): role, relative mode and signed offset. -/
structure RankRef where
  role : Nat
  rel : Bool
  off : Int
  deriving DecidableEq, Repr

/-- A rank reference's layout; none at MODE 10b or 11b or a role that the image does not have. -/
def RankRef.parse (nroles w : Nat) : Option RankRef :=
  if w / 0x200 % 2 = 1 ∨ nroles ≤ w % 0x100 then none
  else some ⟨w % 0x100, w / 0x100 % 2 == 1, (BitVec.ofNat 22 (w / 0x400)).toInt⟩

structure AllocRec where
  id : Nat
  kind : Nat
  off : Nat
  len : Nat
  deriving DecidableEq, Repr

structure SyncRec where
  obj : Nat
  leaf : Bool
  init : Nat
  deriving DecidableEq, Repr

structure ChanRec where
  chan : Nat
  notify : Nat
  off : Nat
  len : Nat
  deriving DecidableEq, Repr

structure GroupRec where
  chan : Nat
  fp : Bool
  len : Nat
  contrib : List RankRef
  deriving DecidableEq, Repr

structure SendRec where
  target : RankRef
  len : Nat
  fn : Nat
  group : Nat
  deriving DecidableEq, Repr

/-- A term of an arc (Table PC-4). -/
structure Term where
  kind : Nat
  count : Nat
  ref : Nat
  deriving DecidableEq, Repr

/-- An arc: the earlier point (none: the job's start tick) and its terms. -/
structure Arc where
  src : Option Nat
  terms : List Term
  deriving DecidableEq, Repr

structure PointRec where
  pt : Nat
  arcs : List Arc
  deriving DecidableEq, Repr

/-- A test gap: number, ticks, OPEN point, PERIOD point (none: FFFFh). -/
structure GapRec where
  gap : Nat
  len : Nat
  opens : Nat
  period : Option Nat
  deriving DecidableEq, Repr

structure ReplayRec where
  word : Nat
  alloc : Nat
  groups : Nat
  deriving DecidableEq, Repr

/-- A role with its records. -/
structure RoleImg where
  mul : Nat
  add : Nat
  entry : Nat
  allocs : List AllocRec
  init : List Byte
  slots : List (Nat × SlotUse)
  syncs : List SyncRec
  chans : List ChanRec
  groups : List GroupRec
  sends : List SendRec
  points : List PointRec
  gaps : List GapRec
  replays : List ReplayRec
  deriving DecidableEq, Repr

/-- A program image: CLASS, cluster counts, the header's point references as (role, point), code, parameters as (MIN,
MAX, DEFAULT) and roles. -/
structure Img where
  train : Bool
  nclMin : Nat
  nclMax : Nat
  nclStep : Nat
  first : Option (Nat × Nat)
  token : Option (Nat × Nat)
  step : Option (Nat × Nat)
  code : List Nat
  params : List (Nat × Nat × Nat)
  roles : List RoleImg
  deriving DecidableEq, Repr

/-- Records of `n` bytes; none where the length is no multiple. -/
def recs (n : Nat) (b : List Byte) : Option (List (List Byte)) :=
  if b.length % n = 0 then some ((List.range (b.length / n)).map fun i => slice b (i * n) n) else none

/-- Every record of a section read by `f`. -/
def readAll {α β : Type} (f : β → Option α) : List β → Option (List α)
  | [] => some []
  | r :: t => match f r, readAll f t with
    | some x, some xs => some (x :: xs)
    | _, _ => none

def sectOf {α : Type} (n : Nat) (f : List Byte → Option α) (b : List Byte) : Option (List α) :=
  (recs n b).bind (readAll f)

def need (c : Bool) : Option Unit := if c then some () else none

def AllocRec.parse (r : List Byte) : Option AllocRec :=
  if u8 r 2 ≤ 5 && u8 r 3 == 0 && u32 r 4 % 32 == 0 && u32 r 8 % 32 == 0 && 32 ≤ u32 r 8 then
    some ⟨u16 r 0, u8 r 2, u32 r 4, u32 r 8⟩ else none

def parseSlot (r : List Byte) : Option (Nat × SlotUse) :=
  let f := u8 r 1
  let serving := f / 2 % 2 == 1
  if u8 r 0 ≤ 31 && f < 64 && (if serving then u8 r 2 == 0 else 1 ≤ u8 r 2 && u8 r 2 ≤ 8) && u8 r 3 ≤ 3 && u8 r 4 ≤ 7 &&
      u8 r 5 ≤ 7 && u8 r 6 ≤ 1 && u8 r 7 == 0 then
    some (u8 r 0, SlotUse.mk (f % 2 == 1) serving (f / 4) (u8 r 2) (128 * 2 ^ u8 r 3) (u8 r 4) (u8 r 5) (u8 r 6 == 1) (u32 r 8))
  else none

def SyncRec.parse (r : List Byte) : Option SyncRec :=
  if u8 r 0 ≤ 47 && u8 r 1 ≤ 1 && u16 r 2 == 0 then some ⟨u8 r 0, u8 r 1 == 1, u32 r 4⟩ else none

/-- A sync-object field: 0 to 47, or 63 for none. -/
def notifyOk (n : Nat) : Bool := n ≤ 47 || n == 63

def ChanRec.parse (r : List Byte) : Option ChanRec :=
  if u8 r 0 ≤ 15 && notifyOk (u8 r 1) && u16 r 2 == 0 then some ⟨u8 r 0, u8 r 1, u32 r 4, u32 r 8⟩ else none

def SendRec.parse (nroles : Nat) (r : List Byte) : Option SendRec :=
  match RankRef.parse nroles (u32 r 0) with
  | some t => if u16 r 8 < 128 && u16 r 8 / 8 % 4 != 3 && u16 r 8 / 32 % 4 != 3 then
      some ⟨t, u32 r 4, u16 r 8, u16 r 10⟩ else none
  | none => none

def GapRec.parse (r : List Byte) : Option GapRec :=
  if u16 r 0 ≤ 4095 && u16 r 2 ≤ 4096 && u32 r 8 == 0 then
    some ⟨u16 r 0, u16 r 2, u16 r 4, if u16 r 6 = 0xFFFF then none else some (u16 r 6)⟩ else none

def ReplayRec.parse (r : List Byte) : Option ReplayRec :=
  if 1 ≤ u8 r 4 && u8 r 4 ≤ 4 && resOk r 5 3 then some ⟨u16 r 0, u16 r 2, u8 r 4⟩ else none

def Term.parse (r : List Byte) : Option Term :=
  if u8 r 0 ≤ 3 && u8 r 1 == 0 then some ⟨u8 r 0, u16 r 2, u32 r 4⟩ else none

/-- GROUPS: records of 8 + 4 × NCONTRIB bytes, one after another. -/
def parseGroups (nroles : Nat) : Nat → List Byte → Option (List GroupRec)
  | _, [] => some []
  | 0, _ => none
  | fuel + 1, b =>
    let n := u16 b 2
    if b.length < 8 + 4 * n || !(u8 b 0 ≤ 15 && (u8 b 1 == 1 || u8 b 1 == 2) && 2 ≤ n && n ≤ 256 && 4 ≤ u32 b 4 &&
        u32 b 4 ≤ 65536 && u32 b 4 % 4 == 0) then none
    else
      match readAll (fun r => RankRef.parse nroles (u32 r 0)) ((List.range n).map fun i => slice b (8 + 4 * i) 4),
        parseGroups nroles fuel (b.drop (8 + 4 * n)) with
      | some c, some t => some (⟨u8 b 0, u8 b 1 == 2, u32 b 4, c⟩ :: t)
      | _, _ => none

/-- The arcs of a point, and the bytes after them. An arc names an earlier point of `seen` or FFFFh. -/
def parseArcs (seen : List Nat) : Nat → List Byte → Option (List Arc × List Byte)
  | 0, b => some ([], b)
  | n + 1, b =>
    let k := u16 b 2
    if b.length < 4 + 8 * k || !(u16 b 0 == 0xFFFF || seen.contains (u16 b 0)) then none
    else
      match readAll Term.parse ((List.range k).map fun i => slice b (4 + 8 * i) 8), parseArcs seen n (b.drop (4 + 8 * k)) with
      | some ts, some (as, rest) => some (⟨if u16 b 0 = 0xFFFF then none else some (u16 b 0), ts⟩ :: as, rest)
      | _, _ => none

/-- POINTS: each point once, numbered 0 to 4,095, its arcs after it. -/
def parsePoints : Nat → List Nat → List Byte → Option (List PointRec)
  | _, _, [] => some []
  | 0, _, _ => none
  | fuel + 1, seen, b =>
    let p := u16 b 0
    if b.length < 4 || 4095 < p || seen.contains p then none
    else
      match parseArcs seen (u16 b 2) (b.drop 4) with
      | some (as, rest) => (parsePoints fuel (p :: seen) rest).map fun t => ⟨p, as⟩ :: t
      | none => none

/-- A directory entry. -/
structure Sect where
  type : Nat
  role : Nat
  off : Nat
  len : Nat
  deriving DecidableEq, Repr

def Sect.parse (r : List Byte) : Option Sect :=
  if u32 r 12 = 0 then some ⟨u16 r 0, u16 r 2, u32 r 4, u32 r 8⟩ else none

/-- Byte ranges (start, length) do not overlap. -/
def disjointRanges : List (Nat × Nat) → Bool
  | [] => true
  | a :: t => t.all (fun b => a.2 == 0 || b.2 == 0 || a.1 + a.2 ≤ b.1 || b.1 + b.2 ≤ a.1) && disjointRanges t

/-- The occurrence rules of Table PC-2. -/
def sectsOk (len nroles nparams : Nat) (ss : List Sect) : Bool :=
  let count (t r : Nat) : Nat := (ss.filter fun x => x.type == t && x.role == r).length
  ss.all (fun x => 1 ≤ x.type && x.type ≤ 13 && (if x.type ≤ 3 then x.role == 0xFFFF else x.role < nroles) &&
    x.off + x.len ≤ len) &&
  disjointRanges ((0, 64 + 16 * ss.length) :: ss.map fun x => (x.off, x.len)) &&
  count 1 0xFFFF == 1 && count 2 0xFFFF == 1 && count 3 0xFFFF == (if nparams = 0 then 0 else 1) &&
  (List.range nroles).all fun r => count 4 r == 1 && count 11 r == 1 && count 12 r == 1 &&
    [5, 6, 7, 8, 9, 10, 13].all fun t => count t r ≤ 1

/-- A point reference of the header: none at FFFFFFFFh; the outer none where a RES bit is set. -/
def pointRef (w : Nat) : Option (Option (Nat × Nat)) :=
  if w = 0xFFFFFFFF then some none
  else if w / 0x1000 % 16 = 0 ∧ w / 0x1000000 = 0 then some (some (w / 0x10000 % 256, w % 0x1000))
  else none

/-- A role from its record and sections. -/
def parseRole (sect : Nat → List Byte) (hasInit : Bool) (nroles : Nat) (r : List Byte) : Option RoleImg := do
  need (u16 r 10 == 0)
  let allocs ← sectOf 12 AllocRec.parse (sect 4)
  need ((allocs.map AllocRec.id).eraseDups.length == allocs.length)
  let consts := allocs.filter fun a => a.kind == 1
  need ((sect 5).length == consts.foldl (fun n a => n + a.len) 0 && (!hasInit || !consts.isEmpty))
  let slots ← sectOf 12 parseSlot (sect 6)
  let syncs ← sectOf 8 SyncRec.parse (sect 7)
  let chans ← sectOf 12 ChanRec.parse (sect 8)
  let groups ← parseGroups nroles (sect 9).length (sect 9)
  let sends ← sectOf 12 (SendRec.parse nroles) (sect 10)
  let points ← parsePoints (sect 11).length [] (sect 11)
  let gaps ← sectOf 12 GapRec.parse (sect 12)
  let replays ← sectOf 8 ReplayRec.parse (sect 13)
  return ⟨u32 r 0, u32 r 4, u16 r 8, allocs, sect 5, slots, syncs, chans, groups, sends, points, gaps, replays⟩

/-- The image, none where a layout rule is broken (check 4 of Table PC-7). -/
def parseImg (b : List Byte) : Option Img := do
  let nsect := u32 b 36
  let nroles := u16 b 20
  let nparams := u16 b 22
  let cls := u8 b 6
  need (b.length ≤ 0x1000000 && cls ≤ 1 && u8 b 7 == 0 && resOk b 40 24)
  need (1 ≤ nroles && nroles ≤ 256 && nparams ≤ 16 && 1 ≤ nsect && nsect ≤ 4096)
  need (1 ≤ u32 b 8 && 1 ≤ u32 b 16 && u32 b 8 % u32 b 16 == 0 && u32 b 12 % u32 b 16 == 0)
  let first ← pointRef (u32 b 24)
  let token ← pointRef (u32 b 28)
  let step ← pointRef (u32 b 32)
  need (if cls = 0 then first.isSome && token.isSome && step.isNone else first.isNone && token.isNone && step.isSome)
  let ss ← readAll Sect.parse ((List.range nsect).map fun i => slice b (64 + 16 * i) 16)
  need (sectsOk b.length nroles nparams ss)
  let sect (t r : Nat) : List Byte := match ss.find? fun x => x.type == t && x.role == r with
    | some x => slice b x.off x.len
    | none => []
  let hasInit (r : Nat) : Bool := ss.any fun x => x.type == 5 && x.role == r
  let code ← sectOf 4 (fun r => some (u32 r 0)) (sect 1 0xFFFF)
  need (1 ≤ code.length && code.length ≤ 8192)
  let params ← sectOf 12 (fun r => some (u32 r 0, u32 r 4, u32 r 8)) (sect 3 0xFFFF)
  need (params.length == nparams)
  let roleRecs ← recs 12 (sect 2 0xFFFF)
  need (roleRecs.length == nroles)
  let roles ← readAll (fun (r : Nat × List Byte) => parseRole (fun t => sect t r.1) (hasInit r.1) nroles r.2)
    ((List.range nroles).zip roleRecs)
  need (roles.all fun r => r.entry < code.length)
  return ⟨cls == 1, u32 b 8, u32 b 12, u32 b 16, first, token, step, code, params, roles⟩

end Sys2Proof.Machine
end

