-- ==== Sys2Proof/Machine/Plan.lean ====
section
/-!
DEFINITION. An image fitted to a slice: ranks and rank references (R188, R189), reduction groups (R176), the prices of
points (R194, Table PC-4), test gaps (R198), what a role's code reaches (R192), and the loader's check of code words
(R145).
-/
namespace Sys2Proof.Machine

/-- Bit set of a MASK (R352): bit 96n + K for CDn.KK. -/
def maskClusters (mask : Nat) : List Nat := (List.range 1536).filter fun i => mask.testBit i

/-- The clusters of a slice record in rank order (R353). -/
def State.slicePlaces (s : State) (k : Nat) : List Place :=
  (s.box k).modules.flatMap fun m => (maskClusters (s.reg (Od.SLICE_MASK k))).map fun c => Place.mk m c

/-- N of a slice record. -/
def State.sliceNcl (s : State) (k : Nat) : Nat :=
  let e := s.reg (Od.SLICE_EXTENT k)
  cx e * cy e * cz e * (maskClusters (s.reg (Od.SLICE_MASK k))).length

/-- An image with the slice it is bound to: job, image, N, slice block, clusters in rank order, clusters per role and the links that
are UP as its routes are fixed (R172, R174). -/
structure Plan where
  job : Nat
  img : Img
  n : Nat
  box : Box
  places : List Place
  counts : List Nat
  up : List Nat
  deriving DecidableEq, Repr

/-- count_r = MUL_r × (N ÷ NCL_STEP) + ADD_r (R188). -/
def Img.counts (i : Img) (n : Nat) : List Nat := i.roles.map fun r => r.mul * (n / i.nclStep) + r.add

def Plan.st (p : Plan) : Nat := if p.img.train then 1 else 0
def Plan.count (p : Plan) (r : Nat) : Nat := p.counts.getD r 0
/-- The first rank of a role. -/
def Plan.start (p : Plan) (r : Nat) : Nat := (p.counts.take r).foldl (fun a c => a + c) 0
def Plan.place (p : Plan) (rank : Nat) : Place := p.places.getD rank ⟨0xFFFFFFFF, 0⟩

/-- The role and index of a rank. -/
def Plan.roleOf (p : Plan) (rank : Nat) : Nat × Nat :=
  ((List.range p.counts.length).foldl (fun (a : Option (Nat × Nat)) r =>
    match a with
    | some x => some x
    | none => if rank < p.start r + p.count r then some (r, rank - p.start r) else none) none).getD (0, 0)

/-- The roles with their numbers. -/
def Plan.roles (p : Plan) : List (Nat × RoleImg) := (List.range p.img.roles.length).zip p.img.roles

/-- The rank that a reference of the cluster with index `i` names, none where it names no cluster (R189). -/
def Plan.ref (p : Plan) (i : Nat) (r : RankRef) : Option Nat :=
  let c := p.count r.role
  let idx : Int := if r.rel then (if c = 0 then -1 else ((i : Int) + r.off) % (c : Int)) else r.off
  if 0 ≤ idx ∧ idx < (c : Int) then some (p.start r.role + idx.toNat) else none

/-- Every rank reference names a cluster. -/
def Plan.refsOk (p : Plan) : Bool :=
  p.roles.all fun e => (List.range (Nat.max 1 (p.count e.1))).all fun i =>
    (e.2.groups.all fun g => g.contrib.all fun r => (p.ref i r).isSome) &&
    e.2.sends.all fun x => (p.ref i x.target).isSome

/-! ## Reduction groups -/

/-- A group instance and the (role, record, index) that it comes from. -/
structure GroupAt where
  role : Nat
  rec' : Nat
  idx : Nat
  group : Group
  deriving DecidableEq, Repr

/-- The (role, record, index) of every group instance in ascending order; its place is the RGID (log entry 33). -/
def Plan.groupKeys (p : Plan) : List (Nat × Nat × Nat) :=
  p.roles.flatMap fun e => (List.range e.2.groups.length).flatMap fun g =>
    (List.range (p.count e.1)).map fun i => (e.1, g, i)

/-- The hops of a contribution from rank `a` to rank `b` on the ring of the group. -/
def Plan.groupPath (p : Plan) (rgid a b : Nat) : List Hop :=
  groupHops p.up.contains p.box (rgid % 4) (p.place a).coord (p.place a).cl (p.place b).coord (p.place b).cl

/-- The reduction groups as bound (R176). -/
def Plan.groups (p : Plan) : List GroupAt :=
  ((List.range p.groupKeys.length).zip p.groupKeys).filterMap fun e =>
    match p.img.roles[e.2.1]? with
    | none => none
    | some r => match r.groups[e.2.2.1]? with
      | none => none
      | some g =>
        let dst := p.start e.2.1 + e.2.2.2
        let cs := g.contrib.filterMap (p.ref e.2.2.2)
        let pts := mergePoints (cs.map fun c => (c, p.groupPath e.1 c dst))
        some ⟨e.2.1, e.2.2.1, e.2.2.2, ⟨e.1, dst, g.chan, g.fp, g.len, cs, pts⟩⟩

/-- The merge points on the way of stream `src` of a group. -/
def Group.way (g : Group) : Nat → Nat → List MergePt
  | 0, _ => []
  | fuel + 1, src => match g.into src with
    | some (i, m) => m :: g.way fuel (0x1000000 + i)
    | none => []

/-! ## Points -/

/-- T of a send of rank `a` to rank `b`, with merge points of its group if it has one. -/
def State.sendClocks (s : State) (p : Plan) (mask dl ring len a b : Nat) (way : List MergePt) : Nat :=
  let pa := p.place a
  let pb := p.place b
  let on (m : Nat) : Nat := (way.filter fun x => x.mod == m).length
  s.messageClocks p.up.contains mask dl p.box ring pa.coord pa.cl pb.coord pb.cl len (on pa.coord)
    (if pa.coord = pb.coord then 0 else on pb.coord)

/-- The ring of RSEND's FN: FN[1:0], or 4 where AUTO leaves it to the stop. -/
def sendRing (fn : Nat) : Nat := if fn / 4 % 2 = 1 then 4 else fn % 4

/-- T of a send record for the cluster of index `i` of its role: for a reduction, over the contributor that arrives
last (R180). -/
def State.recordClocks (s : State) (p : Plan) (gs : List GroupAt) (mask dl role i : Nat) (x : SendRec) : Nat :=
  match p.ref i x.target with
  | none => 0
  | some b =>
    let one (a : Nat) (ring : Nat) (way : List MergePt) : Nat := s.sendClocks p mask dl ring x.len a b way
    let idx := b - p.start x.target.role
    match (if x.fn / 8 % 4 = 0 then none
      else gs.find? fun g => g.role == x.target.role && g.rec' == x.group && g.idx == idx) with
    | some g => g.group.contrib.foldl (fun t c =>
        Nat.max t (one c (g.group.rgid % 4) (g.group.way (g.group.points.length + 1) c))) 0
    | none => one (p.start role + i) (sendRing x.fn) []

/-- The bytes of a stored image. -/
def Image.flat (i : Image) : List Byte := i.bytes.map Prod.snd

/-- The image that job `j` is bound to. -/
def State.jobImage (s : State) (j : Nat) : Option Img :=
  (Store.get? s.images (s.job j).image).bind fun i => parseImg i.flat

/-- The record of slot `k` in the serving job on the clusters of rank `rank` of a TRAIN plan: its weights and settings are those of a
SERVING_SLOT slot (Table PC-3). -/
def State.servedSlot (s : State) (p : Plan) (rank k : Nat) : Option SlotUse :=
  s.jobs.findSome? fun e =>
    let at' := e.2.ranks.findIdx fun q => q == p.place rank
    if e.2.train || e.2.stale || e.2.ranks.length ≤ at' then none
    else (s.jobImage e.1).bind fun i => (i.roles[e.2.roleOf.getD at' 0]?).bind fun r => (r.slots.find? fun x => x.1 == k).map Prod.snd

/-- The settings under which slot `k` of a role reads: its own record's, or those of the serving job on each cluster of the role. -/
def State.slotUses (s : State) (p : Plan) (role k : Nat) (u : SlotUse) : List SlotUse :=
  if u.servingSlot then (List.range (p.count role)).filterMap fun i => s.servedSlot p (p.start role + i) k else [u]

/-- Clocks of an ARRAY term on a slot with settings `u` (R40, R41, R49): REF[5] transposed, REF[6] A4, REF[12:7] EXT. -/
def State.arrayTerm (s : State) (mask count ref : Nat) (u : SlotUse) : Nat :=
  let e (id : Nat) : Nat := s.effClocks mask id
  let a4 := ref / 64 % 2
  let ext := ref / 128 % 64
  if ref / 32 % 2 = 0 then
    let ps := schedPhases false (5 ≤ u.wfmt) ext u.budget
    let id := 0x0100 + (if u.economy then 4 else 0) + 2 * a4
    e 0x000B + (e id + (ps - 1) * e (id + 1)) + count * e (id + 1) * ps
  else
    e 0x000B + (count + 1) * schedPhases true (5 ≤ u.wfmt) ext u.budget * e (0x0108 + a4)

/-- Clocks of a term (Table PC-4). -/
def State.termClocks (s : State) (p : Plan) (gs : List GroupAt) (mask dl role : Nat) (r : RoleImg) (t : Term) : Nat :=
  let e (id : Nat) : Nat := s.effClocks mask id
  if t.kind = 0 then t.count * e (t.ref % 0x10000)
  else if t.kind = 1 then
    match r.slots.find? fun x => x.1 == t.ref % 32 with
    | none => 0
    | some (k, u) => (s.slotUses p role k u).foldl (fun m v => Nat.max m (s.arrayTerm mask t.count t.ref v)) 0
  else if t.kind = 2 then
    match r.sends[t.ref]? with
    | none => 0
    | some x => (List.range (p.count role)).foldl (fun m i => Nat.max m (s.recordClocks p gs mask dl role i x)) 0
  else 8 * t.count

/-- The bound value of every point of a role, in record order (R194). -/
def State.bindPoints (s : State) (p : Plan) (gs : List GroupAt) (mask dl role : Nat) (r : RoleImg) : Store Nat :=
  r.points.foldl (fun (ticks : Store Nat) x =>
    let clk := x.arcs.foldl (fun m a =>
      let base := match a.src with
        | none => 0
        | some q => 8 * Store.get 0 ticks q
      Nat.max m (a.terms.foldl (fun c t => c + s.termClocks p gs mask dl role r t) base)) 0
    Store.set ticks x.pt ((clk + 7) / 8)) []

/-- The points of every role. -/
def State.allPoints (s : State) (p : Plan) (gs : List GroupAt) (mask dl : Nat) : List (Store Nat) :=
  p.roles.map fun e => s.bindPoints p gs mask dl e.1 e.2

/-- A bound value of 2^31 ticks or more. -/
def pointsTooLong (ps : List (Store Nat)) : Bool := ps.any fun t => t.any fun (e : Nat × Nat) => 0x80000000 ≤ e.2

/-- Every TABLE term names an entry that the table holds (Table PC-4). -/
def State.entriesHeld (s : State) (mask : Nat) (img : Img) : Bool :=
  img.roles.all fun r => r.points.all fun x => x.arcs.all fun a => a.terms.all fun t =>
    t.kind != 0 || (s.effEntry mask (t.ref % 0x10000)).isSome

/-- A bound header point. -/
def headerTicks (ps : List (Store Nat)) : Option (Nat × Nat) → Nat
  | some (r, q) => Store.get 0 (ps.getD r []) q
  | none => 0

/-! ## Test gaps (R198) -/

/-- Insertion by OPEN value. -/
def insertGap (g : Nat × Nat) : List (Nat × Nat) → List (Nat × Nat)
  | [] => [g]
  | h :: t => if g.1 ≤ h.1 then g :: h :: t else h :: insertGap g t

/-- The gaps of one period or of the FFFFh sequence, as (open, length) in order of their OPEN values: no gap opens
before the previous one ends, every length is at least 213, and 99 times it reaches the time since that end. `prev`: the
end of the previous gap, in ticks before the period's start where negative. -/
def gapsInOrder : Int → Bool → List (Nat × Nat) → Bool
  | _, _, [] => true
  | prev, first, (o, l) :: t =>
    (first || decide (prev ≤ (o : Int))) && decide (213 ≤ l) && decide ((o : Int) - prev ≤ 99 * l) &&
      gapsInOrder (o + l) false t

/-- The gap check of a role with its bound points. -/
def gapsOk (r : RoleImg) (ticks : Store Nat) : Bool :=
  let at' (pt : Nat) : Nat := Store.get 0 ticks pt
  let of (q : Option Nat) : List (Nat × Nat) :=
    (r.gaps.filter fun g => g.period == q).foldl (fun l g => insertGap (at' g.opens, g.len) l) []
  let last (l : List (Nat × Nat)) : Nat := l.foldl (fun _ g => g.1 + g.2) 0
  !r.gaps.isEmpty && gapsInOrder 0 true (of none) &&
    ((r.gaps.filterMap GapRec.period).eraseDups.all fun q =>
      let l := of (some q)
      decide (last l ≤ at' q) && gapsInOrder ((last l : Int) - (at' q : Int)) true l)

/-! ## Code -/

/-- The issue under which the loader reads words. -/
def loaderIssue (st : Nat) : Issue := ⟨⟨⟨0, 0⟩, Fin.ofNat 2 st⟩, ⟨.clean, [], [], 0, 0, 0, 0⟩⟩

def Img.instr (i : Img) (pc : Nat) : Option Instr :=
  (i.code[pc]?).bind fun w => decodeWord (loaderIssue (if i.train then 1 else 0)) 0 w

/-- The fault of a word (R145): ILLEGAL_INSTRUCTION, or PRIVILEGED_INSTRUCTION for a PRV word of an image that does not
come from firmware. `gaps`: the gap numbers that some role declares (R160). -/
def wordFault (firmware : Bool) (st : Nat) (gaps : List Nat) (pc w : Nat) : Option Nat :=
  match decodeWord (loaderIssue st) 0 w with
  | none => some Code.ILLEGAL_INSTRUCTION
  | some c =>
    let far := match c.target? pc with
      | some t => decide (t < 0 ∨ 8192 ≤ t)
      | none => false
    let gap := match c with
      | .tgap _ g => !gaps.contains g.toNat
      | _ => false
    if far || gap then some Code.ILLEGAL_INSTRUCTION
    else if c.isPrv && !firmware then some Code.PRIVILEGED_INSTRUCTION
    else none

/-- The fault of the lowest-numbered faulty word. -/
def Img.codeFault (i : Img) (firmware : Bool) : Option Nat :=
  let gaps := i.roles.flatMap fun r => r.gaps.map GapRec.gap
  ((List.range i.code.length).zip i.code).findSome? fun e => wordFault firmware (if i.train then 1 else 0) gaps e.1 e.2

/-- The words that follow word `pc` (R192): fall-through, branch target, JAL target and the word after it; none after
JR and END. -/
def Img.next (i : Img) (pc : Nat) : List Nat :=
  match i.instr pc with
  | none => []
  | some (.jr ..) | some (.endJob ..) => []
  | some c => (pc + 1) :: (match c.target? pc with
    | some t => if 0 ≤ t then [t.toNat] else []
    | none => [])

/-- The words that a role reaches: `todo` still to visit. -/
def Img.reach (i : Img) : Nat → List Nat → NSet → NSet
  | 0, _, seen => seen
  | _, [], seen => seen
  | fuel + 1, pc :: todo, seen =>
    if NSet.mem seen pc || i.code.length ≤ pc then Img.reach i fuel todo seen
    else Img.reach i fuel (i.next pc ++ todo) (NSet.insert seen pc)

/-- The words that a role uses. -/
def Img.uses (i : Img) (r : RoleImg) : NSet := i.reach (3 * i.code.length + 2) [r.entry] []

/-- The sync object that a role declares under a number. -/
def RoleImg.sync (r : RoleImg) (b : Nat) : Option SyncRec := r.syncs.find? fun x => x.obj == b
def RoleImg.hasObj (r : RoleImg) (b : Nat) : Bool := (r.sync b).isSome
def RoleImg.hasNotify (r : RoleImg) (b : Nat) : Bool := b == 63 || r.hasObj b
def RoleImg.hasPoint (r : RoleImg) (q : Nat) : Bool := r.points.any fun x => x.pt == q
def RoleImg.hasGap (r : RoleImg) (g : Nat) : Bool := r.gaps.any fun x => x.gap == g
def RoleImg.hasChan (r : RoleImg) (c : Nat) : Bool := r.chans.any fun x => x.chan == c

/-- What an instruction at word `pc` names is declared in the role (R192, R228). -/
def RoleImg.declares (r : RoleImg) (pc : Nat) : Instr → Bool
  | .sinc _ b _ | .sset _ b _ | .swait _ b _ | .swaiteq _ b _ | .sread _ b _ | .ssig _ b _ _ => r.hasObj b.val
  | .sarrive _ b => match r.sync b.val with
    | some x => x.leaf
    | none => false
  | .dma _ _ _ _ n => r.hasNotify n.val
  | .rrecv _ _ _ c n => r.hasChan c.val && r.hasNotify n.val
  | .twait _ q | .dln _ q | .tbase _ q => r.hasPoint q.toNat
  | .tgap _ g => r.hasGap g.toNat
  | .qa _ _ _ _ _ _ _ rpl _ => !rpl || r.replays.any fun x => x.word == pc
  | _ => true

/-- A TGAP is preceded directly by DLN p and TWAIT p with the OPEN point of the role's gap (R198). -/
def Img.gapEntry (i : Img) (r : RoleImg) (pc : Nat) : Bool :=
  match i.instr pc with
  | some (.tgap _ g) =>
    2 ≤ pc && (match i.instr (pc - 2), i.instr (pc - 1), r.gaps.find? fun x => x.gap == g.toNat with
      | some (.dln _ a), some (.twait _ b), some x => a.toNat == x.opens && b.toNat == x.opens
      | _, _, _ => false)
  | _ => true

/-- Every gap of the image with its own table or the effective one (R198): a TGAP that a role uses follows its own gap's OPEN point, and
every other TGAP of the code some role's. -/
def Img.gapsOk (i : Img) (ps : List (Store Nat)) : Bool :=
  ((i.roles.zip ps).all fun e => Machine.gapsOk e.1 e.2 && (i.uses e.1).all fun pc => i.gapEntry e.1 pc) &&
    (List.range i.code.length).all fun pc => i.roles.any fun r => i.gapEntry r pc

end Sys2Proof.Machine
end

