-- ==== Sys2Proof/Machine/Bind.lean ====
section
/-!
DEFINITION. Resource binding (R187 to R193, R201, R202, R231, R234, Tables PC-6 to PC-8): JOB_BIND with its checks in
order and what the loader writes, JOB_UNLOAD and IMAGE_DELETE.
-/
namespace Sys2Proof.Machine

/-- The ranks of a plan that this module holds, with their cluster. -/
def State.localRanks (s : State) (p : Plan) : List (Nat × Nat) :=
  ((List.range p.places.length).zip p.places).filterMap fun e => if e.2.coord = s.coord then some (e.1, e.2.cl) else none

/-- The role record and index of a rank. -/
def Plan.rankRole (p : Plan) (rank : Nat) : Option (RoleImg × Nat) :=
  (p.img.roles[(p.roleOf rank).1]?).map fun r => (r, (p.roleOf rank).2)

/-- The version that a job pins: CURRENT, else READY. -/
def State.pinned (s : State) (j : Nat) : Option Nat :=
  let vs := (List.range 16).filter fun e => s.reg (Od.VER_JOB e) == j
  match vs.find? fun e => s.reg (Od.VER_STATE e) == 5 with
  | some e => some e
  | none => vs.find? fun e => s.reg (Od.VER_STATE e) == 4

/-- The block of a version on a cluster of this module. -/
def State.blockAt (s : State) (e c num : Nat) : Option Block :=
  (Store.get Version.new s.versions e).blocks.find? fun b => b.num == num && b.cl == c

/-- BLOCK FFFFFFFFh: no weights of a version. -/
abbrev noBlock : Nat := 0xFFFFFFFF

/-! ## Checks 7 to 11 of Table PC-7 -/

/-- The value of parameter `i` (Table PC-9): FFFFFFFFh takes the default. -/
def State.paramValue (s : State) (j i dflt : Nat) : Nat :=
  let v := s.reg (Od.JOB_PARAMS j) / 0x100000000 ^ i % 0x100000000
  if v = 0xFFFFFFFF then dflt else v

/-- Parameters within MIN to MAX; windows inside one RX allocation, staging long enough, allocations inside the slice
(R191). -/
def State.rangesOk (s : State) (j : Nat) (img : Img) : Bool :=
  (((List.range img.params.length).zip img.params).all fun e =>
    let v := s.paramValue j e.1 e.2.2.2
    decide (e.2.1 ≤ v) && decide (v ≤ e.2.2.1)) &&
  img.roles.all fun r =>
    (r.allocs.all fun a => decide (a.off + a.len ≤ 0x280000)) &&
    (r.chans.all fun c => r.allocs.any fun a =>
      a.kind == 3 && decide (a.off ≤ c.off) && decide (c.off + c.len ≤ a.off + a.len)) &&
    r.replays.all fun x => r.allocs.all fun a => a.id != x.alloc || a.kind != 2 || decide (512 * x.groups ≤ a.len)

/-- The header's points are defined. -/
def Img.headerOk (i : Img) : Bool :=
  ([i.first, i.token, i.step].filterMap id).all fun e => match i.roles[e.1]? with
    | some r => r.hasPoint e.2
    | none => false

/-- The declarations of one role (R192). -/
def Img.roleDeclared (i : Img) (r : RoleImg) : Bool :=
  let used := i.uses r
  (used.all fun pc => match i.instr pc with
    | some c => r.declares pc c
    | none => true) &&
  (r.chans.all fun c => r.hasNotify c.notify) &&
  (r.groups.all fun g => r.hasChan g.chan) &&
  (r.sends.all fun x => (x.fn / 8 % 4 == 0 && x.group == 0xFFFF) || (match i.roles[x.target.role]? with
    | some q => decide (x.group < q.groups.length)
    | none => false)) &&
  (r.gaps.all fun g => r.hasPoint g.opens && (match g.period with
    | some q => r.hasPoint q
    | none => true)) &&
  (r.points.all fun x => x.arcs.all fun a => a.terms.all fun t =>
    (t.kind != 1 || r.slots.any fun k => k.1 == t.ref % 32) && (t.kind != 2 || decide (t.ref < r.sends.length))) &&
  r.replays.all fun x =>
    NSet.mem used x.word && (match i.instr x.word with
      | some (.qa _ _ _ _ _ _ _ rpl _) => rpl
      | _ => false) && r.allocs.any fun a => a.id == x.alloc && a.kind == 2

/-- The slots of a role on one cluster: a BLOCK is in the pinned version with its WFMT, and a SERVING_SLOT slot is one
that the serving job there marks TRAIN_SHARE (R192). -/
def State.slotsDeclared (s : State) (j c : Nat) (r : RoleImg) : Bool :=
  r.slots.all fun e =>
    if e.2.servingSlot then (match Store.get? (s.strand (2 * c)).slots e.1 with
      | some u => s.reg (sjObj (2 * c)) != 0 && u.trainShare
      | none => false)
    else e.2.block == noBlock || (match s.pinned j with
      | some v => (match s.blockAt v c e.2.block with
        | some b => b.wfmt == e.2.wfmt
        | none => false)
      | none => false)

/-- Check 8. -/
def State.declared (s : State) (p : Plan) : Bool :=
  p.img.headerOk && s.entriesHeld (2 ^ s.stepping) p.img && (p.img.roles.all fun r => p.img.roleDeclared r) &&
    (s.localRanks p).all fun e => match p.rankRole e.1 with
      | some (r, _) => s.slotsDeclared p.job e.2 r
      | none => true

/-- A SERVING_SLOT slot that holds a sealed version of another tenant (R433). -/
def State.sealedForeign (s : State) (p : Plan) (tenant : Nat) : Bool :=
  (s.localRanks p).any fun e => match p.rankRole e.1 with
    | some (r, _) => r.slots.any fun k => k.2.servingSlot &&
        s.versions.any fun (v : Nat × Version) => s.reg (Od.VER_SEALED v.1) == 1 && s.reg (Od.VER_TENANT v.1) != tenant &&
          s.reg (Od.VER_STATE v.1) != 0 && v.2.blocks.any fun b => b.array == some (34 * e.2 + s.slotArr (2 * e.2) k.1)
    | none => false

/-- Two allocations of one role overlap (check 9). -/
def RoleImg.overlaps (r : RoleImg) : Bool := !disjointRanges (r.allocs.map fun a => (a.off, a.len))

/-- The pages of a byte range. -/
def pagesOf (off len : Nat) : List Nat := (List.range ((off + len + 4095) / 4096 - off / 4096)).map fun i => off / 4096 + i

/-- The pages of a role's allocations that satisfy `f`. -/
def RoleImg.pages (r : RoleImg) (f : AllocRec → Bool) : List Nat :=
  ((r.allocs.filter f).flatMap fun a => pagesOf a.off a.len).eraseDups

def isPool (a : AllocRec) : Bool := a.kind == 4 || a.kind == 5

/-- Bytes of the pool pages of a plan on this module (R431). -/
def State.poolBytes (s : State) (p : Plan) : Nat :=
  (s.localRanks p).foldl (fun a e => match p.rankRole e.1 with
    | some (r, _) => a + 4096 * (r.pages isPool).length
    | none => a) 0

/-- The FREE arrays of a cluster in ascending order that no version reserves and no slot without a BLOCK uses (R193). -/
def State.freeArrays (s : State) (c : Nat) : List Nat :=
  let bound := ([0, 1].flatMap fun st => ((s.strand (2 * c + st)).slots.filter fun (k : Nat × SlotUse) =>
    k.2.block == noBlock && !k.2.servingSlot).map fun k => s.slotArr (2 * c + st) k.1)
  (List.range 34).filter fun a =>
    s.reg (asObj c a) == AS.FREE && !bound.contains a &&
      !s.versions.any fun (v : Nat × Version) => v.2.blocks.any fun b => b.array == some (34 * c + a)

/-- The slots of a role that bind a FREE array. -/
def RoleImg.freeSlots (r : RoleImg) : List (Nat × SlotUse) :=
  r.slots.filter fun k => k.2.block == noBlock && !k.2.servingSlot

/-- A role fits on cluster `c` (R114, R193). A slot that strand 1 shares must be marked for TRAIN use by the serving image (R127). -/
def State.fitsOn (s : State) (p : Plan) (c : Nat) (r : RoleImg) : Bool :=
  let u := 2 * c + p.st
  let other := s.strand (2 * c + (1 - p.st))
  let pages := r.pages fun _ => true
  (s.reg (csObj c) == CS.READY || s.reg (csObj c) == CS.RETENTION) && s.strandState u == SS.EMPTY &&
  (pages.all fun g => !(s.page c g).valid) && decide (pages.length + s.pagesUsed c ≤ 640) &&
  (r.syncs.all fun x => s.reg (syObj c x.obj 1) == 0) &&
  (r.slots.all fun k => match Store.get? other.slots k.1 with
    | none => true
    | some o => (k.2.servingSlot || (o.servingSlot && k.2.trainShare)) && k.2.own &&& o.own == 0) &&
  (r.slots.all fun k => if k.2.servingSlot then s.arrState (34 * c + s.slotArr (2 * c) k.1) == AS.ACTIVE
    else k.2.block == noBlock || (match s.pinned p.job with
    | some v => (match s.blockAt v c k.2.block with
      | some b => (match b.array with
        | some x => s.arrState x == AS.ACTIVE
        | none => false)
      | none => false)
    | none => false)) &&
  decide (r.freeSlots.length ≤ (s.freeArrays c).length)

/-- A merge table holds at most 256 entries at each position of this module (R176), and an RGID 16 bits (Table DN-5). -/
def State.mergesFit (s : State) (p : Plan) (gs : List GroupAt) : Bool :=
  let mine : List Nat := gs.flatMap fun g => (g.group.points.filter fun x => x.mod == s.coord).map MergePt.node
  let others : List Nat := (s.jobs.filter fun (e : Nat × Job) => e.1 != p.job).flatMap fun (e : Nat × Job) =>
    e.2.groups.flatMap fun g => (g.points.filter fun x => x.mod == s.coord).map MergePt.node
  decide (gs.length ≤ 0x10000) && mine.eraseDups.all fun v => decide (((mine ++ others).filter fun w => w == v).length ≤ 256)

/-! ## The bound routes -/

/-- An end of a route: module and place on its die network. -/
abbrev RouteEnd := Nat × Nat × Nat

def Place.routeEnd (p : Place) : RouteEnd := (p.coord, dieOf p.cl, posOf (kOf p.cl))
def hbEnd (m : Nat) : RouteEnd := (m, HB, 100)

/-- The pairs of ranks between which the image's sends, groups and constellations send (R172, R177, R231). -/
def Plan.pairs (p : Plan) (gs : List GroupAt) (trees : List (Nat × Nat)) : List (Nat × Nat) :=
  (p.roles.flatMap fun e => (List.range (p.count e.1)).flatMap fun i =>
    e.2.sends.filterMap fun x => (p.ref i x.target).map fun b => (p.start e.1 + i, b)) ++
  (gs.flatMap fun g => g.group.contrib.map fun c => (c, g.group.dst)) ++ trees

/-- The ranks of a plan whose role declares object `b` as a constellation leaf, in rank order. -/
def Plan.members (p : Plan) (b : Nat) : List Nat :=
  p.roles.flatMap fun e => match e.2.sync b with
    | some x => if x.leaf then (List.range (p.count e.1)).map fun i => p.start e.1 + i else []
    | none => []

/-- Parent of member `m` and its role code (D+61h:05): 1 member, 2 die collector, 3 module collector, 4 root. -/
def Plan.parent (p : Plan) (ms : List Nat) (m : Nat) : Option Nat × Nat :=
  let pl := p.place m
  let die := (ms.find? fun x => (p.place x).coord == pl.coord && dieOf (p.place x).cl == dieOf pl.cl).getD m
  let mod := (ms.find? fun x => (p.place x).coord == pl.coord).getD m
  let root := ms.headD m
  if m ≠ die then (some die, 1) else if m ≠ mod then (some mod, 2) else if m ≠ root then (some root, 3) else (none, 4)

def Plan.children (p : Plan) (ms : List Nat) (m : Nat) : List Nat := ms.filter fun x => (p.parent ms x).1 == some m

/-- The (child, parent) pairs of every constellation. -/
def Plan.trees (p : Plan) : List (Nat × Nat) :=
  (List.range 48).flatMap fun b =>
    let ms := p.members b
    ms.filterMap fun m => (p.parent ms m).1.map fun q => (m, q)

/-- The ends of every bound route (R172): sends, groups and constellations, and between each cluster and HB of every module of the job,
each of which may be an entry module. -/
def Plan.routeEnds (p : Plan) (pairs : List (Nat × Nat)) : List (RouteEnd × RouteEnd) :=
  let ms := (p.places.map fun x => x.coord).eraseDups
  (pairs.map fun e => ((p.place e.1).routeEnd, (p.place e.2).routeEnd)) ++
    p.places.flatMap fun x => ms.flatMap fun m => [(x.routeEnd, hbEnd m), (hbEnd m, x.routeEnd)]

/-- What a route needs on module `me`: the places between which it crosses the die network, and the fabric ports. -/
def Box.sections (b : Box) (me : Nat) (x y : RouteEnd) : List ((Nat × Nat) × (Nat × Nat)) × List Nat :=
  if x.1 = y.1 then (if x.1 = me then ([(x.2, y.2)], []) else ([], []))
  else
    let first := (b.hops x.1 y.1).getD 0 0
    let src := if x.1 = me then ([(x.2, (pfOf first, 100))], [first]) else ([], [])
    (b.passes x.1 y.1).foldl (fun a q =>
      if q.1 = me then
        match q.2.2 with
        | some o => (a.1 ++ [((pfOf q.2.1, 100), (pfOf o, 100))], a.2 ++ [q.2.1, o])
        | none => (a.1 ++ [((pfOf q.2.1, 100), y.2)], a.2 ++ [q.2.1])
      else a) src

/-- What the bound routes of a plan need on this module. -/
def State.planSections (s : State) (p : Plan) (gs : List GroupAt) : List ((Nat × Nat) × (Nat × Nat)) × List Nat :=
  let us := (p.routeEnds (p.pairs gs p.trees)).map fun e => p.box.sections s.coord e.1 e.2
  ((us.flatMap fun u => u.1).eraseDups, (us.flatMap fun u => u.2).eraseDups)

/-- Every bound route exists on this module: a die that no route reaches is excluded from slice binding (R174; log entry 122). -/
def State.routesExist (s : State) (p : Plan) (gs : List GroupAt) : Bool :=
  (s.planSections p gs).1.all fun e => (route p.up.contains 0 e.1 e.2).isSome

/-- Check 11. -/
def State.planFits (s : State) (p : Plan) (gs : List GroupAt) : Bool :=
  ((s.localRanks p).all fun e => match p.rankRole e.1 with
    | some (r, _) => s.fitsOn p e.2 r
    | none => true) && s.mergesFit p gs && s.routesExist p gs

/-- All links and ports of a plan's bound routes on this module. -/
def State.planUses (s : State) (p : Plan) (gs : List GroupAt) : List Nat × List Nat :=
  let u := s.planSections p gs
  ((u.1.flatMap fun e => match route p.up.contains 0 e.1 e.2 with
    | some r => r.links
    | none => []).eraseDups, u.2)

/-- The other modules whose clusters send to this module's (R218). -/
def State.planSenders (s : State) (p : Plan) (gs : List GroupAt) : List Nat :=
  ((p.pairs gs p.trees).filterMap fun e =>
    if (p.place e.2).coord = s.coord ∧ (p.place e.1).coord ≠ s.coord then some (p.place e.1).coord else none).eraseDups

/-! ## Constellations (R231, R234) -/

/-- The longest arrival path below member `m`. -/
def arrivalPath (bound : Nat → Nat → Nat) (kids : Nat → List Nat) : Nat → Nat → Nat
  | 0, _ => 0
  | fuel + 1, m => (kids m).foldl (fun a c => Nat.max a (arrivalPath bound kids fuel c + bound c m)) 0

/-- The longest release path below member `m`, with the offset of each destination in rank order. -/
def releasePath (bound : Nat → Nat → Nat) (kids : Nat → List Nat) : Nat → Nat → Nat
  | 0, _ => 0
  | fuel + 1, m => ((List.range (kids m).length).zip (kids m)).foldl (fun a e =>
      Nat.max a (e.1 + bound m e.2 + releasePath bound kids fuel e.2)) 0

/-- CONST_BOUND_CLOCKS of a constellation (R234) with the table of `mask` and the link delay `dl` in clocks. -/
def State.constBound (s : State) (p : Plan) (mask dl : Nat) (ms : List Nat) : Nat :=
  let bound (a b : Nat) : Nat :=
    s.vc1Bound p.up.contains mask dl p.box (p.place a).coord (p.place a).cl (p.place b).coord (p.place b).cl
  let kids := p.children ms
  let root := ms.headD 0
  4 + arrivalPath bound kids 4 root + releasePath bound kids 4 root + 1

/-- The node of rank `m` for constellation `b` on its cluster. -/
def State.placeNode (s : State) (p : Plan) (b m : Nat) : State :=
  let ms := p.members b
  let c := (p.place m).cl
  let par := p.parent ms m
  let kids := p.children ms m
  let s := s.modCluster c fun k => { k with nodes := Store.set k.nodes b (NodeLinks.mk p.job p.st par.1 kids false) }
  let s := (s.setReg (syObj c b 5) par.2).setReg (syObj c b 6) (1 + kids.length)
  ((s.setReg (syObj c b 7) 0).setReg (syObj c b 8) (par.1.getD 0xFFFFFFFF)).setReg (syObj c b 10) (s.constBound p (2 ^ s.stepping) (delayClocks (s.blockDelay p.box)) ms)

/-! ## What a binding writes -/

/-- The image settings of the array that a slot binds (R37, D+21h). -/
def State.setSlotArray (s : State) (c a : Nat) (u : SlotUse) : State :=
  let x := 34 * c + a
  let s := (s.setAr 0x21 4 x u.budget).setAr 0x21 5 x (if u.economy then 1 else 0)
  (s.setAr 0x21 6 x u.fs).setAr 0x27 8 x u.tfs

/-- The slots of a role are bound on a cluster (R52, R193, R272): a slot with a BLOCK in its version's bank (for TRAIN in
both), a slot without one to the lowest FREE array in both banks (log entry 34). -/
def State.bindSlots (s : State) (p : Plan) (c : Nat) (r : RoleImg) : State :=
  let bindIn (s : State) (banks : List Nat) (k : Nat × SlotUse) (a : Nat) : State :=
    (banks.foldl (fun (s : State) b => s.modCluster c fun q => q.bind b k.1 a) s).setSlotArray c a k.2
  let s := match s.pinned p.job with
    | none => s
    | some v => forAll (r.slots.filter fun k => k.2.block != noBlock && !k.2.servingSlot) s fun s k =>
        match s.blockAt v c k.2.block with
        | some b => (match b.array with
          | some x => bindIn s (if p.img.train then [0, 1] else [s.reg (Od.VER_NUMBER v) % 2]) k (anum x)
          | none => s)
        | none => s
  let free := s.freeArrays c
  forAll ((List.range r.freeSlots.length).zip r.freeSlots) s fun s e =>
    let a := free.getD e.1 0
    (bindIn s [0, 1] e.2 a).setAr 0x21 3 (34 * c + a) e.2.2.wfmt

/-- The CONST allocations of a role receive their INIT bytes (R191). -/
def State.initConst (s : State) (c : Nat) (r : RoleImg) : State :=
  ((r.allocs.filter fun a => a.kind == 1).foldl (fun (q : State × List Byte) a =>
    let m := ((List.range a.len).zip (q.2.take a.len)).foldl (fun m e => Mem.write m (0x400000 * c + a.off + e.1) e.2) q.1.sram
    ({ q.1 with sram := m }, q.2.drop a.len)) (s, r.init)).1

/-- A rank is bound on its cluster of this module (R189 to R193, Table CL-6). -/
def State.bindRank (s : State) (p : Plan) (tenant rank c : Nat) : State :=
  match p.rankRole rank with
  | none => s
  | some (r, _) =>
    let u := 2 * c + p.st
    let site (x : ReplayRec) : Nat × ReplaySite :=
      (x.word, ⟨((r.allocs.find? fun a => a.id == x.alloc).map AllocRec.off).getD 0, x.groups,
        s.replaySpan (2 ^ s.stepping) x.groups⟩)
    let t : Strand := { Strand.new with
      pc := r.entry, entry := r.entry, rank := rank, ncl := p.n, tenant := tenant, coord := s.coord
      imem := (List.range p.img.code.length).zip (p.img.code.map fun w => BitVec.ofNat 32 w)
      gaps := r.gaps.foldl (fun m g => Store.set m g.gap g.len) []
      chans := r.chans.foldl (fun m x => Store.set m x.chan (Chan.mk x.off x.len x.notify)) []
      params := (List.range p.img.params.length).map fun i =>
        (i, BitVec.ofNat 32 (s.paramValue p.job i ((p.img.params.getD i (0, 0, 0)).2.2)))
      slots := r.slots.foldl (fun m k => Store.set m k.1 k.2) []
      sites := (r.replays.map site).foldl (fun m x => Store.set m x.1 x.2) [] }
    let s := { s with pages := (r.pages fun _ => true).foldl (fun m g =>
      Store.set m (1024 * c + g) (PageTag.mk true p.st tenant)) s.pages }
    let s := (s.initConst c r).bindSlots p c r
    let s := s.setStrand u t
    let s := forAll r.syncs s fun s x =>
      let s := ((s.setReg (syObj c x.obj 1) 1).setReg (syObj c x.obj 2) p.st).setReg (syObj c x.obj 3) x.init
      if x.leaf then s.placeNode p x.obj rank else s
    ((s.setReg (ssObj u) SS.LOADED).setReg (sjObj u) p.job).setReg (hoObj u) 0

/-- The serving job that a TRAIN plan is paired with: the one on the clusters of its SERVING_SLOT slots. -/
def State.pairOf (s : State) (p : Plan) : Nat :=
  if !p.img.train then 0
  else ((s.localRanks p).findSome? fun e => match p.rankRole e.1 with
    | some (r, _) => if r.slots.any (fun k => k.2.servingSlot) then some (s.reg (sjObj (2 * e.2))) else none
    | none => none).getD 0

/-- The job record of a binding. -/
def State.jobRecord (s : State) (p : Plan) (gs : List GroupAt) : Job :=
  let uses := s.planUses p gs
  let pools := (s.localRanks p).flatMap fun e => match p.rankRole e.1 with
    | some (r, _) => (r.allocs.filter isPool).map fun a => (a.kind, e.1, a.off, a.len)
    | none => []
  { Job.new with
    train := p.img.train
    ranks := p.places
    roleOf := (List.range p.n).map fun r => (p.roleOf r).1
    image := s.reg (Od.JOB_IMAGE p.job)
    sliceRev := match s.jobSlice p.job with
      | some k => Store.get 0 s.sliceRev k
      | none => 0
    up := p.up
    links := uses.1
    ports := uses.2
    senders := s.planSenders p gs
    groups := gs.map GroupAt.group
    pools := pools
    pair := s.pairOf p }

/-- The binding of a plan that passed every check. -/
def State.bindPlan (s : State) (p : Plan) (gs : List GroupAt) : State :=
  let tenant := s.reg (Od.JOB_TENANT p.job)
  let rec' := s.jobRecord p gs
  let s := s.setReg (Od.TENANT_SRAM_USED tenant) (s.reg (Od.TENANT_SRAM_USED tenant) + s.poolBytes p)
  let s := s.setJob p.job rec'
  let s := forAll (s.localRanks p) s fun s e => s.bindRank p tenant e.1 e.2
  let s := if rec'.pair = 0 then s else (s.setReg (Od.TRAIN_PAIR rec'.pair) p.job).setReg (Od.TRAIN_PAIR p.job) rec'.pair
  (s.setReg (Od.JOB_STATE p.job) JS.BOUND).setReg (Od.JOB_REASON p.job) 0

/-- A stored image is complete. -/
def State.imageStored (s : State) (i : Nat) : Bool := match Store.get? s.images i with
  | some x => !x.loading && x.total != 0
  | none => false

/-- The plan of job `j` with an image, and the code of check 6 where the slice does not take it (R188, R189). -/
def State.planOf (s : State) (j : Nat) (img : Img) : Option Plan :=
  match s.jobSlice j with
  | none => none
  | some k =>
    let n := s.reg (Od.JOB_NCLUSTERS j)
    let cs := img.counts n
    let p : Plan := ⟨j, img, n, s.box k, s.slicePlaces k, cs, (List.range 33).filter s.routable⟩
    if s.reg (Od.SLICE_STATE k) = 1 ∧ n % img.nclStep = 0 ∧ img.nclMin ≤ n ∧ n ≤ img.nclMax ∧ n = s.sliceNcl k ∧
        cs.foldl (fun a c => a + c) 0 = n ∧ p.refsOk = true then some p else none

/-- The checks of Table PC-7 from row 2 on; the plan and groups where all pass, else the first code. `n`: the writing
session. -/
def State.bindCheck (s : State) (n j : Nat) : Nat ⊕ (Plan × List GroupAt) :=
  let i := s.reg (Od.JOB_IMAGE j)
  let t := s.reg (Od.JOB_TENANT j)
  if !s.imageStored i || s.reg (Od.TENANT_STATE t) ≠ 1 then .inl Code.MISSING_OBJECT
  else if !s.actsFor n t then .inl Code.AUTH_FAIL
  else
    let x := Store.get Image.new s.images i
    let b := x.flat
    if slice b 0 4 ≠ [0x41, 0x52, 0x49, 0x4D] ∨ b.length < 64 ∨ b.length < 64 + 16 * u32 b 36 then .inl Code.BAD_IMAGE
    else if u16 b 4 ≠ 1 then .inl Code.VERSION_MISMATCH
    else match parseImg b with
      | none => .inl Code.BAD_IMAGE
      | some img => match img.codeFault x.firmware with
        | some c => .inl c
        | none => match s.planOf j img with
          | none => .inl Code.TOPOLOGY_MISMATCH
          | some p =>
            let gs := p.groups
            let ps := s.allPoints p gs (2 ^ s.stepping) (delayClocks (s.blockDelay p.box))
            if !s.rangesOk j img || pointsTooLong ps then .inl Code.RANGE_CONFLICT
            else if !s.declared p then .inl Code.MISSING_OBJECT
            else if s.sealedForeign p t then .inl Code.AUTH_FAIL
            else if img.roles.any RoleImg.overlaps then .inl Code.SRAM_OVERLAP
            else if s.startReg (Od.TENANT_SRAM_QUOTA t) < s.reg (Od.TENANT_SRAM_USED t) + s.poolBytes p then
              .inl Code.TENANT_QUOTA
            else if !s.planFits p gs then .inl Code.DOES_NOT_FIT
            else if !img.gapsOk ps then .inl Code.NO_TEST_GAP
            else .inr (p, gs)

/-- A session may write a job's objects: it acts for the operator or the job's tenant; a job in NONE belongs to none yet
(R373; log entry 35). -/
def State.jobRight (s : State) (n j : Nat) : Bool :=
  s.actsFor n (s.reg (Od.JOB_TENANT j)) || s.jobState j == JS.NONE

/-- A die below P0 is raised to it; a lowering that is pending is cancelled (R409, Table PW-7). -/
def State.raiseDie (s : State) (d : Nat) : State :=
  if s.reg (Od.DIE_OPP d) = 0 then s
  else { (s.setReg (Od.DIE_OPP d) 0).bump (Od.OPP_CHANGES d) 1 with oppTarget := Store.erase s.oppTarget d, volt := Store.set s.volt d 0 }

/-- What a bind does to the power of its clusters, dies and ports before it answers (R409, R414, R416). -/
def State.powerFor (s : State) (j : Nat) : State :=
  let cs := ((s.job j).ranks.filter fun p => p.coord == s.coord).map fun p => p.cl
  let s := forAll cs s fun s c => (s.wakeCluster c).raiseDie (dieOf c)
  forAll (s.job j).ports s fun s p => if s.reg (Od.FAB_PORT_PWR p) = 1 then s.setReg (Od.FAB_PORT_PWR p) 0 else s

/-- JOB_BIND of job `j` (R201, R202). -/
def wrJobBind (n j : Nat) (v : Bool) (s : State) : Wr :=
  if !v then okW s
  else if !(s.jobState j = JS.NONE ∨ (s.jobState j = JS.BOUND ∧ (s.job j).stale = true)) then badState s (s.jobState j)
  else match s.bindCheck n j with
    | .inl c => ((s.setReg (Od.JOB_REASON j) c), ⟨c, 0xFF, []⟩)
    | .inr (p, gs) => okW ((s.bindPlan p gs).powerFor j)

def execJobBind (n : Nat) (j : Fin 64) (v : Bool) (s : State) : Out :=
  s.write n (s.jobRight n (j.val + 1)) (wrJobBind n (j.val + 1) v)

/-- JOB_UNLOAD (Table PC-6): a BOUND or ENABLED job goes to ENDING; its requests end without a breach. -/
def wrJobUnload (j : Nat) (v : Bool) (s : State) : Wr :=
  if !v then okW s
  else if s.jobState j = JS.BOUND ∨ s.jobState j = JS.ENABLED then okW ((s.endJob j 0 0 0).jobToNone j)
  else badState s (s.jobState j)

def execJobUnload (n : Nat) (j : Fin 64) (v : Bool) (s : State) : Out :=
  s.write n (s.jobRight n (j.val + 1)) (wrJobUnload (j.val + 1) v)

/-- IMAGE_DELETE (R204): LOCKED while a job in BOUND, ENABLED or ENDING is bound to the image. -/
def wrImageDelete (i : Nat) (v : Bool) (s : State) : Wr :=
  if !v then okW s
  else if s.jobs.any fun (e : Nat × Job) => s.jobState e.1 != JS.NONE && e.2.image == i then
    noW s Code.LOCKED
  else okW ({ s with images := Store.erase s.images i }.setReg (Od.IMAGE_LEN i) 0)

def execImageDelete (n : Nat) (i : Fin 16) (v : Bool) (s : State) : Out := s.write n (s.isOp n) (wrImageDelete i.val v)

end Sys2Proof.Machine
end

