-- ==== Sys2Proof/Machine/Enable.lean ====
section
/-!
DEFINITION. JOB_ENABLE: the job check (R382, Table OD-10), timing binding (R194, R197, R203) and the enable of a job on
several modules (R355).
-/
namespace Sys2Proof.Machine

/-- The plan of a bound job: its ranks, roles and routes as bound. -/
def State.boundPlan (s : State) (j : Nat) : Option Plan :=
  (s.jobImage j).map fun img =>
    let n := (s.job j).ranks.length
    ⟨j, img, n, s.jobBox j, (s.job j).ranks, img.counts n, (s.job j).up⟩

/-- A refusal of an enable: code, STATE of the result and the object that LAST_CHECK_OBJECT names (R381). -/
structure Refused where
  code : Nat
  st : Nat
  obj : Nat
  deriving DecidableEq, Repr

def no (code : Nat) : Option Refused := some ⟨code, 0xFF, 0xFFFFFFFF⟩
def noAt (code : Nat) (o : Obj) : Option Refused := some ⟨code, 0xFF, o.idx * 0x100 + o.sub⟩

/-- The slots of a job on this module: cluster, slot and use. -/
def State.jobSlots (s : State) (j : Nat) : List (Nat × Nat × SlotUse) :=
  (s.jobStrands j).flatMap fun u => (s.strand u).slots.map fun (e : Nat × SlotUse) => (clOf u, e.1, e.2)

/-- The array of a slot that names a BLOCK is ACTIVE; a retired one has been replaced by a spare, which the version then
names (R53, R204). -/
def State.slotActive (s : State) (j c : Nat) (u : SlotUse) : Bool :=
  match s.pinned j with
  | none => false
  | some v => match s.blockAt v c u.block with
    | some b => (match b.array with
      | some x => s.arrState x == AS.ACTIVE
      | none => false)
    | none => false

/-- A slot of the job is bound to a RETIRED array, which no spare has replaced (R53, R204). -/
def State.slotRetired (s : State) (j : Nat) : Bool :=
  (s.jobStrands j).any fun u => (s.strand u).slots.any fun (e : Nat × SlotUse) => s.arrState (34 * clOf u + s.slotArr u e.1) == AS.RETIRED

/-- The bytes of the job's KV_POOL allocations over the slice (R270). -/
def Plan.kvBytes (p : Plan) : Nat :=
  p.roles.foldl (fun a e => a + p.count e.1 * (e.2.allocs.filter fun x => x.kind == 4).foldl (fun b x => b + x.len) 0) 0

/-- Row 7 of Table OD-10 (R270). -/
def State.servingCheck (s : State) (j : Nat) : Option Refused :=
  let zero (o : Obj) : Bool := s.reg o == 0
  if zero (Od.KV_BYTES_PER_TOKEN j) then noAt Code.MISSING_OBJECT (Od.KV_BYTES_PER_TOKEN j)
  else if zero (Od.KV_BLOCKS j) then noAt Code.MISSING_OBJECT (Od.KV_BLOCKS j)
  else if zero (Od.VOCAB_SIZE j) then noAt Code.MISSING_OBJECT (Od.VOCAB_SIZE j)
  else if zero (Od.MAX_CONTEXT j) then noAt Code.MISSING_OBJECT (Od.MAX_CONTEXT j)
  else
    let pool := match s.boundPlan j with
      | some p => p.kvBytes
      | none => 0
    if pool < s.reg (Od.KV_BLOCKS j) * 16 * s.reg (Od.KV_BYTES_PER_TOKEN j) then no Code.RANGE_CONFLICT else none

/-- Row 8 of Table OD-10. -/
def State.trainCheck (s : State) (j : Nat) : Option Refused :=
  let bad := (s.jobSlots j).any fun e => e.2.2.servingSlot &&
    (let k := s.reg (sjObj (2 * e.1))
     !((s.jobState k == JS.BOUND || s.jobState k == JS.ENABLED) && (match Store.get? (s.strand (2 * e.1)).slots e.2.1 with
      | some u => u.trainShare
      | none => false)))
  if bad then no Code.MISSING_OBJECT else none

/-- A job whose slots hold a sealed version (R444). -/
def State.sealedJob (s : State) (j : Nat) : Bool :=
  (s.jobStrands j).any fun u => (s.strand u).slots.any fun (e : Nat × SlotUse) =>
    (s.versions.any fun (v : Nat × Version) => s.reg (Od.VER_SEALED v.1) == 1 && s.reg (Od.VER_STATE v.1) != 0 &&
      v.2.blocks.any fun b => b.array == some (34 * clOf u + s.slotArr u e.1))

/-- The rows of Table OD-10 that each module checks itself; `lead`: the module that the enable was written to. -/
def State.jobCheck (s : State) (j : Nat) (lead : Bool) : Option Refused :=
  let t := s.job j
  let many := 1 < (s.jobModules j).length
  if s.reg Od.MODULE_STATE ≠ MS.ENABLED then some ⟨Code.WRONG_STATE, s.reg Od.MODULE_STATE, 0xFFFFFFFF⟩
  else if lead && many && s.leadOf j != s.coord then no Code.LOCKED
  else if s.reg (Od.TENANT_STATE (s.reg (Od.JOB_TENANT j))) ≠ 1 then noAt Code.MISSING_OBJECT (Od.JOB_TENANT j)
  else
    let topo := match s.jobSlice j with
      | none => false
      | some k => s.reg (Od.SLICE_STATE k) == 1 && Store.get 0 s.sliceRev k == t.sliceRev && !t.stale &&
          (maskClusters (s.reg (Od.SLICE_MASK k))).all fun c => s.reg (csObj c) == CS.READY || s.reg (csObj c) == CS.RETENTION
    if !topo then no Code.TOPOLOGY_MISMATCH
    else
      let named := (s.jobSlots j).filter fun e => e.2.2.block != noBlock && !e.2.2.servingSlot
      if !named.isEmpty && ((s.pinned j).isNone || s.reg Od.RECOVERY_STATE != 0) then no Code.MISSING_OBJECT
      else if !(named.all fun e => s.slotActive j e.1 e.2.2) || s.slotRetired j then no Code.DOES_NOT_FIT
      else if s.reg (Od.JOB_DEBUG j) = 1 ∧ s.sealedJob j = true then no Code.LOCKED
      else if t.train then s.trainCheck j else s.servingCheck j

/-- The timing binding with the effective table of `mask` and the slice's link delay `dl` in clocks: the points of every
role, or the code that refuses it (R203). -/
def State.timing (s : State) (j mask dl : Nat) : Nat ⊕ (Plan × List (Store Nat)) :=
  match s.boundPlan j with
  | none => .inl Code.MISSING_OBJECT
  | some p =>
    if !s.entriesHeld mask p.img then .inl Code.MISSING_OBJECT
    else
      let ps := s.allPoints p p.groups mask dl
      if pointsTooLong ps then .inl Code.RANGE_CONFLICT
      else if !p.img.gapsOk ps then .inl Code.NO_TEST_GAP
      else .inr (p, ps)

/-- CONST_BOUND_CLOCKS of a strand's constellations as the enable prices them (R234). -/
def State.rebound (s : State) (p : Plan) (mask dl rank c : Nat) : State :=
  match p.rankRole rank with
  | some (r, _) => forAll (r.syncs.filter fun x => x.leaf) s fun s x =>
      s.setReg (syObj c x.obj 10) (s.constBound p mask dl (p.members x.obj))
  | none => s

/-- What a successful enable writes on a module: bound points, constellation bounds, replay spans, schedule lengths, steppings, the start tick,
and replacements of R53 that wait on its clusters, which no batch is in progress on. -/
def State.enableJob (s : State) (j mask dl start : Nat) (p : Plan) (ps : List (Store Nat)) : State :=
  let s := forAll (s.localRanks p) s fun s e =>
    let u := 2 * e.2 + p.st
    let span (x : ReplaySite) : ReplaySite := { x with span := s.replaySpan mask x.groups }
    let s := s.modStrand u fun t => { t with
      points := ps.getD (p.roleOf e.1).1 [], sites := t.sites.map fun (x : Nat × ReplaySite) => (x.1, span x.2) }
    (s.rebound p mask dl e.1 e.2).modCluster e.2 fun k =>
      { (k.pendingSlots.filter fun (x : Nat × Nat) => x.1 / 64 == 1).foldl (fun (k : Cluster) x =>
          k.bind (x.1 / 32 % 2) (x.1 % 32) x.2) k with pendingSlots := Store.keep k.pendingSlots fun x => x < 64 }
  let s := (s.setReg (Od.SCHED_FIRST_TICKS j) (headerTicks ps p.img.first)).setReg (Od.SCHED_TOKEN_TICKS j)
    (if p.img.train then headerTicks ps p.img.step else headerTicks ps p.img.token)
  let s := s.setReg (Od.JOB_STEPPINGS j) mask
  (s.setReg (Od.JOB_STATE j) JS.ENABLED).modJob j fun t =>
    { t with startTick := some start, delay := dl, lat := s.fabricTable mask, query := none }

/-- A refused enable leaves JOB_ENABLE at 0 and records the reason (R203, R381). -/
def State.enableRefused (s : State) (n j : Nat) (r : Refused) : Wr :=
  let s := (s.setReg (Od.JOB_REASON j) r.code).setReg (Od.LAST_CHECK_OBJECT n) r.obj
  (s.modJob j fun t => { t with query := none }, ⟨r.code, r.st, []⟩)

/-- This module's reply to an enable query; `code`, `st`: the result of its own check. -/
def State.enableReply (s : State) (j code st : Nat) : EnableReply :=
  let img := match Store.get? s.images (s.job j).image with
    | some i => i.flat
    | none => []
  let rec' := match s.jobSlice j with
    | some k => leBytes 4 (s.reg (Od.SLICE_ID k)) ++ leBytes 4 (s.reg (Od.SLICE_ORIGIN k)) ++
        leBytes 4 (s.reg (Od.SLICE_EXTENT k)) ++ leBytes 1 (s.reg (Od.SLICE_WRAP k)) ++ leBytes 192 (s.reg (Od.SLICE_MASK k))
    | none => []
  ⟨s.stepping, [s.latVersion 0, s.latVersion 1, s.latVersion 2], Config.digest img, s.reg Od.SYNC_STATE,
    crc32 rec', code, st, s.blockDelay (s.jobBox j)⟩

/-- The neighbour that a block requires at port `p` of module `m`, if its routes use the port: the next module along the
axis, across the block's ends where the axis wraps (R352, R356). -/
def Box.needs (b : Box) (m p : Nat) : Option Nat :=
  let a := p / 2
  let e := axisOf a b.extent
  let i := (axisOf a m + 16 - axisOf a b.origin) % 16
  let put (v : Nat) : Nat :=
    if a = 0 then coordOf v (cy m) (cz m) else if a = 1 then coordOf (cx m) v (cz m) else coordOf (cx m) (cy m) v
  let other (k : Nat) : Nat := put ((axisOf a b.origin + k) % 16)
  if e ≤ 1 then none
  else if p % 2 = 0 then
    if i + 1 < e then some (other (i + 1)) else if b.wrap.testBit a then some (other 0) else none
  else
    if 0 < i then some (other (i - 1)) else if b.wrap.testBit a then some (other (e - 1)) else none

/-- Every port of this module inside the block is UP with the neighbour that the block requires (R355). -/
def State.portsFit (s : State) (b : Box) : Bool :=
  (List.range 6).all fun p => match b.needs s.coord p with
    | some m => s.reg (Od.PORT_STATE p) == 2 && s.reg (Od.NEIGHBOUR_COORD p) == m
    | none => true

/-- The mask of the steppings of a set of replies (bit 0 A0, bit 1 A1, bit 2 B0). -/
def steppingMask (rs : List EnableReply) : Nat := rs.foldl (fun a r => if a.testBit r.stepping then a else a + 2 ^ r.stepping) 0

/-- What the lead makes of all replies (R355, step 3): the first refusal of the enable, in order. -/
def judgeReplies (fit : Bool) (rs : List EnableReply) : Option Refused :=
  match rs with
  | [] => no Code.TOPOLOGY_MISMATCH
  | r0 :: t =>
    let mask := steppingMask rs
    if !fit || rs.any (fun r => r.code == Code.TOPOLOGY_MISMATCH) || t.any (fun r => r.crc != r0.crc) then
      no Code.TOPOLOGY_MISMATCH
    else if rs.any fun r => r.sync != SY.LOCKED && r.sync != SY.HOLDOVER then no Code.TIME_UNLOCKED
    else if ([0, 1, 2].any fun st => mask.testBit st && t.any fun r => r.vers.getD st 0 != r0.vers.getD st 0) ||
        t.any (fun r => r.measure != r0.measure) then no Code.VERSION_MISMATCH
    else (rs.find? fun r => r.code != 0).map fun r => ⟨r.code, r.st, 0xFFFFFFFF⟩

/-- The lead decides once every module has replied. -/
def State.judgeEnable (s : State) (n j : Nat) (rs : Store EnableReply) : Wr :=
  let all := rs.map Prod.snd
  match judgeReplies (s.portsFit (s.jobBox j)) all with
  | some r => s.enableRefused n j r
  | none =>
    let mask := steppingMask all
    let dl := delayClocks (all.foldl (fun a r => Nat.max a r.delay) 0)
    match s.timing j mask dl with
    | .inl c => s.enableRefused n j ⟨c, 0xFF, 0xFFFFFFFF⟩
    | .inr (p, ps) =>
      let start := s.now + 21250
      let s := forAll ((s.jobModules j).filter fun m => m != s.coord) s fun s m => s.notice m 3 [j, mask, dl, start]
      okW (s.enableJob j mask dl start p ps)

/-- JOB_ENABLE of job `j` by session `n` (R203, R382). The start tick of a job on one module is the next tick (DESIGN
CHOICE, log entry 37). A job on several modules is decided once its modules have replied. -/
def wrJobEnable (n j : Nat) (v : Bool) (s : State) : Wr :=
  if !v then okW s
  else if s.jobState j ≠ JS.BOUND ∨ (s.job j).query.isSome = true then badState s (s.jobState j)
  else match s.jobCheck j true with
    | some r => s.enableRefused n j r
    | none =>
      let others := (s.jobModules j).filter fun m => m != s.coord
      if others = [] then
        let dl := delayClocks (s.blockDelay (s.jobBox j))
        match s.timing j (2 ^ s.stepping) dl with
        | .inl c => s.enableRefused n j ⟨c, 0xFF, 0xFFFFFFFF⟩
        | .inr (p, ps) => okW (s.enableJob j (2 ^ s.stepping) dl (s.now + 1) p ps)
      else
        let own : Store EnableReply := [(s.coord, s.enableReply j 0 0xFF)]
        let s := forAll others s fun s m => s.notice m 1 [j]
        (s.modJob j fun t => { t with query := some (own, n, s.now) }, s.answer)

def execJobEnable (n : Nat) (j : Fin 64) (v : Bool) (s : State) : Out :=
  s.write n (s.jobRight n (j.val + 1)) (wrJobEnable n (j.val + 1) v)

/-- ENABLE_QUERY: the query of job `j` from the lead `m` (R355, step 2). A module whose own check fails records the
reason. -/
def execEnableQuery (j m : Nat) (s : State) : Out :=
  let c : Nat × Nat := if s.jobState j ≠ JS.BOUND then (Code.WRONG_STATE, s.jobState j)
    else match s.jobCheck j false with
      | some r => (r.code, r.st)
      | none => (if s.portsFit (s.jobBox j) then 0 else Code.TOPOLOGY_MISMATCH, 0xFF)
  let r := s.enableReply j c.1 c.2
  let s := if c.1 = 0 then s else s.setReg (Od.JOB_REASON j) c.1
  .next (s.notice m 2 ([j, r.stepping] ++ r.vers ++ [r.measure, r.sync, r.crc, r.code, r.st, r.delay]))

/-- ENABLE_START: the lead's start message (R355, step 4): this module binds the same point values and its strands start
at the start tick. -/
def execEnableStart (j mask delay : Nat) (start : BitVec 64) (s : State) : Out :=
  if s.jobState j = JS.BOUND then
    match s.timing j mask delay with
    | .inl c => .next (s.setReg (Od.JOB_REASON j) c)
    | .inr (p, ps) => .next (s.enableJob j mask delay start.toNat p ps)
  else .next s

end Sys2Proof.Machine
end

