-- ==== Sys2Proof/Machine/Admit.lean ====
section
/-!
DEFINITION. Responses to host messages (R335) and admission (R220, R221, R244 to R251, R263 to R265): SUBMIT and the
landing of the admission record.
-/
namespace Sys2Proof.Machine

/-! ## Responses (R335, Table HP-4) -/

/-- The engine class of a received message (Table HP-3). -/
def InMsg.eng (m : InMsg) : Nat :=
  if m.cls = 1 then (if m.flags / 4 % 2 = 1 then 0 else 1)
  else if m.cls = 5 ∨ m.cls = 7 then 2
  else if m.cls = 10 ∨ m.cls = 11 then 0
  else 1

/-- FIRST and LAST of a message sent whole, with the LC bit of the message answered. -/
def InMsg.whole (m : InMsg) : Nat := 3 + 4 * (m.flags / 4 % 2)

/-- REFUSE with a code; `st`: the current state for WRONG_STATE; `retry`: the retry-after tick. -/
def State.refuseMsg (s : State) (n : Nat) (m : InMsg) (code st : Nat) (retry : Option Nat) : State :=
  s.sendAs m.eng n MC.REFUSE 0 m.whole code m.ctx m.reqId (respPrefix m.seq retry st)

/-- REFUSE with a code and nothing else. -/
def State.refuse (s : State) (n : Nat) (m : InMsg) (code : Nat) : State := s.refuseMsg n m code 0xFF none

/-- ACK DONE. -/
def State.done (s : State) (n : Nat) (m : InMsg) (extra : List Byte) : State :=
  s.send n MC.ACK 2 3 0 m.ctx m.reqId (respPrefix m.seq none 0xFF ++ extra)

/-- A number of a payload, most significant byte first (R326). -/
def be (b : List Byte) (o n : Nat) : Nat := beNat (slice b o n)

/-- The tenant that a session acts for: its tenant, or the operator tenant 0 (R429). -/
def State.actor (s : State) (n : Nat) : Nat := (s.session n).tenant.getD 0

/-! ## SUBMIT parameters (Tables SV-3, HP-5) -/

structure Submit where
  job : Nat
  cls : Nat
  retain : Bool
  nid : Nat
  nseq : Nat
  adapter : Nat
  pfx : Nat
  seed : Nat
  temp : Nat
  topP : Nat
  topK : Nat
  maxTok : Nat
  ticks : Nat
  firstLim : Nat
  intLim : Nat
  plen : Nat
  ids : List Nat
  seqs : List (Nat × List Nat)
  deriving DecidableEq, Repr

/-- The PARAMS payload of Table HP-5. -/
def Submit.parse (b : List Byte) : Submit where
  job := be b 0 1
  cls := be b 1 1
  retain := be b 2 1 % 2 == 1
  nid := be b 3 1 % 32
  nseq := be b 3 1 / 32
  adapter := be b 4 4
  pfx := be b 8 4
  seed := be b 12 8
  temp := be b 20 2
  topP := be b 22 2
  topK := be b 24 2
  maxTok := be b 28 4
  ticks := be b 32 4
  firstLim := be b 36 4
  intLim := be b 40 4
  plen := be b 44 4
  ids := (List.range 16).map fun i => be b (48 + 4 * i) 4
  seqs := (List.range 4).map fun i =>
    (be b (112 + 36 * i) 4, (List.range 8).map fun k => be b (116 + 36 * i + 4 * k) 4)

/-- A prefix handle that belongs to a tenant and a job and is READY. -/
def State.prefixFor (s : State) (h t j : Nat) : Option Nat :=
  let e := h % 16384
  if h ≠ 0 ∧ s.prefixHandle e = h ∧ s.reg (Od.PREFIX_STATE e) = 2 ∧ s.reg (Od.PREFIX_TENANT e) = t ∧
      s.reg (Od.PREFIX_JOB e) = j then some e else none

/-- The generation of an entry that was CURRENT at the start of the tick (R299, Table WT-5). -/
def State.genAtStart (s : State) (e : Nat) : Option AdGen :=
  let gens := (Store.get Adapter.new s.adapters e).gens
  gens.find? fun (g : AdGen) => (g.state == 2 && g.since != s.now) || (g.state == 3 && g.since == s.now)

/-- An adapter of a tenant and a job and the generation of it that an admission pins (R263). -/
def State.adapterFor (s : State) (h t j : Nat) : Option (Nat × AdGen) :=
  let e := h % 4096
  if h ≠ 0 ∧ s.adapterHandle e = h ∧ s.reg (Od.AD_TENANT e) = t ∧ s.reg (Od.AD_JOB e) = j then
    (s.genAtStart e).map fun g => (e, g)
  else none

/-- The tokens of the prefix that a SUBMIT names. -/
def State.prefixTokens (s : State) (p : Submit) (t : Nat) : Nat :=
  match s.prefixFor p.pfx t p.job with
  | some e => s.reg (Od.PREFIX_TOKENS e)
  | none => 0

/-- The strands of role 0 of a job, with their places (R250). -/
def State.role0 (s : State) (j : Nat) : List (Nat × Place) :=
  ((List.range (s.job j).ranks.length).filter fun r => (s.job j).roleOf.getD r 0 == 0).map fun r => (r, s.place j r)

/-- The window of channel 15 that a job's image declares for role 0; of a job without a stored image none is known. -/
def State.declaredWindow (s : State) (j : Nat) : Option Nat :=
  (s.jobImage j).bind fun i => (i.roles[0]?).bind fun r => (r.chans.find? fun c => c.chan == 15).map ChanRec.len

/-- The admission record of a prompt fits the landing windows of channel 15 (R250, R251): those in force here, those that the image declares
on other modules (log entry 130). -/
def State.recordFits (s : State) (j plen : Nat) : Bool :=
  (s.role0 j).all fun e =>
    if e.2.coord = s.coord then match Store.get? (s.strand ((s.job j).strandOf e.2)).chans 15 with
      | some c => decide (272 + 4 * plen ≤ c.len)
      | none => false
    else match s.declaredWindow j with
      | some n => decide (272 + 4 * plen ≤ n)
      | none => true

/-- The ranges of R245. -/
def State.paramsOk (s : State) (p : Submit) (t : Nat) (prompt : List Word) : Bool :=
  let vocab := s.reg (Od.VOCAB_SIZE p.job)
  let cap := s.reg (Od.MAX_CONTEXT p.job)
  decide (p.cls ≤ 1) && decide (p.temp < 0x7C00) && decide (p.topK ≤ 256) && decide (0 < p.topP) &&
    decide (p.topP ≤ 0x3C00) && decide (p.nid ≤ 16) && decide (p.nseq ≤ 4) &&
    ((p.ids.take p.nid).all fun x => decide (x < vocab)) &&
    ((p.seqs.take p.nseq).all fun q => decide (1 ≤ q.1) && decide (q.1 ≤ 8) &&
      (q.2.take q.1).all fun x => decide (x < vocab)) &&
    decide (p.maxTok ≤ cap) && (p.maxTok != 0 || p.retain) && decide (p.ticks ≤ 2147481523) &&
    decide (1 ≤ p.plen) && decide (p.plen ≤ 65536) && (prompt.all fun w => decide (w.toNat < vocab)) &&
    decide (s.prefixTokens p t + p.plen + p.maxTok ≤ cap) && s.recordFits p.job p.plen

/-! ## Versions and KV blocks -/

/-- The entry of a job's CURRENT version. -/
def State.currentVer (s : State) (j : Nat) : Option Nat :=
  (List.range 16).find? fun e => s.reg (Od.VER_JOB e) == j && s.reg (Od.VER_STATE e) == 5

/-- The number of the job's CURRENT version; 0 none. -/
def State.currentNum (s : State) (j : Nat) : Nat :=
  match s.currentVer j with
  | some e => s.reg (Od.VER_NUMBER e)
  | none => 0

/-- The runs of KV blocks of a job that are not free: those of its contexts, of the prefixes that they read, and of its
handles (R249, R258). -/
def State.kvRuns (s : State) (j : Nat) (skip : List Nat) : List (Nat × Nat) :=
  ((s.ctxList.filter fun x => s.reg (Od.CTX_JOB x) == j).flatMap fun x =>
    (s.reg (Od.CTX_KV_BASE x), s.reg (Od.CTX_KV_BLOCKS x)) :: (s.ctx x).prefixRuns) ++
  ((s.prefixes.map Prod.fst).filter fun e => s.reg (Od.PREFIX_JOB e) == j && s.reg (Od.PREFIX_STATE e) != 0 &&
    !skip.contains e).flatMap fun e => (Store.get Prefix.new s.prefixes e).runs

/-- KV_BLOCKS_FREE (Table SV-12). -/
def State.kvFree (s : State) (j : Nat) : Nat :=
  s.reg (Od.KV_BLOCKS j) - (s.kvRuns j []).eraseDups.foldl (fun a (r : Nat × Nat) => a + r.2) 0

/-- Two runs of blocks do not meet. -/
def apart (a b : Nat × Nat) : Bool := decide (a.1 + a.2 ≤ b.1) || decide (b.1 + b.2 ≤ a.1)

/-- First fit of a run of `n` blocks below `total` from block 0 (R249). -/
def firstFit (runs : List (Nat × Nat)) (n total : Nat) : Option Nat :=
  let starts := 0 :: runs.map fun r => r.1 + r.2
  (starts.filter fun b => decide (b + n ≤ total) && runs.all fun r => apart (b, n) r).foldl
    (fun (a : Option Nat) b => match a with
      | none => some b
      | some x => some (Nat.min x b)) none

/-! ## Retry hints (R248, R294) -/

/-- The tick by which a context is sure to be FREE. -/
def State.sureFree (s : State) (x : Nat) : Nat :=
  let st := s.reg (Od.CTX_STATE x)
  if st = XS.ENDING then (s.ctx x).endTick + 425
  else if st = XS.RETAINED then (s.ctx x).expiry
  else
    let d := s.reg (Od.CTX_NEXT_DEADLINE x)
    let e := s.reg (Od.CTX_END_LIMIT x)
    let i := s.reg (Od.CTX_INTERVAL x)
    let n := s.reg (Od.CTX_MAX_TOKENS x) - 1 - s.reg (Od.CTX_NEXT_INDEX x)
    d + Nat.min n ((e - d) / i) * i + 425

/-- The hint over a set of contexts: the earliest tick, capped (R248). -/
def State.freeHint (s : State) (l : List Nat) : Option Nat :=
  (l.map s.sureFree).foldl (fun (a : Option Nat) b => match a with
    | none => some (Nat.min b (s.now + 0x7FFFFFFF))
    | some x => some (Nat.min x b)) none

/-- The largest number of blocks that a version places on one cluster (R294). -/
def Version.busiest (v : Version) : Nat :=
  let cs := v.manifest.map fun (r : Nat × List Byte) => leNat (slice r.2 4 4)
  cs.foldl (fun a c => Nat.max a (cs.filter (· == c)).length) 0

/-- The DRAINING hint (R294). -/
def State.drainHint (s : State) (j : Nat) : Nat :=
  let t := (s.ctxList.filter fun x => s.reg (Od.CTX_JOB x) == j).foldl (fun a x => Nat.max a (s.sureFree x)) s.now
  let est := match (List.range 16).find? fun e => s.reg (Od.VER_JOB e) == j && s.reg (Od.VER_STATE e) == 2 with
    | some e => Nat.max (s.reg (Od.VER_LOAD_EST_TICKS e)) ((Store.get Version.new s.versions e).busiest * 1742500)
    | none => 0
  Nat.min (t + est) (s.now + 0x7FFFFFFF)

/-! ## The promise (R220, R246, R264, R265) -/

/-- A freeze of the paired TRAIN job is requested and not yet effective. -/
def State.freezePending (s : State) (j : Nat) : Bool :=
  (s.pairStrands j).any fun u => s.strandState u != SS.FROZEN && ((s.strand u).freezeReq ||
    s.net.any fun m => m.type == 6 && m.op == 1 && m.dst == u)

/-- Admissions count on the freeze (R265). -/
def State.preempts (s : State) (j : Nat) : Bool :=
  s.pairRuns j && (s.freezePending j || decide (s.reg (Od.TRAIN_PREEMPT_AT j) ≤ (s.liveCtxs j).length + 1))

/-- The dies of a job's slice, as (module, die). -/
def State.jobDies (s : State) (j : Nat) : List (Nat × Nat) := ((s.job j).ranks.map fun p => (p.coord, dieOf p.cl)).eraseDups

/-- The ceiling in force of a die of the slice at the start of the tick: on this module the serving part unless the freeze is counted on; of another
module as it reported (R220, R264). -/
def State.dieCeiling (s : State) (whole : Bool) (d : Nat × Nat) : Nat :=
  if d.1 = s.coord then (if whole then s.startReg (Od.CEILING_NOW d.2) else (s.ceilSplit d.2 (s.startReg (Od.CEILING_NOW d.2))).1)
  else Store.get (s.reg (Od.ACT_CEILING d.2)) s.peerCeil (d.1 * 16 + d.2)

/-- A die of the slice vents at its floor (R221, R421). -/
def State.atFloor (s : State) (d : Nat × Nat) : Bool :=
  if d.1 = s.coord then s.startReg (Od.VENT_STATE d.2) == 2
  else
    let c := s.reg (Od.ACT_CEILING d.2)
    let f := (c * s.reg Od.VENT_FLOOR_PCT + 99) / 100
    decide (s.dieCeiling true d ≤ f) && decide (f < c)

def State.jobAtFloor (s : State) (j : Nat) : Bool := (s.jobDies j).any s.atFloor

/-- The smallest ceiling of the slice in force and the configured ceiling of its die. -/
def State.slowest (s : State) (j : Nat) (whole : Bool) : Nat × Nat :=
  match (s.jobDies j).foldl (fun (a : Option (Nat × Nat)) d =>
    let c := s.dieCeiling whole d
    match a with
    | none => some (c, s.reg (Od.ACT_CEILING d.2))
    | some x => if c < x.1 then some (c, s.reg (Od.ACT_CEILING d.2)) else a) none with
  | some x => x
  | none => (1, 1)

/-- s_adj of R220. -/
def stretch (c : Nat × Nat) (n : Nat) : Nat := if c.1 < c.2 then (n * c.2 + c.1 - 1) / c.1 else n

/-- ballast(s) of R220; a write of its objects counts from the next tick (R226). -/
def State.ballastOf (s : State) (n : Nat) : Nat :=
  Nat.max ((n * s.startReg Od.PROMISE_BALLAST_PCT + 99) / 100) (s.startReg Od.BALLAST_MIN_TICKS)

/-- The remaining time W of a TRAIN step (R265). -/
def State.stepLeft (s : State) (j : Nat) : Nat :=
  let p := s.reg (Od.TRAIN_PAIR j)
  match s.pairStrands j with
  | u :: _ => (s.strand u).lastStep + s.reg (Od.SCHED_TOKEN_TICKS p) - s.jobTime u
  | [] => 0

/-- A promise: D0, I, ballast(S1), ballast(S), and t_adm + W where the record waits for a freeze. -/
structure Promise where
  d0 : Nat
  int : Nat
  first : Nat
  step : Nat
  waits : Option Nat
  deriving DecidableEq, Repr

/-- The promise of an admission now (R220, R246). -/
def State.promise (s : State) (j plen : Nat) : Promise :=
  let pre := s.preempts j
  let w := if pre then s.stepLeft j else 0
  let c := s.slowest j pre
  let e600 := match s.effEntry (s.reg (Od.JOB_STEPPINGS j)) 0x600 with
    | some e => e.value
    | none => 0
  let chunk := s.reg (Od.PREFILL_CHUNK j)
  let s1 := stretch c (e600 + s.reg (Od.SCHED_FIRST_TICKS j) * ((plen + chunk - 1) / chunk))
  let st := stretch c (s.reg (Od.SCHED_TOKEN_TICKS j))
  let b1 := s.ballastOf s1
  let b := s.ballastOf st
  ⟨s.now + w + s1 + b1, st + b, b1, b, if pre then some (s.now + w) else none⟩

/-- The promise can be made (R221). -/
def State.promiseOk (s : State) (p : Submit) (q : Promise) : Bool :=
  !s.jobAtFloor p.job && (p.firstLim == 0 || decide (q.d0 - s.now ≤ p.firstLim)) &&
    (p.intLim == 0 || decide (q.int ≤ p.intLim)) && (p.ticks == 0 || decide (q.d0 ≤ s.now + p.ticks)) &&
    decide (q.d0 - s.now ≤ 2147481523)

/-! ## Planned evictions (R262) -/

/-- Insertion of a handle entry by PREFIX_LAST_USE. -/
def State.byUse (s : State) (e : Nat) : List Nat → List Nat
  | [] => [e]
  | x :: t => if s.reg (Od.PREFIX_LAST_USE e) < s.reg (Od.PREFIX_LAST_USE x) then e :: x :: t else x :: s.byUse e t

/-- The shortest plan of evictions that makes `need` bytes fit the quota of tenant `t`, least recently used first, without
handle `keep`; none where even the whole plan does not. -/
def State.planEvictions (s : State) (t need keep : Nat) : Option (List Nat) :=
  let cand := ((s.prefixes.map Prod.fst).filter fun e => s.reg (Od.PREFIX_STATE e) == 2 &&
    s.reg (Od.PREFIX_TENANT e) == t && s.reg (Od.PREFIX_REFS e) == 0 && s.prefixHandle e != keep).foldl
      (fun l e => s.byUse e l) []
  let used := s.reg (Od.TENANT_SRAM_USED t)
  let quota := s.startReg (Od.TENANT_SRAM_QUOTA t)
  let fits (k : Nat) : Bool := decide (used - ((cand.take k).foldl (fun a e => a + s.prefixBytes e) 0) + need ≤ quota)
  ((List.range (cand.length + 1)).find? fits).map fun k => cand.take k

/-- The planned evictions are carried out (R262). -/
def State.evictAll (s : State) (l : List Nat) : State := forAll l s fun s e => s.evictPrefix e 1

/-! ## Admission (Table SV-4) -/

/-- Contexts FREE for an admission in this tick (R248, Table SV-11). -/
def State.freeCtxs (s : State) : Nat :=
  4096 - s.ctxs.length - ((s.freedAt.filter fun (e : Nat × Nat) => e.2 == s.now && !(s.ctxList.contains e.1)).length)

/-- The lowest FREE context number. -/
def State.lowestFree (s : State) : Option Nat :=
  (List.range 4096).find? fun x => !s.ctxList.contains x && (Store.get? s.freedAt x != some s.now)

/-- A refusal of an admission: code, state and retry-after hint. -/
structure NoAdmit where
  code : Nat
  st : Nat
  retry : Option Nat
  deriving DecidableEq, Repr

/-- What an admission that passes every check uses. -/
structure Grant where
  ctx : Nat
  base : Nat
  blocks : Nat
  evict : List Nat
  pfx : Option Nat
  gen : Option (Nat × AdGen)
  promise : Promise
  deriving DecidableEq, Repr

/-- A session of tenant `t` may submit to job `j` (R430). -/
def State.mayUse (s : State) (t j : Nat) : Bool :=
  decide (1 ≤ j) && decide (j ≤ 64) && (s.reg (Od.JOB_TENANT j) == t || (s.reg (Od.TENANT_JOBS t)).testBit (j - 1))

/-- Checks 5 to 7 of Table SV-4. -/
def State.namesOk (s : State) (p : Submit) (t : Nat) : Option Nat :=
  let gen := s.adapterFor p.adapter t p.job
  if p.adapter ≠ 0 ∧ gen = none then some Code.MISSING_OBJECT
  else if p.pfx = 0 then none
  else match s.prefixFor p.pfx t p.job with
    | none => some Code.MISSING_OBJECT
    | some e =>
      let num := match gen with
        | some g => g.2.num
        | none => 0
      if s.reg (Od.PREFIX_VERSION e) ≠ s.currentNum p.job ∨ s.reg (Od.PREFIX_ADAPTER e) ≠ p.adapter ∨
          s.reg (Od.PREFIX_ADAPTER_GEN e) ≠ num then some Code.VERSION_MISMATCH
      else if s.reg (Od.PREFIX_KV_FMT e) ≠ s.reg (Od.TENANT_KV8 t) then some Code.KV_FORMAT_MISMATCH
      else none

/-- The blocks of a run: ⌈(m + PROMPT_LEN + MAX_TOKENS) ÷ 16⌉ with m the prefix length mod 16 (R249). -/
def State.runBlocks (s : State) (p : Submit) (t : Nat) : Nat :=
  (s.prefixTokens p t % 16 + p.plen + p.maxTok + 15) / 16

/-- The checks of Table SV-4 in order, for tenant `t`. -/
def State.admission (s : State) (p : Submit) (t : Nat) (prompt : List Word) : NoAdmit ⊕ Grant :=
  if !s.mayUse t p.job then .inl ⟨Code.AUTH_FAIL, 0xFF, none⟩
  else if (s.job p.job).train || s.jobState p.job != JS.ENABLED then
    .inl ⟨Code.WRONG_STATE, s.jobState p.job, none⟩
  else if s.reg (Od.ADMISSION_PAUSED p.job) = 1 then .inl ⟨Code.DRAINING, 0xFF, some (s.drainHint p.job)⟩
  else if !s.paramsOk p t prompt then .inl ⟨Code.RANGE_CONFLICT, 0xFF, none⟩
  else match s.namesOk p t with
    | some c => .inl ⟨c, 0xFF, none⟩
    | none =>
      let free := s.freeCtxs
      match (if (if p.cls = 0 then 0 else s.reg Od.LC_RESERVED) < free then s.lowestFree else none) with
      | none => .inl ⟨Code.SLOT_FULL, 0xFF, s.freeHint s.ctxList⟩
      | some x =>
        let n := s.runBlocks p t
        match (if s.reg (Od.TENANT_CONTEXT_LIMIT t) ≤ s.reg (Od.TENANT_CONTEXTS t) then none
            else s.planEvictions t (16 * s.reg (Od.KV_BYTES_PER_TOKEN p.job) * n) p.pfx) with
        | none => .inl ⟨Code.TENANT_QUOTA, 0xFF, none⟩
        | some ev => match firstFit (s.kvRuns p.job ev) n (s.reg (Od.KV_BLOCKS p.job)) with
          | none => .inl ⟨Code.KV_FULL, 0xFF, s.freeHint (s.ctxList.filter fun x => s.reg (Od.CTX_JOB x) == p.job)⟩
          | some b =>
            let q := s.promise p.job p.plen
            if s.promiseOk p q then .inr ⟨x, b, n, ev, s.prefixFor p.pfx t p.job, s.adapterFor p.adapter t p.job, q⟩
            else .inl ⟨Code.NO_BALLAST, 0xFF, none⟩

/-- OCTETS of a context (Table SV-1): the count and 16 stop identifiers; 4 sequences of a length and 8 identifiers. -/
def Submit.stopIds (p : Submit) : List Byte :=
  leBytes 4 p.nid ++ (List.range 16).flatMap fun i => leBytes 4 (if i < p.nid then p.ids.getD i 0 else 0)
def Submit.stopSeqs (p : Submit) : List Byte :=
  (List.range 4).flatMap fun i =>
    let q := p.seqs.getD i (0, [])
    if i < p.nseq then leBytes 4 q.1 ++ (List.range 8).flatMap fun k => leBytes 4 (if k < q.1 then q.2.getD k 0 else 0)
    else List.replicate 36 0

/-- The objects of an admitted context (Table SV-1). -/
def State.ctxObjs (s : State) (n : Nat) (m : InMsg) (p : Submit) (t : Nat) (g : Grant) : State :=
  let x := g.ctx
  let gen := match g.gen with
    | some e => e.2.num
    | none => 0
  forAll [(1, XS.ADMITTED), (2, p.job), (3, t), (4, n), (5, m.reqId), (6, p.cls), (7, s.currentNum p.job), (8, p.adapter),
      (9, gen), (10, p.pfx), (11, s.reg (Od.TENANT_KV8 t)), (12, p.seed),
      (13, p.temp + 0x10000 * p.topP + 0x100000000 * (if p.topK = 0 then 256 else p.topK)), (14, leNat p.stopIds),
      (15, leNat p.stopSeqs), (16, p.maxTok), (17, if p.ticks = 0 then 0xFFFFFFFFFFFFFFFF else s.now + p.ticks),
      (18, s.now), (19, g.promise.d0), (20, g.promise.int), (21, g.promise.first), (24, if p.retain then 2 else 0),
      (27, g.base), (28, g.blocks), (29, p.plen)] s fun s e => s.setReg ⟨0x5021, e.1, x⟩ e.2

/-- References +1 (Table SV-2): prefix, adapter generation and version. -/
def State.refCtx (s : State) (p : Submit) (g : Grant) : State :=
  let s := match g.pfx with
    | some e => s.setReg (Od.PREFIX_REFS e) (s.reg (Od.PREFIX_REFS e) + 1)
    | none => s
  let s := match g.gen with
    | some (e, a) =>
      let t := Store.get Adapter.new s.adapters e
      let gens := t.gens.map fun (x : AdGen) => if x.num = a.num then { x with refs := x.refs + 1 } else x
      { s with adapters := Store.set s.adapters e { t with gens := gens } }.adapterObjs e
    | none => s
  match s.currentVer p.job with
  | some e => s.setReg (Od.VER_PINS e) (s.reg (Od.VER_PINS e) + 1)
  | none => s

/-- A SUBMIT is admitted: evictions, context, references, quota, a freeze request where R265 asks for one, and ACCEPT
(R337). -/
def State.grantCtx (s : State) (n : Nat) (m : InMsg) (p : Submit) (t : Nat) (g : Grant) (prompt : List Word) : State :=
  let freeze := g.promise.waits.isSome && !s.freezePending p.job
  let s := s.evictAll g.evict
  let s := (s.ctxObjs n m p t g).refCtx p g
  let runs := match g.pfx with
    | some e => (Store.get Prefix.new s.prefixes e).runs
    | none => []
  let off := match g.gen with
    | some e => e.2.off
    | none => 0xFFFFFFFF
  let s := s.setCtx g.ctx { Ctx.new with
    prefixLen := match g.pfx with
      | some e => s.reg (Od.PREFIX_TOKENS e)
      | none => 0
    prefixRuns := runs
    stepBallast := g.promise.step
    prompt := prompt
    adapterOff := off
    waits := g.promise.waits
    floorSeen := s.jobAtFloor p.job }
  let s := s.setReg (Od.TENANT_SRAM_USED t) (s.reg (Od.TENANT_SRAM_USED t) + s.runBytes g.ctx)
  let s := (s.setReg (Od.TENANT_CONTEXTS t) (s.reg (Od.TENANT_CONTEXTS t) + 1)).setReg Od.CONTEXTS_IN_USE
    (s.reg Od.CONTEXTS_IN_USE + 1)
  let s := s.bump Od.ADMITTED 1
  let s := if freeze then s.controlAll (s.reg (Od.TRAIN_PAIR p.job)) 1 0 else s
  s.send n MC.ACCEPT 0 (3 + 4 * (1 - p.cls)) 0 g.ctx m.reqId
    (respPrefix m.seq none 0xFF ++ beBytes 4 (short32 g.promise.d0) ++ beBytes 4 g.promise.int ++
      beBytes 4 (s.reg (Od.CTX_VERSION g.ctx)) ++ beBytes 4 (s.reg (Od.CTX_ADAPTER_GEN g.ctx)))

/-- Admission runs when the LAST fragment reaches HB (R336). -/
def State.admitSubmit (s : State) (n : Nat) (m : InMsg) (b : List Byte) (prompt : List Word) : State :=
  let p := Submit.parse b
  let t := s.actor n
  match s.admission p t prompt with
  | .inl r =>
    let s := s.bump Od.REFUSED 1
    let s := if r.code = Code.SLOT_FULL then s.bump Od.SLOT_FULL_REFUSALS 1 else s
    s.refuseMsg n m r.code r.st r.retry
  | .inr g => s.grantCtx n m p t g prompt

/-! ## SUBMIT messages (R336) -/

/-- A SUBMIT refused for its framing. -/
def State.refuseSubmit (s : State) (n : Nat) (m : InMsg) (code : Nat) : State :=
  ((s.modSession n fun t => { t with submit := none }).bump Od.REFUSED 1).refuse n m code

/-- PARAMS: opens a submission. One that is still open has a token count other than its PROMPT_LEN. -/
def State.onParams (s : State) (n : Nat) (m : InMsg) : State :=
  let s := if (s.session n).submit.isSome then s.refuseSubmit n m Code.RANGE_CONFLICT else s
  if m.payload.length ≠ 256 ∨ (m.flags / 4 % 2 = 1 ↔ be m.payload 1 1 ≠ 0) then s.refuseSubmit n m Code.RANGE_CONFLICT
  else s.modSession n fun t => { t with submit := some (m.payload, m.reqId, []) }

/-- The words of a payload, most significant byte first. -/
def beWords (b : List Byte) : List Word := (List.range (b.length / 4)).map fun i => BitVec.ofNat 32 (be b (4 * i) 4)

/-- PROMPT: adds tokens; LAST triggers admission. -/
def State.onPrompt (s : State) (n : Nat) (m : InMsg) : State :=
  match (s.session n).submit with
  | none => (s.bump Od.REFUSED 1).refuse n m Code.WRONG_STATE
  | some (b, id, toks) =>
    if m.reqId ≠ id then (s.bump Od.REFUSED 1).refuse n m Code.WRONG_STATE
    else
      let toks := toks ++ beWords m.payload
      let plen := be b 44 4
      let last := m.flags / 2 % 2 = 1
      if (m.flags / 4 % 2 = 1 ↔ be b 1 1 ≠ 0) ∨ m.payload.length % 4 ≠ 0 ∨ plen < toks.length ∨
          (last ∧ toks.length ≠ plen) then s.refuseSubmit n m Code.RANGE_CONFLICT
      else if last then (s.modSession n fun t => { t with submit := none }).admitSubmit n m b toks
      else s.modSession n fun t => { t with submit := some (b, id, toks) }

/-! ## The admission record (R250, R251, Table SV-7) -/

/-- The record's bytes. -/
def State.admissionRecord (s : State) (x : Nat) : List Byte :=
  let r (sub : Nat) : Nat := s.reg ⟨0x5021, sub, x⟩
  let c := s.ctx x
  let sampling := r 13
  let ids := leBytes 68 (r 14)
  let seqs := leBytes 144 (r 15)
  let nseq := ((List.range 4).filter fun i => leNat (slice seqs (36 * i) 4) ≠ 0).length
  let base := match c.prefixRuns with
    | q :: _ => q.1
    | [] => 0
  leBytes 2 x ++ leBytes 1 (r 6 + 2 * r 11) ++ leBytes 1 (leNat (ids.take 4) + 32 * nseq) ++ leBytes 4 (r 7) ++
    leBytes 4 c.adapterOff ++ leBytes 4 c.prefixLen ++ leBytes 4 base ++ leBytes 4 (r 27) ++ leBytes 4 (r 28) ++
    leBytes 8 (r 12) ++ leBytes 4 sampling ++ leBytes 2 (sampling / 0x100000000) ++ leBytes 2 0 ++ leBytes 4 (r 16) ++
    leBytes 4 (r 29) ++ leBytes 4 (short32 (r 19)) ++ leBytes 4 (r 20) ++
    leBytes 4 (if r 17 = 0xFFFFFFFFFFFFFFFF then 0xFFFFFFFF else short32 (r 17)) ++ ids.drop 4 ++ seqs ++
    c.prompt.flatMap fun w => leBytes 4 w.toNat

/-- Bytes as clean words, least significant byte first. -/
def cleanWords (b : List Byte) : List PWord :=
  (List.range ((b.length + 3) / 4)).map fun i => PWord.mk (BitVec.ofNat 32 (leNat (slice b (4 * i) 4))) false

/-- Part `i` of a record lands on channel 15 of a strand of this module, or leaves for another module. -/
def State.landPart (s : State) (j rank i : Nat) (p : Place) (b : List Byte) : State :=
  let m : NetMsg := ⟨0, s.coord, 0x10000 + HB, (s.job j).strandOf p, 0, 15, 0, 0, s.reg (Od.JOB_TENANT j), j, 0, i,
    BitVec.ofNat 32 rank, cleanWords b, { Carried.plain b.length with auto := true }⟩
  if p.coord = s.coord then s.landMsg m m.payload else s.netSend 0 p.coord m

/-- The new BALLAST_FLOOR on every cluster of the slice (R96), then the record's parts on every cluster of role 0 (R250). -/
def State.landRecord (s : State) (x : Nat) : State :=
  let j := s.reg (Od.CTX_JOB x)
  let rec' := s.admissionRecord x
  let s := forAll (s.jobStrands j) s fun s u => s.setFloor j u
  let s := s.modJob j fun t => { t with entries := Store.set t.entries x s.coord }
  let s := forAll ((List.range (s.job j).ranks.length).filter fun r => (s.place j r).coord != s.coord) s fun s r => s.sendFloor j r (some x)
  let s := forAll (s.role0 j) s fun s e =>
    forAll (List.range ((rec'.length + 65535) / 65536)) s fun s i => s.landPart j e.1 i e.2 (slice rec' (65536 * i) 65536)
  s.setCtx x { s.ctx x with landed := true, waits := none }

/-- The ticks by which a freeze came later than t_adm + W are drawn from a waiting request's ballast, with hold cause
CEILING (R265). -/
def State.lateFreeze (s : State) (x : Nat) : State :=
  match (s.ctx x).waits with
  | none => s
  | some w =>
    let at' := (s.pairStrands (s.reg (Od.CTX_JOB x))).foldl (fun a u => Nat.max a (s.strand u).frozenAt) 0
    let d := at' - w
    if d = 0 then s
    else
      let s := s.setReg (Od.CTX_BALLAST x) (unsigned32 (signed32 (s.reg (Od.CTX_BALLAST x)) - d))
      let c := s.ctx x
      (s.setCtx x { c with drawn := Store.set c.drawn 3 (Store.get 0 c.drawn 3 + d) }).bump Od.BALLAST_DRAWN_TICKS d

/-- ADMISSION_RECORD: HB lands the record of context `x`, after any freeze that it waits for; ADMITTED becomes PREFILL
(Table SV-2). The record of a request cancelled in ADMITTED still lands. -/
def execAdmissionRecord (x : Fin 4096) (s : State) : Out :=
  let x := x.val
  let st := s.reg (Od.CTX_STATE x)
  let j := s.reg (Od.CTX_JOB x)
  let due := (st == XS.ADMITTED || st == XS.ENDING) && !(s.ctx x).landed && s.jobState j == JS.ENABLED
  let frozen := (s.ctx x).waits.isNone || !s.pairRuns j
  if due && frozen then
    let s := (s.lateFreeze x).landRecord x
    .next (if st = XS.ADMITTED then s.setReg (Od.CTX_STATE x) XS.PREFILL else s)
  else .next s

end Sys2Proof.Machine
end

