-- ==== Sys2Proof/Machine/Branch.lean ====
section
/-!
DEFINITION. The branches of Table IS-5 (R149). Offsets count words from the branch's own address (R142); a target
outside 0 to 8,191 is an illegal encoding (R145). A poisoned condition stops the strand (R135).
-/
namespace Sys2Proof.Machine

/-- The target PC + OFF, none outside the instruction store (R145). -/
def target (pc : Nat) (off : Int) : Option Nat :=
  let t := (pc : Int) + off
  if 0 ≤ t ∧ t < 8192 then some t.toNat else none

/-- Branch where `cond` holds of the two scalar operands. -/
def branchRR (cond : Word → Word → Bool) (i : Issue) (ra rb : Reg) (off : BitVec 16) (s : State) : Out :=
  match target (s.strand i.u.num).pc off.toInt with
  | none => .refused .illegalEncoding
  | some pc =>
    issueCtl i s (fun s => [(s.strand i.u.num).s ra, (s.strand i.u.num).s rb]) fun s =>
      if cond ((s.strand i.u.num).s ra).val ((s.strand i.u.num).s rb).val then
        s.retireTo i.u.num pc
      else s.retire i

def execBeq (i : Issue) (ra rb : Reg) (off : BitVec 16) (s : State) : Out := branchRR (fun a b => a == b) i ra rb off s
def execBne (i : Issue) (ra rb : Reg) (off : BitVec 16) (s : State) : Out := branchRR (fun a b => a != b) i ra rb off s
def execBlt (i : Issue) (ra rb : Reg) (off : BitVec 16) (s : State) : Out := branchRR (fun a b => a.slt b) i ra rb off s
def execBge (i : Issue) (ra rb : Reg) (off : BitVec 16) (s : State) : Out := branchRR (fun a b => !(a.slt b)) i ra rb off s
def execBltu (i : Issue) (ra rb : Reg) (off : BitVec 16) (s : State) : Out := branchRR (fun a b => a.ult b) i ra rb off s
def execBgeu (i : Issue) (ra rb : Reg) (off : BitVec 16) (s : State) : Out := branchRR (fun a b => !(a.ult b)) i ra rb off s

/-- JAL: s31 = PC + 1; PC = PC + OFF. -/
def execJal (i : Issue) (off : BitVec 26) (s : State) : Out :=
  match target (s.strand i.u.num).pc off.toInt with
  | none => .refused .illegalEncoding
  | some pc =>
    issue i s fun s =>
      (s.modStrand i.u.num fun t => t.setS 31 ⟨BitVec.ofNat 32 (t.pc + 1), false⟩).retireTo i.u.num pc

/-- JR: PC = sRA[12:0]. -/
def execJr (i : Issue) (ra : Reg) (s : State) : Out :=
  issueCtl i s (fun s => [(s.strand i.u.num).s ra]) fun s =>
    s.retireTo i.u.num (((s.strand i.u.num).s ra).val.toNat % 8192)

/-- A predicate as a control operand: poisoned where any of its words is. -/
def PredReg.ctl (p : PredReg) : PWord := ⟨0, p.poison != 0⟩

/-- Branch where `cond` holds of the bits of pn. -/
def branchP (cond : BitVec 256 → Bool) (i : Issue) (pn : PReg) (off : BitVec 16) (s : State) : Out :=
  match target (s.strand i.u.num).pc off.toInt with
  | none => .refused .illegalEncoding
  | some pc =>
    issueCtl i s (fun s => [((s.strand i.u.num).p pn).ctl]) fun s =>
      if cond ((s.strand i.u.num).p pn).bits then s.retireTo i.u.num pc else s.retire i

def execBpany (i : Issue) (pn : PReg) (off : BitVec 16) (s : State) : Out := branchP (fun b => b != 0) i pn off s
def execBpall (i : Issue) (pn : PReg) (off : BitVec 16) (s : State) : Out :=
  branchP (fun b => b == BitVec.allOnes 256) i pn off s

end Sys2Proof.Machine
end

