-- ==== Sys2Proof/Machine/Serving.lean ====
section
/-!
DEFINITION. Serving after admission: tokens, step reports and ends (R254 to R257, R266, R267), prefix handles (R258 to
R262, R340).
-/
namespace Sys2Proof.Machine

/-! ## Tokens (R255, R223, R388) -/

/-- Bits [31:0] of word `i` of a message. -/
def NetMsg.word (m : NetMsg) (i : Nat) : Nat := (m.payload.getD i PWord.zero).val.toNat

/-- The cause and source of a breach by lateness (Table ST-4, R422): the hold cause that drew the most ticks (the lowest code
among equals), or THERMAL 2 where that is CEILING and a die was at its floor. -/
def Ctx.lateCause (c : Ctx) : Nat × Nat :=
  let top := c.drawn.foldl (fun (a : Nat × Nat) e => if a.2 < e.2 then e else a) (0, 0)
  if top.1 = 3 ∧ c.floorSeen = true then (Br.THERMAL, 2) else (Br.HOLDS, top.1)

/-- The output cluster of a context, as (module, strand): the sender of its last token; before token 0 the rank that the image means,
which no field of it names (log entry 129). -/
def State.outputOf (s : State) (x : Nat) : Nat × Nat :=
  let j := s.reg (Od.CTX_JOB x)
  match (s.ctx x).out with
  | some o => o
  | none =>
    let p := s.place j (Config.outputRank j % Nat.max 1 (s.job j).ranks.length)
    (p.coord, (s.job j).strandOf p)

/-- HB sends the program the rebase after a breach, on VC1 to the output cluster (R223, R254). -/
def State.rebase (s : State) (x : Nat) : State :=
  let o := s.outputOf x
  s.controlTo (s.reg (Od.CTX_JOB x)) o.1 o.2 8 (BitVec.ofNat 32 x) [PWord.mk (BitVec.ofNat 32 (s.reg (Od.CTX_NEXT_DEADLINE x))) false]

/-- A token passed to PH now (R255, R223): the record, a breach of this tick where it is late, the next deadline and ballast. A record
without a token leaves CTX_NEXT_INDEX, the index of the next token. -/
def State.deliver (s : State) (x index token flags : Nat) : State :=
  let d := s.reg (Od.CTX_NEXT_DEADLINE x)
  let c := s.ctx x
  let isToken := token ≠ 0xFFFFFFFF
  let late := isToken ∧ d + s.grace < s.now
  let fin := flags % 2
  let prec := s.reg (Od.CTX_FLAGS x) % 2
  let s := s.streamRecord x index token (fin + 2 * prec + (if late then 4 else 0)) (if fin = 1 then flags / 2 % 8 else 0) 0
  let s := s.setReg (Od.CTX_FLAGS x) (s.reg (Od.CTX_FLAGS x) - prec)
  let s := if isToken then s.setReg (Od.CTX_NEXT_INDEX x) ((index + 1) % 0x100000000) else s
  let i := s.reg (Od.CTX_INTERVAL x)
  let s := if late then
      let b := c.lateCause
      let s := s.setReg (Od.CTX_NEXT_DEADLINE x) (s.now + i)
      (s.setReg (Od.CTX_BALLAST x) (unsigned32 c.stepBallast)).setCtx x
        { c with breachDue := some (b.1, b.2, index, d, short32 s.now) } |>.rebase x
    else if isToken then
      (s.setReg (Od.CTX_NEXT_DEADLINE x) (d + i)).setReg (Od.CTX_BALLAST x)
        (unsigned32 (signed32 (s.reg (Od.CTX_BALLAST x)) + c.stepBallast))
    else s
  let s := s.setCtx x { s.ctx x with floorSeen := s.jobAtFloor (s.reg (Od.CTX_JOB x)) }
  if fin = 1 then s.ctxEnding x (flags / 2 % 8) 0
  else if s.reg (Od.CTX_STATE x) = XS.PREFILL then s.setReg (Od.CTX_STATE x) XS.DECODE
  else s

/-- A request ends because poison reached it (R388). -/
def State.poisonCtx (s : State) (x : Nat) : State :=
  if 1 ≤ s.reg (Od.CTX_STATE x) ∧ s.reg (Od.CTX_STATE x) ≤ 3 then
    (s.bump Od.POISONED_REQUESTS 1).endCtx x Code.POISONED Br.POISONED 0
  else s

/-- Message `k` in flight is a STREAM message for HB. -/
def State.toHb (s : State) (k : Nat) : Option NetMsg :=
  match s.net[k]? with
  | some m => if m.type = 7 ∧ m.dst = 0x10000 + HB ∧ m.how.left = 0 then some m else none
  | none => none

/-- The message as HB unpacks it (R171). -/
def NetMsg.opened (m : NetMsg) : NetMsg := { m with payload := m.unpacked }

/-- The STREAM message of a serving job at HB (R255, R388). One of fewer than 16 bytes is discarded. -/
def State.onStream (s : State) (m : NetMsg) : State :=
  let p (i : Nat) : Bool := (m.payload.getD i PWord.zero).poison
  let x := m.word 0 % 0x10000
  let known := x < 4096 ∧ (s.reg (Od.CTX_STATE x) = XS.PREFILL ∨ s.reg (Od.CTX_STATE x) = XS.DECODE) ∧
    s.reg (Od.CTX_JOB x) = m.job
  if m.payload.length < 4 then s.bump Od.STREAM_DISCARDS 1
  else if p 0 then s.poisonJob m.job
  else if ¬known then s.bump Od.STREAM_DISCARDS 1
  else if p 1 || p 2 || p 3 then s.poisonCtx x
  else if m.word 1 ≠ s.reg (Od.CTX_NEXT_INDEX x) then s.bump Od.STREAM_DISCARDS 1
  else (s.setCtx x { s.ctx x with out := some (m.srcMod, m.src) }).deliver x (m.word 1) (m.word 2) (m.word 0 / 0x1000000)

/-- STREAM: message `k` of those in flight, of a serving job, reaches HB. -/
def execStream (k : Nat) (s : State) : Out :=
  match s.toHb k with
  | none => .next s
  | some m => if (s.job m.job).train then .next s else .next ((s.take k).onStream m.opened)

/-- STEP_REPORT: a TRAIN job's message `k` is forwarded to its tenant's sessions with the step number, and the PRECISION
flag of the step (R267, R97); a poisoned report ends the job without a breach (R388). -/
def execStepReport (k : Nat) (s : State) : Out :=
  match s.toHb k with
  | none => .next s
  | some m =>
    if !(s.job m.job).train then .next s
    else
      let s := s.take k
      let m := m.opened
      let n := 4 * m.payload.length
      if m.payload.any fun w => w.poison then .next ((s.bump Od.POISONED_JOBS 1).endJob m.job Code.POISONED Br.POISONED 0)
      else if n < 16 ∨ 256 < n then .next (s.bump Od.STREAM_DISCARDS 1)
      else
        let prec := (s.strand m.src).stepPrecision
        let s := s.modStrand m.src fun t => { t with stepPrecision := false }
        .next (s.event 5 (.tenant (s.reg (Od.JOB_TENANT m.job)))
          (beBytes 1 m.job ++ beBytes 1 (if prec then 1 else 0) ++ beBytes 2 0 ++ beBytes 8 (s.reg (Od.TRAIN_STEPS m.job)) ++
            m.payload.flatMap fun w => leBytes 4 w.val.toNat))

/-! ## Ends (Table SV-2) -/

/-- KV_RELEASED: the slice reports the KV of an ENDING context released: FREE, or RETAINED where RETAIN is set and the end
reason is 1 to 5; where the job has ended, the RETAINED context is freed at once. -/
def execKvReleased (x : Fin 4096) (s : State) : Out :=
  let x := x.val
  if s.reg (Od.CTX_STATE x) = XS.ENDING then
    let s := s.unrefCtx x
    let keep := (s.reg (Od.CTX_FLAGS x)).testBit 1 && decide (1 ≤ s.reg (Od.CTX_END x)) && decide (s.reg (Od.CTX_END x) ≤ 5)
    if keep then
      let s := (s.setReg (Od.CTX_STATE x) XS.RETAINED).setCtx x { s.ctx x with expiry := s.now + s.reg Od.RETAIN_TICKS }
      .next (if s.jobState (s.reg (Od.CTX_JOB x)) = JS.ENABLED then s else s.expireCtx x)
    else .next (s.freeCtx x)
  else .next s

/-- RETAIN_EXPIRY: RETAIN_TICKS passed (R244); a PREFIX_PUT in the tick in which they pass is on time (Table SV-11). -/
def execRetainExpiry (x : Fin 4096) (s : State) : Out :=
  if s.reg (Od.CTX_STATE x.val) = XS.RETAINED ∧ (s.ctx x.val).expiry < s.now then .next (s.expireCtx x.val) else .next s

/-- CTX_CANCEL (R257): a RETAINED context is freed; a request in ADMITTED ends at once; the cancel of one in PREFILL or
DECODE goes to the output cluster on VC1. -/
def wrCtxCancel (x : Nat) (s : State) : Wr :=
  let st := s.reg (Od.CTX_STATE x)
  if 4095 < x then noW s Code.RANGE_CONFLICT
  else if st = XS.RETAINED then okW (s.expireCtx x)
  else if st = XS.ADMITTED then
    okW ((s.setReg (Od.CTX_FLAGS x) (s.reg (Od.CTX_FLAGS x) ||| 4)).cancelled x)
  else if st = XS.PREFILL ∨ st = XS.DECODE then
    let s := s.setReg (Od.CTX_FLAGS x) (s.reg (Od.CTX_FLAGS x) ||| 4)
    let o := s.outputOf x
    okW (if o.1 = s.coord then s.control o.2 6 x else s.controlTo (s.reg (Od.CTX_JOB x)) o.1 o.2 6 (BitVec.ofNat 32 x) [])
  else badState s st

/-- The session may cancel the context: it acts for its tenant or for the operator; a FREE context belongs to none. -/
def State.mayCancel (s : State) (n x : Nat) : Bool :=
  s.reg (Od.CTX_STATE x) == XS.FREE || s.actsFor n (s.reg (Od.CTX_TENANT x))

def execCtxCancel (n : Nat) (x : BitVec 16) (s : State) : Out := s.write n (s.mayCancel n x.toNat) (wrCtxCancel x.toNat)

/-- TRAIN_RESUME (R266): a FROZEN paired TRAIN job of serving job `j` resumes. -/
def execTrainResume (j : Nat) (s : State) : Out :=
  let us := (s.pairStrands j).filter fun u => s.strandState u == SS.FROZEN
  match us, (s.job j).lowSince with
  | u :: _, some t =>
    if t + s.reg (Od.TRAIN_RESUME_TICKS j) ≤ s.now ∧ (s.liveCtxs j).length < s.reg (Od.TRAIN_RESUME_AT j) ∧
        !(s.net.any fun m => m.type == 6 && m.op == 2 && m.dst == u) then
      let p := s.reg (Od.TRAIN_PAIR j)
      let s := s.controlAll p 2 0
      .next (s.event 6 (.tenant (s.reg (Od.JOB_TENANT p))) (beBytes 1 p ++ beBytes 1 1 ++ beBytes 2 0))
    else .next s
  | _, _ => .next s

/-! ## Prefix handles (R258 to R262) -/

/-- The lowest handle entry in NONE. -/
def State.freePrefix (s : State) : Option Nat := (List.range 16384).find? fun e => s.reg (Od.PREFIX_STATE e) == 0

/-- A handle entry is taken into use: its next reuse count (handle values are nonzero and not used twice) and objects. -/
def State.takePrefix (s : State) (e st t j ver tokens fmt ad gen : Nat) (p : Prefix) : State :=
  let old := Store.get Prefix.new s.prefixes e
  let s := { s with prefixes := Store.set s.prefixes e { p with reuse := old.reuse + 1 } }
  let s := forAll [(1, st), (2, t), (3, j), (4, ver), (5, tokens), (6, 0), (7, fmt), (8, 0), (9, ad), (10, gen)] s
    fun s x => s.setReg ⟨0x5031, x.1, e⟩ x.2
  let s := s.setReg (Od.TENANT_SRAM_USED t) (s.reg (Od.TENANT_SRAM_USED t) + s.prefixBytes e)
  s.setReg Od.PREFIXES_IN_USE (s.reg Od.PREFIXES_IN_USE + 1)

/-- PREFIX PUT (R259, R340). -/
def State.onPut (s : State) (n : Nat) (m : InMsg) : State :=
  let x := be m.payload 0 2
  let k := be m.payload 4 4
  let t := s.actor n
  let c := s.ctx x
  if 4095 < x ∨ s.reg (Od.CTX_STATE x) = XS.FREE ∨ s.reg (Od.CTX_TENANT x) ≠ t then s.refuse n m Code.MISSING_OBJECT
  else if s.reg (Od.CTX_STATE x) ≠ XS.RETAINED then s.refuseMsg n m Code.WRONG_STATE (s.reg (Od.CTX_STATE x)) none
  else if k = 0 ∨ c.prefixLen + s.reg (Od.CTX_PROMPT_LEN x) + s.reg (Od.CTX_NEXT_INDEX x) < k then
    s.refuse n m Code.RANGE_CONFLICT
  else match s.freePrefix with
    | none => s.refuse n m Code.DOES_NOT_FIT
    | some e =>
      let own := (c.prefixLen % 16 + k - c.prefixLen + 15) / 16
      let runs := c.prefixRuns ++ (if own = 0 then [] else [(s.reg (Od.CTX_KV_BASE x), own)])
      let j := s.reg (Od.CTX_JOB x)
      let ver := s.reg (Od.CTX_VERSION x)
      let fmt := s.reg (Od.CTX_KV_FMT x)
      let ad := s.reg (Od.CTX_ADAPTER x)
      let gen := s.reg (Od.CTX_ADAPTER_GEN x)
      let s := (s.freeCtx x).takePrefix e 2 t j ver k fmt ad gen { Prefix.new with runs := runs }
      s.done n m (beBytes 4 (s.prefixHandle e))

/-- A version of a job is sealed. -/
def State.sealedVer (s : State) (j num : Nat) : Bool :=
  num != 0 && (List.range 16).any fun e => s.reg (Od.VER_JOB e) == j && s.reg (Od.VER_NUMBER e) == num &&
    s.reg (Od.VER_SEALED e) == 1

/-- PREFIX EXPORT (R261): the handle gains a reference, and its copy leaves in BULK slices. -/
def State.onExport (s : State) (n : Nat) (m : InMsg) : State :=
  let h := be m.payload 0 4
  let e := h % 16384
  if h = 0 ∨ s.prefixHandle e ≠ h ∨ s.reg (Od.PREFIX_STATE e) ≠ 2 ∨ !s.actsFor n (s.reg (Od.PREFIX_TENANT e)) then
    s.refuse n m Code.MISSING_OBJECT
  else if s.sealedVer (s.reg (Od.PREFIX_JOB e)) (s.reg (Od.PREFIX_VERSION e)) then s.refuse n m Code.LOCKED
  else
    let s := s.setReg (Od.PREFIX_REFS e) (s.reg (Od.PREFIX_REFS e) + 1)
    s.modSession n fun t => { t with exporting := t.exporting ++ [Export.mk e 0 m.seq m.ctx m.reqId] }

/-- PREFIX IMPORT (R261, R340): blocks for the announced bytes are reserved as R249 states. -/
def State.onImport (s : State) (n : Nat) (m : InMsg) : State :=
  let j := be m.payload 0 1
  let total := be m.payload 4 4
  let t := s.actor n
  let unit := 16 * s.reg (Od.KV_BYTES_PER_TOKEN j)
  if !s.mayUse t j then s.refuse n m Code.AUTH_FAIL
  else if (s.job j).train || s.jobState j != JS.ENABLED then s.refuseMsg n m Code.WRONG_STATE (s.jobState j) none
  else if s.sealedVer j (s.currentNum j) then s.refuse n m Code.LOCKED
  else if total ≤ 32 ∨ (total - 32) % unit ≠ 0 then s.refuse n m Code.RANGE_CONFLICT
  else match s.freePrefix with
    | none => s.refuse n m Code.DOES_NOT_FIT
    | some e =>
      let k := (total - 32) / unit
      match s.planEvictions t (total - 32) 0 with
      | none => s.refuse n m Code.TENANT_QUOTA
      | some ev => match firstFit (s.kvRuns j ev) k (s.reg (Od.KV_BLOCKS j)) with
        | none => s.refuse n m Code.KV_FULL
        | some b =>
          let s := s.evictAll ev
          let s := s.takePrefix e 1 t j (s.currentNum j) 0 (s.reg (Od.TENANT_KV8 t)) 0 0
            { Prefix.new with runs := [(b, k)], deadline := s.now + be m.payload 8 4, total := total, session := n }
          s.done n m (beBytes 4 (s.prefixHandle e))

/-! ## The copy of a handle (R261) -/

/-- The blocks of a handle in order. -/
def blocksOf (l : List (Nat × Nat)) : List Nat := l.flatMap fun r => (List.range r.2).map fun i => r.1 + i

/-- The rank, block and byte that byte `i` of a copy's body holds: each rank's blocks in rank order. -/
def copyPlace (j : Nat) (blocks : List Nat) : Nat → Nat → Nat → Option (Nat × Nat × Nat)
  | 0, _, _ => none
  | f + 1, rank, i =>
    let sz := Config.kvShare j rank
    if i < sz * blocks.length then some (rank, blocks.getD (i / sz) 0, i % sz)
    else copyPlace j blocks f (rank + 1) (i - sz * blocks.length)

/-- The SRAM byte of a place, where the rank is on this module and has a KV_POOL. -/
def State.copyAddr (s : State) (j : Nat) (p : Nat × Nat × Nat) : Option Nat :=
  let q := s.place j p.1
  match (s.job j).pools.find? fun x => x.1 == 4 && x.2.1 == p.1 with
  | some x =>
    let o := x.2.2.1 + Config.kvPlace j p.1 p.2.1 + p.2.2
    if q.coord = s.coord ∧ Config.kvPlace j p.1 p.2.1 + p.2.2 < x.2.2.2 then some (q.cl * 0x400000 + o % 0x400000) else none
  | none => none

/-- The 32-byte header of a copy (R261). -/
def State.copyHead (s : State) (e : Nat) : List Byte :=
  let j := s.reg (Od.PREFIX_JOB e)
  [0x50, 0x46, 0x58, 0x31] ++ leBytes 4 (s.reg (Od.PREFIX_VERSION e)) ++ leBytes 4 (s.reg (Od.PREFIX_ADAPTER e)) ++
    leBytes 4 (s.reg (Od.PREFIX_ADAPTER_GEN e)) ++ leBytes 1 (s.reg (Od.PREFIX_KV_FMT e)) ++ leBytes 3 0 ++
    leBytes 4 (s.reg (Od.PREFIX_TOKENS e)) ++ leBytes 4 (s.reg (Od.KV_BYTES_PER_TOKEN j)) ++
    leBytes 4 (s.job j).ranks.length

/-- The bytes of a handle's copy. -/
def State.copyLen (s : State) (e : Nat) : Nat := 32 + s.prefixBytes e

/-- Byte `i` of the copy; a byte that another module holds is a free value (log entry 41). -/
def State.copyByte (s : State) (e i : Nat) : Byte :=
  if i < 32 then (s.copyHead e).getD i 0
  else
    let j := s.reg (Od.PREFIX_JOB e)
    match copyPlace j (blocksOf (Store.get Prefix.new s.prefixes e).runs) (s.job j).ranks.length 0 (i - 32) with
    | some p => match s.copyAddr j p with
      | some a => Mem.read s.sram a
      | none => (Config.freeBytes (s.freeN + i) 1).getD 0 0
    | none => (Config.freeBytes (s.freeN + i) 1).getD 0 0

/-- The next KVPUT of an export; the last one is followed by DONE, and the reference ends (R340, Table SV-9). -/
def State.exportNext (s : State) (n : Nat) (x : Export) : State :=
  let len := s.copyLen x.entry
  let k := Nat.min 8176 (len - x.offset)
  let body := (List.range k).map fun i => s.copyByte x.entry (x.offset + i)
  let last := len ≤ x.offset + k
  let h := s.prefixHandle x.entry
  let s := s.spend len
  let s := s.send n MC.KVPUT 0 ((if x.offset = 0 then 1 else 0) + (if last then 2 else 0)) 0 x.ctx x.reqId
    (beBytes 4 h ++ beBytes 4 x.offset ++ beBytes 4 len ++ beBytes 1 (if last then 2 else 0) ++ beBytes 3 0 ++ body)
  if last then
    let s := s.modSession n fun t => { t with exporting := t.exporting.drop 1 }
    (s.send n MC.ACK 2 3 0 x.ctx x.reqId (respPrefix x.seq none 0xFF)).unrefPrefix h
  else s.modSession n fun t => { t with exporting := { x with offset := x.offset + k } :: t.exporting.drop 1 }

/-- Ranges (offset, length) cover `total` bytes: the reach from 0 is taken as often as there are ranges. -/
def reachOf (l : List (Nat × Nat)) : Nat → Nat → Nat
  | 0, at' => at'
  | f + 1, at' => reachOf l f (l.foldl (fun a r => if r.1 ≤ at' ∧ a < r.1 + r.2 then r.1 + r.2 else a) at')
def covers (l : List (Nat × Nat)) (total : Nat) : Bool := decide (total ≤ reachOf l l.length 0)

/-- Bytes of an import's body land in the reserved blocks (R261). -/
def State.landCopy (s : State) (e off : Nat) (b : List Byte) : State :=
  let j := s.reg (Od.PREFIX_JOB e)
  let blocks := blocksOf (Store.get Prefix.new s.prefixes e).runs
  let n := (s.job j).ranks.length
  forAll ((List.range b.length).zip b) s fun s x =>
    if off + x.1 < 32 then s
    else match copyPlace j blocks n 0 (off + x.1 - 32) with
      | some p => match s.copyAddr j p with
        | some a => { s with
            sram := Mem.write s.sram a x.2
            sramPoison := NSet.remove s.sramPoison (a / 4)
            sramParity := NSet.remove s.sramParity (a / 4) }
        | none => s
      | none => s

/-- The header bytes landed so far fit what the import needs (R261): version, KV_BYTES_PER_TOKEN, NCLUSTERS. -/
def State.headOk (s : State) (e : Nat) (h : List Byte) : Bool :=
  let j := s.reg (Od.PREFIX_JOB e)
  slice h 0 4 == [0x50, 0x46, 0x58, 0x31] && leNat (slice h 4 4) == s.reg (Od.PREFIX_VERSION e) &&
    leNat (slice h 24 4) == s.reg (Od.KV_BYTES_PER_TOKEN j) && leNat (slice h 28 4) == (s.job j).ranks.length

/-- KVPUT from the host (R340). -/
def State.onKvput (s : State) (n : Nat) (m : InMsg) : State :=
  let h := be m.payload 0 4
  let off := be m.payload 4 4
  let b := m.payload.drop 16
  let e := h % 16384
  let p := Store.get Prefix.new s.prefixes e
  if h = 0 ∨ s.prefixHandle e ≠ h ∨ s.reg (Od.PREFIX_STATE e) ≠ 1 ∨ !s.actsFor n (s.reg (Od.PREFIX_TENANT e)) then
    s.refuseMsg n m Code.WRONG_STATE 0 none
  else if be m.payload 8 4 ≠ p.total ∨ p.total < off + b.length then s.refuse n m Code.RANGE_CONFLICT
  else
    let head := ((List.range b.length).zip b).foldl (fun (t : Store Byte) x =>
      if off + x.1 < 32 then Store.set t (off + x.1) x.2 else t) p.head
    let hb := head.map Prod.snd
    if head.length = 32 ∧ !s.headOk e hb then (s.dropPrefix e).refuse n m Code.VERSION_MISMATCH
    else
      let s := s.landCopy e off b
      let landed := p.landed ++ [(off, b.length)]
      let s := { s with prefixes := Store.set s.prefixes e { p with head := head, landed := landed } }
      if covers landed p.total then
        let s := ((s.setReg (Od.PREFIX_STATE e) 2).setReg (Od.PREFIX_TOKENS e) (leNat (slice hb 20 4))).setReg
          (Od.PREFIX_KV_FMT e) (leNat (slice hb 16 1))
        let s := (s.setReg (Od.PREFIX_ADAPTER e) (leNat (slice hb 8 4))).setReg (Od.PREFIX_ADAPTER_GEN e) (leNat (slice hb 12 4))
        s.done n m []
      else s

/-- IMPORT_DEADLINE (Table SV-9). -/
def execImportDeadline (e : Fin 16384) (s : State) : Out :=
  if s.reg (Od.PREFIX_STATE e.val) = 1 ∧ (Store.get Prefix.new s.prefixes e.val).deadline < s.now then
    .next (s.failImport e.val 1)
  else .next s

/-- PREFIX_DELETE of handle `h` (R262, Table SV-9). -/
def wrPrefixDelete (h : Nat) (s : State) : Wr :=
  let e := h % 16384
  let st := s.reg (Od.PREFIX_STATE e)
  if h = 0 ∨ s.prefixHandle e ≠ h ∨ st = 0 ∨ st = 3 then noW s Code.MISSING_OBJECT
  else if st = 1 then okW (s.failImport e 2)
  else if s.reg (Od.PREFIX_REFS e) = 0 then okW (s.dropPrefix e)
  else okW (s.setReg (Od.PREFIX_STATE e) 3)

/-- Another tenant's handle is answered as absent (R432). -/
def execPrefixDelete (n : Nat) (h : Word) (s : State) : Out :=
  let mine := s.actsFor n (s.reg (Od.PREFIX_TENANT (h.toNat % 16384)))
  s.write n true (if mine then wrPrefixDelete h.toNat else fun s => noW s Code.MISSING_OBJECT)

end Sys2Proof.Machine
end

