-- ==== Sys2Proof/Machine/Coding.lean ====
section
/-!
DEFINITION. Weight coding (R104 to R106, R275, R276): the chunk decoder, on-arrival quantisation, and the levels and
scales that a block programs (Table AR-2).
-/
namespace Sys2Proof.Machine

/-! ## Chunks (R104, R105) -/

/-- The bits of bytes, least significant first (RFC 1951 section 3.1.1). -/
def bitsOf (l : List Byte) : List Bool := l.flatMap fun b => (List.range 8).map fun i => b.toNat.testBit i

/-- The code lengths of the 256 symbols. -/
def codeLengths (t : List Byte) : List Nat := t.flatMap fun b => [b.toNat % 16, b.toNat / 16]

/-- The symbols in the order of their codes: by length, then by value. -/
def codeOrder (ls : List Nat) : List Nat :=
  (List.range 15).flatMap fun l => (List.range 256).filter fun s => ls.getD s 0 == l + 1

/-- The table is complete, or has one symbol of length 1 (R105). -/
def lengthsOk (ls : List Nat) : Bool :=
  let used := ls.filter fun l => l != 0
  if used.length = 1 then used == [1] else (used.foldl (fun a l => a + 2 ^ (15 - l)) 0) == 2 ^ 15

/-- One symbol of a canonical code: `first` and `index` the first code and symbol place of length `len`. -/
def symbolOf (ls order : List Nat) : Nat → Nat → Nat → Nat → Nat → List Bool → Option (Nat × List Bool)
  | 0, _, _, _, _, _ => none
  | _ + 1, _, _, _, _, [] => none
  | f + 1, len, code, first, index, b :: bs =>
    let code := code + (if b then 1 else 0)
    let n := (ls.filter fun l => l == len).length
    if code < first + n then some (order.getD (index + (code - first)) 0, bs)
    else symbolOf ls order f (len + 1) (2 * code) (2 * (first + n)) (index + n) bs

/-- `n` symbols, and the bits left. -/
def symbolsOf (ls order : List Nat) : Nat → List Bool → Option (List Byte × List Bool)
  | 0, bs => some ([], bs)
  | n + 1, bs => match symbolOf ls order 15 1 0 0 0 bs with
    | none => none
    | some (x, bs) => (symbolsOf ls order n bs).map fun r => (BitVec.ofNat 8 x :: r.1, r.2)

/-- The bytes that a coded chunk decodes to; none where it breaks a rule of R105 (BAD_CODING). -/
def decodeChunk (b : List Byte) : Option (List Byte) :=
  let mode := leNat (slice b 0 1)
  let ulen := leNat (slice b 2 2) + 1
  let clen := leNat (slice b 4 4)
  if b.length < 8 then none
  else if mode = 0 then (if clen = ulen ∧ b.length = 8 + clen then some (b.drop 8) else none)
  else if mode = 1 then
    let ls := codeLengths (slice b 8 128)
    if b.length = 136 + clen ∧ lengthsOk ls then
      match symbolsOf ls (codeOrder ls) ulen (bitsOf (b.drop 136)) with
      | some (out, rest) => if rest.length < 8 ∧ rest.all (fun x => !x) then some out else none
      | none => none
    else none
  else none

/-! ## Blocks (R275, R276, R282) -/

/-- Bytes of one INT row: two weights a byte for W1 to W4, one for W5 to W8. -/
def Block.rowBytes (b : Block) : Nat := if b.wfmt ≤ 4 then (b.ncol + 1) / 2 else b.ncol

/-- The length of the string that a block decodes to. -/
def Block.textLen (b : Block) : Nat :=
  if b.src = 0 then 2 * b.ncol + b.nrow * b.rowBytes else 2 * b.nrow * b.ncol

/-- The INT weight of row `r`, column `c`. -/
def Block.intWeight (b : Block) (t : List Byte) (r c : Nat) : Int :=
  let o := 2 * b.ncol + r * b.rowBytes
  if b.wfmt ≤ 4 then
    let v := (t.getD (o + c / 2) 0).toNat / 16 ^ (c % 2) % 16
    if v < 8 then v else (v : Int) - 16
  else (t.getD (o + c) 0).toInt

/-- A weight is in its format's range; 0 is a weight of an INT W1 block (R275, Table AR-2). -/
def weightFits (w : Nat) (v : Int) : Bool :=
  if w = 1 then decide (-1 ≤ v) && decide (v ≤ 1) else decide (-(2 ^ (w - 1) : Int) ≤ v) && decide (v < 2 ^ (w - 1))

/-- The string of a block is right (R275). -/
def Block.textOk (b : Block) (t : List Byte) : Bool :=
  t.length == b.textLen && (b.src != 0 || (List.range b.nrow).all fun r => (List.range b.ncol).all fun c =>
    weightFits b.wfmt (b.intWeight t r c))

/-- The FP value of row `r`, column `c`. -/
def Block.fpWeight (b : Block) (t : List Byte) (r c : Nat) : FV :=
  let v := leNat (slice t (2 * (r * b.ncol + c)) 2)
  if b.src = 1 then FFmt.fp16.decode v else FFmt.bf16.decode v

/-- The column's values. -/
def Block.column (b : Block) (t : List Byte) (c : Nat) : List FV := (List.range b.nrow).map fun r => b.fpWeight t r c

/-- a / d rounded to nearest FP16, ties to even; `l`: the exponent of the unit above 2^-24. -/
def fp16Near (a d : Nat) : Nat → Nat → FV
  | 0, _ => .inf false
  | k + 1, l =>
    let q := rneDiv (a * 2 ^ 24) (d * 2 ^ l)
    if q ≤ 2048 then .fin false q ((l : Int) - 24) else fp16Near a d k (l + 1)

/-- The exact scale of R106 rounded: max|w| ÷ qmax upwards, or the mean of |w| for W1; NaN where a value is not finite. -/
def exactScale (w : Nat) (xs : List FV) : FV :=
  if xs.any fun x => !x.isFinite then .nan
  else if xs.all FV.isZero then .fin false 0 0
  else if w = 1 then
    match xs.foldl (fun a x => a.add x.abs) (FV.fin false 0 0) with
    | .fin _ m e => let f := fracOf m e
                    fp16Near f.1 (f.2 * xs.length) 31 0
    | v => v
  else fp16UpDiv (xs.foldl (fun a x => a.max x.abs) (FV.fin false 0 0)) (qmax w)

/-- The column scale as FP16 holds it: above its range, infinity. -/
def columnScale (w : Nat) (xs : List FV) : FV := FFmt.fp16.decode (FFmt.fp16.encode false (exactScale w xs))

/-- w ÷ s rounded to nearest, ties to even (R106). -/
def quotient (x s : FV) : Int :=
  match x, s with
  | .fin n m e, .fin _ m' e' =>
    if m' = 0 then 0
    else
      let l := min e e'
      let q : Int := (rneDiv (m * 2 ^ (e - l).toNat) (m' * 2 ^ (e' - l).toNat) : Nat)
      if n then -q else q
  | _, _ => 0

/-- The weight that a block holds at row `r`, column `c`, with the column's scale. A column with a value that is not finite
has no stated result: its weights are free values within the format (log entry 42). -/
def Block.weight (b : Block) (free : Nat) (t : List Byte) (scale : FV) (r c : Nat) : Int :=
  if b.src = 0 then b.intWeight t r c
  else match scale with
    | .nan => ((Config.freeNat (free + 1024 * r + c) % (2 * qmax b.wfmt + 1) : Nat) : Int) - qmax b.wfmt
    | _ =>
      let x := b.fpWeight t r c
      if b.wfmt = 1 then (if (b.column t c).all FV.isZero then 0 else if x.isNeg && !x.isZero then -1 else 1)
      else quotient x scale

/-- The scale of column `c` of a block. -/
def Block.scale (b : Block) (t : List Byte) (c : Nat) : FV :=
  if b.src = 0 then FFmt.fp16.decode (leNat (slice t (2 * c) 2)) else columnScale b.wfmt (b.column t c)

/-- The FP16 entry of the scale store. -/
def Block.scaleBits (b : Block) (free : Nat) (t : List Byte) (c : Nat) : BitVec 16 :=
  if b.ncol ≤ c then 0
  else if b.src = 0 then BitVec.ofNat 16 (leNat (slice t (2 * c) 2))
  else match b.scale t c with
    | .nan => BitVec.ofNat 16 (Config.freeNat (free + c))
    | v => BitVec.ofNat 16 (FFmt.fp16.encode false v)

/-- Level-units per weight unit of W1 to W4 (Table AR-2). -/
def levelUnits (w : Nat) : Int := if w = 1 then 7 else if w = 2 then 4 else if w = 3 then 2 else 1

/-- The levels of one weight. -/
def levelsOf (w : Nat) (v : Int) : List (BitVec 4) :=
  if w ≤ 4 then [BitVec.ofInt 4 (8 + levelUnits w * v)] else [BitVec.ofInt 4 (v / 16 + 8), BitVec.ofInt 4 v]

/-- The 1,024 levels of row `r`: weight 0 outside NROW × NCOL (R276). -/
def Block.levels (b : Block) (free : Nat) (t : List Byte) (scales : List FV) (r : Nat) : List (BitVec 4) :=
  (List.range (if b.wfmt ≤ 4 then 1024 else 512)).flatMap fun c =>
    levelsOf b.wfmt (if r < b.nrow ∧ c < b.ncol then b.weight free t (scales.getD c .nan) r c else 0)

/-- The decoded string of a block, once every chunk is decoded. -/
def Block.text (b : Block) : Option (List Byte) :=
  (List.range b.nchunk).foldl (fun (a : Option (List Byte)) i => match a, (Store.get Chunk.new b.chunks i).text with
    | some x, some y => some (x ++ y)
    | _, _ => none) (some [])

/-- The fragments of a chunk in offset order, joined, where they are complete: they cover the chunk to its last one. -/
def Chunk.joined (c : Chunk) : Option (List Byte) :=
  match c.frags.find? fun f => f.last with
  | none => none
  | some l =>
    let n := l.off + l.bytes.length
    if covers (c.frags.map fun f => (f.off, f.bytes.length)) n then
      some ((List.range n).map fun i => match c.frags.find? fun f => decide (f.off ≤ i) && decide (i < f.off + f.bytes.length) with
        | some f => f.bytes.getD (i - f.off) 0
        | none => 0)
    else none

end Sys2Proof.Machine
end

