-- ==== Sys2Proof/Machine/Versions.lean ====
section
/-!
DEFINITION. Model versions (R271 to R278, R284, R288, R290 to R296): creation, manifest, commit, switch, release and
deletion.
-/
namespace Sys2Proof.Machine

/-- States of Table WT-1. -/
abbrev VS.NONE : Nat := 0
abbrev VS.DECLARED : Nat := 1
abbrev VS.WAITING : Nat := 2
abbrev VS.LOADING : Nat := 3
abbrev VS.READY : Nat := 4
abbrev VS.CURRENT : Nat := 5
abbrev VS.RELEASING : Nat := 6
abbrev VS.FAILED : Nat := 7

def State.verState (s : State) (e : Nat) : Nat := s.reg (Od.VER_STATE e)
def State.version (s : State) (e : Nat) : Version := Store.get Version.new s.versions e
def State.modVersion (s : State) (e : Nat) (f : Version → Version) : State :=
  { s with versions := Store.set s.versions e (f (s.version e)) }

/-- The version entry with a number. -/
def State.verOf (s : State) (num : Nat) : Option Nat :=
  if num = 0 then none else (List.range 16).find? fun e => s.reg (Od.VER_NUMBER e) == num && s.verState e != VS.NONE

/-- The job has a fixed version (R295). -/
def State.fixedJob (s : State) (j : Nat) : Bool :=
  (List.range 16).any fun e => s.reg (Od.VER_JOB e) == j && s.verState e != VS.NONE && s.reg (Od.VER_FIXED e) == 1

/-- A refusal that VER_REASON records (Table WT-6). -/
def verNo (e code : Nat) (s : State) : Wr := (s.setReg (Od.VER_REASON e) code, ⟨code, 0xFF, []⟩)

/-- The places of a version's slice in cluster order (R188). -/
def State.verPlaces (s : State) (e : Nat) : List Place :=
  match s.sliceOf (s.reg (Od.VER_SLICE e)) with
  | some k => s.slicePlaces k
  | none => []

/-- The other modules of a version's slice. -/
def State.verModules (s : State) (e : Nat) : List Nat :=
  (((s.verPlaces e).map fun p => p.coord).eraseDups).filter fun m => m != s.coord

/-- An event to the version's tenant and to management (Table HP-7). -/
def State.verEvent (s : State) (ev e code : Nat) : State :=
  let b := beBytes 4 (s.reg (Od.VER_NUMBER e)) ++ beBytes 2 code ++ beBytes 2 0
  (s.event ev (.tenant (s.reg (Od.VER_TENANT e))) b).event ev .mgmt b

/-- The other modules of the slice learn the state that a version takes (R273, R277, R296). -/
def State.verNotice (s : State) (e st : Nat) : State :=
  forAll (s.verModules e) s fun s m => s.notice m 20 [s.reg (Od.VER_NUMBER e), st]

/-! ## Creation (R271, R277, R286) -/

/-- The number that a new version of job `j` takes (R271). -/
def State.newNumber (s : State) (j : Nat) : Nat :=
  let serial := (List.range 16).foldl (fun a e =>
    if s.reg (Od.VER_JOB e) = j ∧ s.verState e ≠ VS.NONE then Nat.max a (s.reg (Od.VER_NUMBER e) / 2 % 0x800000) else a) 0
  let bank := match s.currentVer j with
    | some e => 1 - s.reg (Od.VER_NUMBER e) % 2
    | none => 0
  j * 0x1000000 + (serial + 1) % 0x800000 * 2 + bank

/-- VER_CREATE on entry `e` by session `n`. -/
def wrVerCreate (n e : Nat) (v : Bool) (s : State) : Wr :=
  let j := s.reg (Od.VER_JOB e)
  let t := s.reg (Od.VER_TENANT e)
  if !v then okW s
  else if s.verState e ≠ VS.NONE then badState s (s.verState e)
  else if s.fixedJob j then verNo e Code.LOCKED s
  else if 2 ≤ ((List.range 16).filter fun k => s.reg (Od.VER_JOB k) == j && s.verState k != VS.NONE).length then
    verNo e Code.LOCKED s
  else if s.reg (Od.VER_LOADER e) ≠ s.coord ∨ !(s.verPlaces e).any (fun p => p.coord == s.coord) then
    verNo e Code.TOPOLOGY_MISMATCH s
  else if s.reg (Od.TENANT_STATE t) ≠ 1 ∨ !s.actsFor n t then verNo e Code.AUTH_FAIL s
  else if s.reg (Od.VER_SEALED e) = 1 ∧ s.reg (Od.TENANT_PRIVILEGED t) = 0 then verNo e Code.AUTH_FAIL s
  else
    let num := s.newNumber j
    let s := ((s.setReg (Od.VER_STATE e) VS.DECLARED).setReg (Od.VER_NUMBER e) num).setReg (Od.VER_REASON e) 0
    let s := forAll [13, 14, 15, 18] s fun s sub => s.setReg ⟨0x6011, sub, e⟩ 0
    let s := { s with versions := Store.set s.versions e { Version.new with session := n } }
    okW (forAll (s.verModules e) s fun s m => s.notice m 8
      [num, j, t, s.reg (Od.VER_SLICE e), s.coord, s.reg (Od.VER_SEALED e), s.reg (Od.VER_KEY e)])

/-- The session may write the version entry: it acts for its tenant or the operator; an entry in NONE belongs to none. -/
def State.verRight (s : State) (n e : Nat) : Bool :=
  s.verState e == VS.NONE || s.actsFor n (s.reg (Od.VER_TENANT e))

/-- VER_CREATE judges the tenant itself, after the loader and slice (R277). -/
def execVerCreate (n : Nat) (e : Fin 16) (v : Bool) (s : State) : Out :=
  s.write n (s.verRight n e.val) (wrVerCreate n e.val v)

/-! ## Manifest (R274, R277) -/

/-- MANIFEST message of session `n`: COUNT records from index FIRST; LAST gives their number. -/
def State.onManifest (s : State) (n : Nat) (m : InMsg) : State :=
  let first := be m.payload 4 4
  let count := be m.payload 8 2
  let last := be m.payload 10 1 % 2 = 1
  match s.verOf (be m.payload 0 4) with
  | none => s.refuse n m Code.MISSING_OBJECT
  | some e =>
    if !s.actsFor n (s.reg (Od.VER_TENANT e)) then s.refuse n m Code.MISSING_OBJECT
    else if s.verState e ≠ VS.DECLARED then s.refuseMsg n m Code.WRONG_STATE (s.verState e) none
    else if count = 0 ∨ 511 < count ∨ m.payload.length ≠ 16 + 16 * count then s.refuse n m Code.RANGE_CONFLICT
    else
      let s := s.modVersion e fun v =>
        let put (t : Store (List Byte)) (i : Nat) : Store (List Byte) := Store.set t (first + i) (slice m.payload (16 + 16 * i) 16)
        { v with
          manifest := (List.range count).foldl put v.manifest
          total := if last then some (first + count) else v.total }
      let s := forAll (s.verModules e) s fun s d => s.notice d 14 (m.payload.map fun b => b.toNat)
      if last then s.done n m [] else s

/-! ## Commit (R278, R288) -/

/-- A block record (Table WT-2): index in the cluster order and the block. -/
def Block.parse (r : List Byte) : Block where
  num := leNat (slice r 0 4)
  rank := leNat (slice r 4 4)
  cl := 0
  wfmt := leNat (slice r 8 1)
  src := leNat (slice r 9 1)
  nrow := leNat (slice r 10 2)
  ncol := leNat (slice r 12 2)
  nchunk := leNat (slice r 14 1)
  array := none
  done := false
  chunks := []

/-- The ranges of Table WT-2. -/
def Block.fieldsOk (b : Block) : Bool :=
  decide (1 ≤ b.wfmt) && decide (b.wfmt ≤ 8) && decide (b.src ≤ 2) && decide (1 ≤ b.nrow) && decide (b.nrow ≤ 1024) &&
    decide (1 ≤ b.ncol) && decide (b.ncol ≤ (if b.wfmt ≤ 4 then 1024 else 512)) && decide (1 ≤ b.nchunk) && decide (b.nchunk ≤ 64)

/-- No cluster holds one BLOCK twice. -/
def noTwice : List Block → Bool
  | [] => true
  | b :: t => !(t.any fun x => x.num == b.num && x.rank == b.rank) && noTwice t

/-- A SLOTS record of the bound job names a block of cluster `c` with another WFMT (R278, step 3). -/
def State.slotFmtOk (s : State) (j c : Nat) (b : Block) : Bool :=
  if s.jobState j = JS.NONE ∨ s.strandJob (2 * c) ≠ j then true
  else (s.strand (2 * c)).slots.all fun (k : Nat × SlotUse) =>
    k.2.servingSlot || k.2.block != b.num || k.2.wfmt == b.wfmt

/-- The load pages that blocks on a cluster take (R281): 513 where one is FP16 or BF16, else 2, from the top of the slice
(log entry 43). -/
def loadPages (bs : List Block) (c : Nat) : List Nat :=
  let mine := bs.filter fun b => b.cl == c
  let n := if mine.any fun b => b.src != 0 then 513 else 2
  if mine = [] then [] else (List.range n).map fun i => 639 - i

/-- The blocks of this module of a list of records, in manifest order. -/
def State.localBlocks (s : State) (e : Nat) (bs : List Block) : List Block :=
  bs.filterMap fun b => match (s.verPlaces e)[b.rank]? with
    | some p => if p.coord = s.coord then some { b with cl := p.cl } else none
    | none => none

/-- The clusters of this module that blocks go to. -/
def blockClusters (bs : List Block) : List Nat := (bs.map fun b => b.cl).eraseDups

/-- The FREE arrays of a cluster; with the arrays of version `old` counted as free. -/
def State.freeWith (s : State) (c : Nat) (old : Option Nat) : Nat :=
  (s.freeArrays c).length + (match old with
    | some v => ((s.version v).blocks.filter fun b => b.cl == c && b.array.isSome).length
    | none => 0)

/-- Every cluster has arrays for the blocks placed on it. -/
def State.roomFor (s : State) (bs : List Block) (old : Option Nat) : Bool :=
  (blockClusters bs).all fun c => decide ((bs.filter fun b => b.cl == c).length ≤ s.freeWith c old)

/-- Each block takes the next FREE array of its cluster, in manifest order. -/
def takeArrays (free : Nat → List Nat) : Store Nat → List Block → List Block
  | _, [] => []
  | used, b :: t =>
    let k := Store.get 0 used b.cl
    { b with array := ((free b.cl)[k]?).map fun a => 34 * b.cl + a } :: takeArrays free (Store.set used b.cl (k + 1)) t

/-- LOADING: arrays and load pages reserved (Table WT-1). -/
def State.startLoad (s : State) (e : Nat) (bs : List Block) : State :=
  let bs := takeArrays s.freeArrays [] bs
  let t := s.reg (Od.VER_TENANT e)
  let s := forAll (blockClusters bs) s fun s c => forAll (loadPages bs c) s fun s g =>
    { s with pages := Store.set s.pages (1024 * c + g) ⟨true, 1, t⟩ }
  let s := s.modVersion e fun v => { v with blocks := bs }
  ((s.setReg (Od.VER_STATE e) VS.LOADING).setReg (Od.VER_BLOCKS e) bs.length).setReg (Od.VER_BLOCKS_DONE e) 0

/-- A block as a peer copy carries it (R289): STORED INT chunks of 64 KiB. -/
def Block.stored (b : Block) : Block := { b with src := 0, nchunk := ({ b with src := 0 }.textLen + 65535) / 65536 }

/-- Checks 3 to 5 of R278 on the records, and what follows. -/
def State.commitBlocks (s : State) (n e : Nat) (records : List (List Byte)) : Wr :=
  let j := s.reg (Od.VER_JOB e)
  let peer := s.reg (Od.VER_SOURCE e) = 1
  let all := records.map fun r => if peer then (Block.parse r).stored else Block.parse r
  let bs := s.localBlocks e all
  let cur := s.currentVer j
  if !(all.all fun b => b.fieldsOk && decide (b.rank < (s.verPlaces e).length)) || !noTwice all ||
      !(bs.all fun b => s.slotFmtOk j b.cl b) then verNo e Code.RANGE_CONFLICT s
  else if (blockClusters bs).any fun c => (loadPages bs c).any fun g => (s.page c g).valid then verNo e Code.DOES_NOT_FIT s
  else
    let keep (s : State) : State := (s.modVersion e fun v => { v with session := n }).setReg (Od.VER_REASON e) 0
    if s.roomFor bs none then okW (((keep s).startLoad e bs).verNotice e VS.LOADING)
    else if cur = none then verNo e Code.DOES_NOT_FIT s
    else if s.reg (Od.VER_DRAIN e) = 1 ∧ s.roomFor bs cur = true then
      let s := (((keep s).modVersion e fun v => { v with blocks := bs }).setReg (Od.VER_STATE e) VS.WAITING).setReg
        (Od.ADMISSION_PAUSED j) 1
      okW (s.verNotice e VS.WAITING)
    else if s.reg (Od.VER_DRAIN e) = 1 then verNo e Code.DOES_NOT_FIT s
    else verNo e Code.NO_SHADOW_CAPACITY s

/-- The records of a manifest whose LAST has come, where every record is present. -/
def Version.records (v : Version) : Option (List (List Byte)) :=
  match v.total with
  | none => none
  | some n =>
    let l := (List.range n).filterMap fun i => Store.get? v.manifest i
    if l.length = n ∧ 0 < n then some l else none

/-- What this module knows of the version that VER_PEER names, where the source is this module itself. -/
def State.ownPeer (s : State) (num : Nat) : Option PeerInfo :=
  match s.verOf num with
  | some v => match (s.version v).records with
    | some l => some ⟨s.verState v, s.reg (Od.VER_TENANT v), s.reg (Od.VER_SEALED v) == 1, (s.verPlaces v).length, l⟩
    | none => none
  | none => none

/-- The model key of a version is installed (R286, R442). -/
def State.keyEntry (s : State) (t h : Nat) : Option Nat :=
  (List.range 256).find? fun k => s.reg (Od.KEY_STATE k) == 1 && s.reg (Od.KEY_TENANT k) == t && s.reg (Od.KEY_HANDLE k) == h

/-- VER_COMMIT of entry `e` (R278); `peer`: the answer of the source module of a peer copy, none where it gives none. -/
def wrVerCommit (n e : Nat) (v : Bool) (peer : Option PeerInfo) (s : State) : Wr :=
  let src := s.reg (Od.VER_PEER e)
  if !v then okW s
  else if s.verState e ≠ VS.DECLARED then badState s (s.verState e)
  else if s.reg (Od.VER_SEALED e) = 1 ∧ s.keyEntry (s.reg (Od.VER_TENANT e)) (s.reg (Od.VER_KEY e)) = none then
    verNo e Code.MISSING_OBJECT s
  else if s.reg (Od.VER_SOURCE e) = 1 then
    match (if src % 0x1000000 = s.coord then s.ownPeer (src / 0x100000000) else peer) with
    | none => verNo e Code.MISSING_OBJECT s
    | some p =>
      if p.state ≠ VS.READY ∧ p.state ≠ VS.CURRENT then verNo e Code.MISSING_OBJECT s
      else if p.tenant ≠ s.reg (Od.VER_TENANT e) then verNo e Code.AUTH_FAIL s
      else if p.sealedVer then verNo e Code.LOCKED s
      else if p.ncl ≠ (s.verPlaces e).length then verNo e Code.TOPOLOGY_MISMATCH s
      else
        let s := if src % 0x1000000 = s.coord then match s.verOf (src / 0x100000000) with
          | some v => s.modVersion v fun x => { x with readers := NSet.insert x.readers s.coord }
          | none => s
          else s
        let s := s.modVersion e fun v => { v with
          manifest := (List.range p.records.length).zip p.records, total := some p.records.length }
        s.commitBlocks n e p.records
  else match (s.version e).records with
    | none => verNo e Code.MISSING_OBJECT s
    | some l => s.commitBlocks n e l

def execVerCommit (n : Nat) (e : Fin 16) (v : Bool) (peer : Option PeerInfo) (s : State) : Out :=
  s.write n (s.verRight n e.val) (wrVerCommit n e.val v peer)

/-! ## Ends of a version (R273, R284, R293) -/

/-- The load pages of a version are cleared and untagged (R281, R126). -/
def State.clearLoad (s : State) (e : Nat) : State :=
  let bs := (s.version e).blocks
  forAll (blockClusters bs) s fun s c =>
    let ps := loadPages bs c
    let s := s.clearSram c fun g => ps.contains g
    { s with pages := s.pages.filter fun (p : Nat × PageTag) => !(p.1 / 1024 == c && ps.contains (p.1 % 1024)) }

/-- A version becomes FAILED (Table WT-1): reason, LOAD_FAILED event, load pages cleared, programming stopped. -/
def State.failVer (s : State) (e code : Nat) : State :=
  let s := (s.clearLoad e).verEvent 7 e code
  let s := forAll (s.version e).blocks s fun s b => match b.array with
    | some x => if s.arrState x = AS.PROGRAMMING then
        (s.setReg (asObj (acl x) (anum x)) AS.FREE).modArray x fun a => { a with progRow := none, progBlock := none }
      else s
    | none => s
  ((s.setReg (Od.VER_STATE e) VS.FAILED).setReg (Od.VER_REASON e) code).modVersion e fun v => { v with failedAt := s.now }

/-- The transit of a cluster whose target is one of the arrays is abandoned (R317). -/
def State.freeArray (s : State) (x : Nat) : State :=
  let c := acl x
  let s := if s.reg (Od.TRANSIT_STATE c) ≠ 0 ∧ s.reg (Od.TRANSIT_TARGET c) = anum x then s.abandonTransit c else s
  let st := s.arrState x
  if st = AS.ACTIVE ∨ st = AS.PROGRAMMING then
    (s.setReg (asObj c (anum x)) AS.FREE).modArray x fun a => { a with progRow := none, progBlock := none }
  else s

/-- The entry returns to NONE: its arrays FREE (Tables WT-1, AR-9). -/
def State.verToNone (s : State) (e : Nat) : State :=
  let s := forAll (s.version e).blocks s fun s b => match b.array with
    | some x => s.freeArray x
    | none => s
  let s := forAll [1, 2, 13, 14, 15, 16] s fun s sub => s.setReg ⟨0x6011, sub, e⟩ 0
  { s with versions := Store.erase s.versions e }

/-- Release of a version (R293): its handles are evicted, its bank is cleared at the next BATCH, its arrays become FREE. -/
def State.releaseVer (s : State) (e : Nat) : State :=
  let j := s.reg (Od.VER_JOB e)
  let num := s.reg (Od.VER_NUMBER e)
  let s := forAll (s.prefixes.map Prod.fst) s fun s p =>
    if s.reg (Od.PREFIX_JOB p) = j ∧ s.reg (Od.PREFIX_VERSION p) = num ∧ s.reg (Od.PREFIX_REFS p) = 0 then s.evictPrefix p 2 else s
  let s := forAll (((s.verPlaces e).filter fun p => p.coord == s.coord).map fun p => p.cl) s fun s c => s.control (2 * c) 5 (num % 2)
  s.verToNone e

/-- The bindings of a switch in progress are withdrawn (R291). -/
def State.withdrawSwitch (s : State) (e : Nat) : State :=
  if (s.version e).switchAt.isSome then
    let s := forAll (((s.verPlaces e).filter fun p => p.coord == s.coord).map fun p => p.cl) s fun s c => s.control (2 * c) 4 e
    s.modVersion e fun v => { v with switchAt := none, reported := [], pointerAt := none }
  else s

/-- The code that a deleted LOADING version leaves in VER_REASON, which Table WT-1 does not give: a free value (log entry
44). -/
def State.freeCode (s : State) : Nat × State := (Config.freeNat s.freeN % 0x10000, s.spend 1)

/-- VER_DELETE (Table WT-1). -/
def wrVerDelete (e : Nat) (v : Bool) (s : State) : Wr :=
  let st := s.verState e
  let j := s.reg (Od.VER_JOB e)
  if !v then okW s
  else if st = VS.NONE then badState s st
  else if s.fixedJob j || st == VS.CURRENT || st == VS.RELEASING then verNo e Code.LOCKED s
  else if st = VS.LOADING then
    let f := s.freeCode
    okW ((f.2.failVer e f.1).verNotice e VS.FAILED)
  else
    let s := if st = VS.WAITING then s.setReg (Od.ADMISSION_PAUSED j) 0 else s
    okW (((s.withdrawSwitch e).verNotice e VS.NONE).verToNone e)

def execVerDelete (n : Nat) (e : Fin 16) (v : Bool) (s : State) : Out :=
  s.write n (s.verRight n e.val) (wrVerDelete e.val v)

/-- VER_FIXED (R295): an operator session marks a READY or CURRENT version; a write of 0 is refused. -/
def wrVerFixed (e : Nat) (v : Bool) (s : State) : Wr :=
  let st := s.verState e
  if !v then noW s Code.LOCKED
  else if st = VS.READY ∨ st = VS.CURRENT then okW (s.setReg (Od.VER_FIXED e) 1)
  else badState s st

def execVerFixed (n : Nat) (e : Fin 16) (v : Bool) (s : State) : Out := s.write n (s.isOp n) (wrVerFixed e.val v)

/-- FAILED_VERSION_EXPIRY: 1,024 ticks after it FAILED (Table WT-1). -/
def execFailedVersionExpiry (e : Fin 16) (s : State) : Out :=
  if s.verState e.val = VS.FAILED ∧ (s.version e.val).failedAt + 1024 ≤ s.now then .next (s.verToNone e.val) else .next s

/-- VERSION_RELEASE: no pin and no peer copy on a RELEASING version (Table WT-1). -/
def execVersionRelease (e : Fin 16) (s : State) : Out :=
  if s.verState e.val = VS.RELEASING ∧ s.reg (Od.VER_PINS e.val) = 0 ∧ (s.version e.val).readers = [] then
    .next (s.releaseVer e.val)
  else .next s

/-- DRAIN_COMPLETE (R294): every context of the job FREE (or the job unloaded), and the CURRENT version unused by a peer
copy: the old version is released and entry `e` loads. -/
def execDrainComplete (e : Fin 16) (s : State) : Out :=
  let e := e.val
  let j := s.reg (Od.VER_JOB e)
  let idle := s.jobState j == JS.NONE || !(s.ctxList.any fun x => s.reg (Od.CTX_JOB x) == j)
  let free := match s.currentVer j with
    | some k => (s.version k).readers.isEmpty
    | none => true
  if s.verState e = VS.WAITING ∧ idle = true ∧ free = true then
    let s := match s.currentVer j with
      | some k => s.releaseVer k
      | none => s
    .next ((s.startLoad e ((s.version e).blocks)).verNotice e VS.LOADING)
  else .next s

/-! ## The meridian switch (R291) -/

/-- HB sends every cluster of the slice the new bank's bindings. -/
def State.startSwitch (s : State) (e : Nat) : State :=
  let s := forAll (((s.verPlaces e).filter fun p => p.coord == s.coord).map fun p => p.cl) s fun s c => s.control (2 * c) 3 e
  let s := forAll (s.verModules e) s fun s m => s.notice m 12 [s.reg (Od.VER_NUMBER e)]
  s.modVersion e fun v => { v with switchAt := some s.now, reported := [], pointerAt := none }

/-- VER_SWITCH: a READY version whose job has a CURRENT one. -/
def wrVerSwitch (e : Nat) (v : Bool) (s : State) : Wr :=
  let j := s.reg (Od.VER_JOB e)
  if !v then okW s
  else if s.verState e ≠ VS.NONE ∧ s.fixedJob j = true then verNo e Code.LOCKED s
  else if s.verState e ≠ VS.READY ∨ s.currentVer j = none ∨ (s.version e).switchAt.isSome = true then badState s (s.verState e)
  else okW (s.startSwitch e)

def execVerSwitch (n : Nat) (e : Fin 16) (v : Bool) (s : State) : Out := s.write n (s.verRight n e.val) (wrVerSwitch e.val v)

/-- Every cluster of the slice has reported. -/
def State.allReported (s : State) (e : Nat) : Bool :=
  (s.verPlaces e).all fun p => (s.version e).reported.contains (p.coord * 0x10000 + p.cl)

/-- MERIDIAN_REPORT: cluster `c` of module `m` has installed the new bank of entry `e` at a BATCH. -/
def execMeridianReport (e : Fin 16) (m c : Nat) (s : State) : Out :=
  let e := e.val
  let own := m == s.coord
  let heard := !own || (s.cluster c).installed == some e
  if (s.version e).switchAt.isSome && heard && (s.verPlaces e).any (fun p => p.coord == m && p.cl == c) then
    let s := if own then s.modCluster c fun k => { k with installed := none } else s
    let s := s.modVersion e fun v => { v with reported := NSet.insert v.reported (m * 0x10000 + c) }
    .next (if s.allReported e then s.modVersion e fun v => { v with pointerAt := some (s.now + 1) } else s)
  else .next s

/-- MERIDIAN_POINTER_MOVE: the pointer names the new version from the start of the tick after the last report. -/
def execMeridianPointerMove (e : Fin 16) (s : State) : Out :=
  let e := e.val
  match (s.version e).pointerAt with
  | none => .next s
  | some t =>
    if s.now < t then .next s
    else
      let j := s.reg (Od.VER_JOB e)
      let s := match s.currentVer j with
        | some k => s.setReg (Od.VER_STATE k) VS.RELEASING
        | none => s
      let s := (s.setReg (Od.VER_STATE e) VS.CURRENT).setReg (Od.ADMISSION_PAUSED j) 0
      let s := s.modVersion e fun v => { v with switchAt := none, reported := [], pointerAt := none }
      .next (s.bump Od.SWITCHES 1)

/-- MERIDIAN_TIMEOUT (R291, step 4). -/
def execMeridianTimeout (e : Fin 16) (s : State) : Out :=
  let e := e.val
  match (s.version e).switchAt with
  | none => .next s
  | some t =>
    if (s.version e).pointerAt = none ∧ t + s.reg Od.MERIDIAN_TIMEOUT < s.now then
      .next (((s.withdrawSwitch e).setReg (Od.VER_REASON e) Code.MERIDIAN_TIMEOUT).verEvent 8 e Code.MERIDIAN_TIMEOUT)
    else .next s

end Sys2Proof.Machine
end

