-- ==== Sys2Proof/Machine/Load.lean ====
section
/-!
DEFINITION. LOAD data (R279 to R289, R297 to R299, R339): program images, weight fragments and the load tree, the chunk
decoder's results, programming of arrays, copy reads, adapters.
-/
namespace Sys2Proof.Machine

/-- How a received message is referred to. -/
def InMsg.ref (m : InMsg) (n : Nat) : MsgRef := ⟨n, m.seq, m.ctx, m.reqId⟩

/-- The answer ACK DONE to a message (R335). -/
def State.doneRef (s : State) (r : MsgRef) (extra : List Byte) : State :=
  s.send r.session MC.ACK 2 3 0 r.ctx r.reqId (respPrefix r.seq none 0xFF ++ extra)

/-! ## Program images (R339) -/

/-- Bytes of the image store that images take. -/
def State.imageBytes (s : State) : Nat := s.images.foldl (fun a (e : Nat × Image) => a + e.2.total) 0

/-- Bytes `b` put at offset `o` of a byte table. -/
def putBytes (m : Store (BitVec 8)) (o : Nat) (b : List Byte) : Store (BitVec 8) :=
  Store.keep m (fun k => decide (k < o)) ++ (List.range b.length).map (fun i => (o + i, b.getD i 0)) ++
    Store.keep m fun k => decide (o + b.length ≤ k)

/-- Bytes land in a loading image; it is stored at LAST once every byte has arrived. -/
def State.landImage (s : State) (n i : Nat) (x : Image) (m : InMsg) : State :=
  let off := be m.payload 4 4
  let b := m.payload.drop 16
  let landed := x.landed ++ [(off, b.length)]
  let last := if be m.payload 1 1 / 2 % 2 = 1 then some (m.ref n) else x.last
  let x := { x with bytes := putBytes x.bytes off b, landed := landed, last := last }
  match last with
  | some r =>
    if covers landed x.total then
      ({ s with images := Store.set s.images i { x with loading := false } }.setReg (Od.IMAGE_LEN i) x.total).doneRef r []
    else { s with images := Store.set s.images i x }
  | none => { s with images := Store.set s.images i x }

/-- LOAD IMAGE of session `n`. -/
def State.onImage (s : State) (n : Nat) (m : InMsg) : State :=
  let i := be m.payload 0 1
  let off := be m.payload 4 4
  let total := be m.payload 8 4
  let old := Store.get? s.images i
  if m.payload.length < 16 ∨ 15 < i ∨ 0x1000000 < total ∨ total < off + (m.payload.length - 16) then
    s.refuse n m Code.RANGE_CONFLICT
  else if be m.payload 1 1 % 2 = 1 then
    if s.reg (Od.IMAGE_LEN i) ≠ 0 then s.refuse n m Code.WRONG_STATE
    else
      let t := { s with images := Store.erase s.images i }
      if 0x4000000 < t.imageBytes + total then s.refuse n m Code.DOES_NOT_FIT
      else t.landImage n i { Image.new with total := total, loading := true } m
  else match old with
    | some x =>
      if x.loading = false then s.refuse n m Code.WRONG_STATE
      else if x.total ≠ total then s.refuse n m Code.RANGE_CONFLICT
      else s.landImage n i x m
    | none => s.refuse n m Code.WRONG_STATE

/-! ## The load tree (R280) -/

/-- The parent of module `m` on the load tree of a version: the first hop of its route to the loading module. -/
def loadParent (b : Box) (loader m : Nat) : Option Nat := ((b.hops m loader).head?).map fun p => neighbour m p

/-- Module `m` is module `top` or lies below it. -/
def below (b : Box) (loader top : Nat) : Nat → Nat → Bool
  | 0, m => m == top
  | f + 1, m => m == top || (match loadParent b loader m with
    | some q => below b loader top f q
    | none => false)

/-- The block of modules of a version's slice. -/
def State.verBox (s : State) (e : Nat) : Box :=
  match s.sliceOf (s.reg (Od.VER_SLICE e)) with
  | some k => s.box k
  | none => Box.torus

/-- The modules that hold a replica of block `num`. -/
def State.holders (s : State) (e num : Nat) : List Nat :=
  (((s.version e).manifest.map fun (r : Nat × List Byte) => Block.parse r.2).filter fun b => b.num == num).filterMap
    fun b => ((s.verPlaces e)[b.rank]?).map Place.coord

/-- A fragment goes down each branch in which a module holds a replica. -/
def State.forwardFrag (s : State) (e num : Nat) (payload : List Byte) (poison : Bool) : State :=
  let b := s.verBox e
  let loader := s.reg (Od.VER_LOADER e)
  let kids := (s.verModules e).filter fun m => loadParent b loader m == some s.coord
  forAll (kids.filter fun k => (s.holders e num).any fun h => below b loader k 64 h) s fun s k =>
    s.notice k 13 ((if poison then 1 else 0) :: payload.map BitVec.toNat)

/-- A RESEND record (Table HP-7): to the session that committed the version, through the loading module. -/
def State.resendEvent (s : State) (e num chunk reason : Nat) : State :=
  let v := s.reg (Od.VER_NUMBER e)
  let m := s.coord
  if s.reg (Od.VER_LOADER e) = m then
    s.event 9 (.session (s.version e).session) (beBytes 4 v ++ beBytes 4 num ++ beBytes 2 chunk ++ beBytes 2 reason ++
      beBytes 1 (cx m) ++ beBytes 1 (cy m) ++ beBytes 1 (cz m) ++ beBytes 1 0)
  else s.notice (s.reg (Od.VER_LOADER e)) 4 [v, num, chunk, reason, m]

/-! ## Fragments (R279, R281, R285 to R287) -/

/-- The WEIGHTS sub-header (Table WT-3): VERSION, BLOCK, CHUNK, OFFSET, LAST, SEALED. -/
structure FragHdr where
  ver : Nat
  num : Nat
  chunk : Nat
  off : Nat
  last : Bool
  isSealed : Bool
  deriving DecidableEq, Repr

def FragHdr.parse (b : List Byte) : FragHdr :=
  ⟨be b 0 4, be b 4 4, be b 8 2, be b 10 4, be b 14 1 % 2 == 1, be b 14 1 / 2 % 2 == 1⟩

/-- The plaintext of a fragment; none where its tag fails (R286). -/
def State.fragText (s : State) (e : Nat) (h : FragHdr) (b : List Byte) : Option (List Byte) :=
  if !h.isSealed then some (b.drop 16)
  else match s.keyEntry (s.reg (Od.VER_TENANT e)) (s.reg (Od.VER_KEY e)) with
    | none => none
    | some k =>
      let key := Store.get [] s.security.modelKeys k
      let nonce := beBytes 4 h.ver ++ beBytes 4 h.num ++ beBytes 2 h.chunk ++ beBytes 2 h.off
      if Config.gcmOk key nonce (b.take 16) (b.drop 16) then
        some ((Config.gcmOpen key nonce (b.take 16) (b.drop 16)).take (b.length - 32))
      else none

/-- The NCHUNK of block `num` of a version's manifest. -/
def State.chunksOf (s : State) (e num : Nat) : Option Nat :=
  ((s.version e).manifest.find? fun (r : Nat × List Byte) => (Block.parse r.2).num == num).map fun r => (Block.parse r.2).nchunk

/-- A fragment stored in chunk `k` of a block; one at the same offset replaces the earlier. -/
def Block.putFrag (b : Block) (k : Nat) (f : Frag) : Block :=
  let c := Store.get Chunk.new b.chunks k
  { b with chunks := Store.set b.chunks k { c with frags := (c.frags.filter fun x => x.off != f.off) ++ [f] } }

/-- What the string of chunk `k` decodes to: none while fragments are missing, `some none` where R105 refuses it. -/
def Block.chunkText (b : Block) (k : Nat) : Option (Option (List Byte)) :=
  match (Store.get Chunk.new b.chunks k).text with
  | some t => some (some t)
  | none => ((Store.get Chunk.new b.chunks k).joined).map decodeChunk

/-- The string of the whole block once every chunk has arrived. -/
def Block.whole (b : Block) : Option (List Byte) :=
  (List.range b.nchunk).foldl (fun (a : Option (List Byte)) i => match a, b.chunkText i with
    | some x, some (some y) => some (x ++ y)
    | _, _ => none) (some [])

/-- The chunk or the block that a fragment completes breaks R105 or R275. -/
def Block.badAt (b : Block) (k : Nat) : Bool :=
  b.chunkText k == some none || (match b.whole with
    | some t => !b.textOk t
    | none => false)

/-- The replicas of block `num` on this module change by `f`. -/
def State.modBlocks (s : State) (e num : Nat) (f : Block → Block) : State :=
  s.modVersion e fun v => { v with blocks := v.blocks.map fun (b : Block) => if b.num = num then f b else b }

/-- This module holds a replica of block `num`. -/
def State.holdsBlock (s : State) (e num : Nat) : Bool := (s.version e).blocks.any fun b => b.num == num

/-- A fragment's plaintext is stored in every replica here. -/
def State.storeFrag (s : State) (e : Nat) (h : FragHdr) (t : List Byte) : State :=
  if s.holdsBlock e h.num then
    (s.modBlocks e h.num fun b => b.putFrag h.chunk ⟨h.off, t, h.last⟩).bump Od.LOAD_FRAGMENTS 1
  else s

/-- The fragment completes something that breaks the coding rules. -/
def State.fragBad (s : State) (e : Nat) (h : FragHdr) (t : List Byte) : Bool :=
  (s.version e).blocks.any fun b => b.num == h.num && (b.putFrag h.chunk ⟨h.off, t, h.last⟩).badAt h.chunk

/-- LOAD WEIGHTS of session `n` (R279). -/
def State.onWeights (s : State) (n : Nat) (m : InMsg) : State :=
  let h := FragHdr.parse m.payload
  if m.payload.length < 16 then s.refuse n m Code.RANGE_CONFLICT
  else match s.verOf h.ver with
  | none => s.refuseMsg n m Code.WRONG_STATE VS.NONE none
  | some e =>
    if !s.actsFor n (s.reg (Od.VER_TENANT e)) then s.refuseMsg n m Code.WRONG_STATE VS.NONE none
    else if s.verState e ≠ VS.LOADING then s.refuseMsg n m Code.WRONG_STATE (s.verState e) none
    else if h.isSealed != (s.reg (Od.VER_SEALED e) == 1) then s.refuse n m Code.BAD_CODING
    else match s.chunksOf e h.num with
    | none => s.refuse n m Code.RANGE_CONFLICT
    | some k =>
      if k ≤ h.chunk then s.refuse n m Code.RANGE_CONFLICT
      else match s.fragText e h m.payload with
      | none => (s.bump Od.DECRYPT_FAILS 1).refuse n m Code.DECRYPT_FAIL
      | some t =>
        if s.fragBad e h t then s.refuse n m Code.BAD_CODING
        else
          let s := (s.forwardFrag e h.num m.payload false).storeFrag e h t
          if h.last then s.done n m [] else s

/-- LOAD_TREE_FRAGMENT: a fragment `b` from the parent on the load tree; `poison`: a word of it is poisoned (R285). -/
def execLoadTreeFragment (b : List Byte) (poison : Bool) (s : State) : Out :=
  let h := FragHdr.parse b
  match s.verOf h.ver with
  | none => .next s
  | some e =>
    if s.verState e ≠ VS.LOADING ∨ b.length < 16 then .next s
    else
      let s := if s.reg (Od.VER_SOURCE e) = 1 then s else s.forwardFrag e h.num b poison
      if !s.holdsBlock e h.num then .next s
      else if poison then .next ((s.bump Od.CHUNKS_DROPPED 1).resendEvent e h.num h.chunk Code.POISONED)
      else match s.fragText e h b with
        | none => .next ((s.bump Od.DECRYPT_FAILS 1).resendEvent e h.num h.chunk Code.DECRYPT_FAIL)
        | some t => .next (s.storeFrag e h t)

/-- Chunk `k` of block `num` on die `d` is dropped from the chunk store. -/
def State.dropChunk (s : State) (e num d : Nat) (p : Nat → Bool) : State :=
  s.modBlocks e num fun b => if dieOf b.cl = d then { b with chunks := Store.keep b.chunks fun k => !p k } else b

/-- CHUNK_DECODE: the load engine of die `d` decodes chunk `k` of block `num` of entry `e`, all of whose fragments are
stored (R281); `bad`: the offset of a fragment whose parity fails in the chunk store (R285). -/
def execChunkDecode (e : Fin 16) (d : Fin 16) (num : Word) (k : Fin 64) (bad : Option Nat) (s : State) : Out :=
  let e := e.val
  let num := num.toNat
  match (s.version e).blocks.find? fun b => b.num == num && dieOf b.cl == d.val with
  | none => .next s
  | some b =>
    let c := Store.get Chunk.new b.chunks k.val
    match c.joined, bad with
    | some _, some off =>
      if c.text.isSome ∨ s.verState e ≠ VS.LOADING then .next s
      else
        let cut (b : Block) : Block :=
          let c := Store.get Chunk.new b.chunks k.val
          if dieOf b.cl = d.val then
            { b with chunks := Store.set b.chunks k.val { c with frags := c.frags.filter fun f => f.off != off } }
          else b
        .next (((s.modBlocks e num cut).bump Od.CHUNKS_DROPPED 1).resendEvent e num k.val Code.POISONED)
    | some coded, none =>
      if c.text.isSome ∨ s.verState e ≠ VS.LOADING then .next s
      else match decodeChunk coded with
        | none => .next ((s.dropChunk e num d.val fun i => i == k.val).resendEvent e num k.val Code.BAD_CODING)
        | some t =>
          let put (b : Block) : Block :=
            if dieOf b.cl = d.val then { b with chunks := Store.set b.chunks k.val ⟨[], some t⟩ } else b
          let s := (s.modBlocks e num put).bump Od.CHUNKS_DECODED 1
          match (put b).text with
          | some w =>
            if b.textOk w then .next s
            else .next ((s.dropChunk e num d.val fun _ => true).resendEvent e num 0xFFFF Code.BAD_CODING)
          | none => .next s
    | none, _ => .next s

/-! ## Programming (R54, R55, R282 to R284) -/

/-- The string of the leading chunks that are decoded. -/
def Block.leading (b : Block) : List Byte :=
  ((List.range b.nchunk).foldl (fun (a : List Byte × Bool) i => match a.2, (Store.get Chunk.new b.chunks i).text with
    | true, some y => (a.1 ++ y, true)
    | _, _ => (a.1, false)) ([], true)).1

/-- The levels of row `r` stand in the load pages. -/
def Block.rowReady (b : Block) (r : Nat) : Bool :=
  if b.src = 0 then decide (2 * b.ncol + Nat.min (r + 1) b.nrow * b.rowBytes ≤ b.leading.length)
  else b.text.isSome

/-- Block `b` of a LOADING version is next on cluster `c`: not done, its array FREE, its first row ready. -/
def State.programs (s : State) (c : Nat) (b : Block) : Bool :=
  b.cl == c && !b.done && b.rowReady 0 && (match b.array with
    | some x => s.arrState x == AS.FREE
    | none => false)

/-- The next block of cluster `c`: version entry and index in the module's manifest order. -/
def State.nextBlock (s : State) (c : Nat) : Option (Nat × Nat) :=
  (List.range 16).findSome? fun e =>
    if s.verState e = VS.LOADING then ((s.version e).blocks.findIdx? fun b => s.programs c b).map fun k => (e, k) else none

/-- Block `k` of version entry `e`. -/
def State.blockOf (s : State) (e k : Nat) : Option Block := (s.version e).blocks[k]?

/-- BLOCK_PROGRAM: the cluster starts its next block in the array reserved for it, no array of it PROGRAMMING (R55). -/
def execBlockProgram (c : ClusterId) (s : State) : Out :=
  let n := c.num
  match s.nextBlock n with
  | none => .next s
  | some (e, k) =>
    match (s.blockOf e k).bind Block.array with
    | none => .next s
    | some x =>
      if s.noneProgramming n = false ∨ s.gated n = true then .next s
      else
        let f := ((s.blockOf e k).map Block.wfmt).getD 1
        let s := ((s.haltSeq x).setAr 0x21 1 x AS.PROGRAMMING).setAr 0x21 3 x f
        .next (s.modArray x fun a => { a with progRow := some 0, progBlock := some (e, k) })

/-- The objects of Table CA-4 that hold for a transit from now (R317). -/
def State.transitSet (s : State) : TransitSet :=
  ⟨s.reg Od.SHADOW_WINDOW_TICKS, s.reg Od.TRANSIT_WINDOW_MAX, s.reg Od.TRANSIT_COPY_MAX, s.reg Od.SHADOW_MIN_PAIRS, s.reg Od.MISMATCH_LSB,
    s.reg Od.MISMATCH_COUNT, s.reg Od.MISMATCH_GAIN, s.reg Od.MISMATCH_OFFSET⟩

/-- TRANSIT_START (R303, R305): with a block programming due and neither started, the block goes first (R283). -/
def execTransitStart (c : ClusterId) (s : State) : Out :=
  let n := c.num
  match s.restedSpare n, s.dueArray n with
  | some inc, some tgt =>
    if s.reg Od.TRANSIT_EN = 1 ∧ s.reg (Od.TRANSIT_STATE n) = 0 ∧ s.noneProgramming n = true ∧ s.nextBlock n = none ∧
        s.reg (csObj n) = CS.READY then
      let s := ((s.haltSeq (34 * n + inc)).setReg (asObj n inc) AS.PROGRAMMING).setRested n inc false
      let s := { s with excursionEvents := s.excursionEvents.filter fun x => x != 34 * n + tgt }
      let s := ((s.setReg (Od.TRANSIT_STATE n) 1).setReg (Od.TRANSIT_TARGET n) tgt).setReg (Od.TRANSIT_INCOMING n) inc
      let s := s.setReg (Od.TRANSIT_START n) s.now
      let s := s.modArray (34 * n + inc) fun a => { a with progRow := some 0, progBlock := none }
      .next (s.modCluster n fun k => { k with rowBufs := [], copiedRows := 0, pairs := [], transitSet := s.transitSet })
    else .next s
  | _, _ => .next s

/-- Row `r` holds the levels `l`, and its reference cells `rf` (2g for REF8, 2g + 1 for REF0). -/
def ArrayU.setRow (a : ArrayU) (r : Nat) (l rf : List (BitVec 4)) : ArrayU :=
  { a with
    cells := Store.keep a.cells (fun k => decide (k < 1024 * r)) ++
      (List.range 1024).map (fun c => (1024 * r + c, l.getD c 0)) ++ Store.keep a.cells fun k => decide (1024 * (r + 1) ≤ k)
    refs := Store.keep a.refs (fun k => decide (k < 32 * r)) ++
      (List.range 32).map (fun k => (32 * r + k, rf.getD k 0)) ++ Store.keep a.refs fun k => decide (32 * (r + 1) ≤ k) }

/-- The reference targets that the array generates itself (R54, R55): level 8 for REF8, 0 for REF0. -/
def refTargets : List (BitVec 4) := (List.range 32).map fun k => if k % 2 = 0 then 8 else 0

/-- Levels as programming data (R55): two a byte, the lower column in bits [3:0]. -/
def packLevels (l : List (BitVec 4)) : List Byte :=
  (List.range ((l.length + 1) / 2)).map fun i => l.getD (2 * i + 1) 0 ++ l.getD (2 * i) 0

/-- The levels that programming data holds. -/
def unpackLevels (b : List Byte) : List (BitVec 4) := b.flatMap fun x => [x.extractLsb' 0 4, x.extractLsb' 4 4]

/-- The programming data of row `r` of array `x` (R55, R305): 512 bytes of its block, or the transit row buffer, whose last 16 of 528
bytes hold the reference cells as read; none while missing. -/
def State.rowData (s : State) (x r : Nat) : Option (List Byte) :=
  match (s.array x).progBlock with
  | some (e, k) => match s.blockOf e k with
    | some b => if b.rowReady r then
        let t := b.leading
        some (packLevels (b.levels s.freeN t ((List.range b.ncol).map fun c => b.scale t c) r))
      else none
    | none => none
  | none => ((s.cluster (acl x)).rowBufs).head?

/-- The levels of row `r` that array `x` is to take. -/
def State.rowLevels (s : State) (x r : Nat) : Option (List (BitVec 4)) := (s.rowData x r).map fun b => unpackLevels (b.take 512)

/-- A whole-array programming ended (R56, Table AR-12). -/
def State.progCount (s : State) (x : Nat) : State :=
  let s := s.inc64 (arObj 0x23 1 x)
  let s := ((s.setAr 0x23 3 x s.now).setDrift x 0).setReg (Od.VERIFY_TEMP x) (s.reg (Od.SENSOR_TEMP (acl x)))
  s.modArray x fun a => { a with progRow := none, progBlock := none }

/-- The rated endurance retires the array (R56). -/
def State.endurance (s : State) (x : Nat) : State :=
  if 1000000 ≤ s.ar 0x23 1 x then s.retireArray x 4 0 0xFFFF s.now s.now else s

/-- Every block of this module is ACTIVE: READY, and in a drain the switch (Table WT-1, R294). -/
def State.versionReady (s : State) (e : Nat) : State :=
  let s := ((s.clearLoad e).setReg (Od.VER_STATE e) VS.READY).setReg (Od.VER_DONE_TIME e) s.now
  let j := s.reg (Od.VER_JOB e)
  let s := s.modVersion e fun v => { v with blocks := v.blocks.map fun (b : Block) => { b with chunks := [] } }
  if s.reg (Od.ADMISSION_PAUSED j) = 1 ∧ s.jobState j = JS.ENABLED then s.startSwitch e else s

/-- The version has blocks on other modules of its slice. -/
def State.farBlocks (s : State) (e : Nat) : Bool :=
  (s.version e).manifest.any fun (r : Nat × List Byte) => match (s.verPlaces e)[(Block.parse r.2).rank]? with
    | some p => p.coord != s.coord
    | none => false

/-- The last row of a block is verified: scales, corrections, ACTIVE. -/
def State.blockDone (s : State) (x e k : Nat) (b : Block) : State :=
  let t := b.leading
  let free := s.freeN
  let s := s.spend 1024
  let s := s.modArray x fun a => { a with scales := (List.range 1024).map fun c => (c, b.scaleBits free t c) }
  let s := (s.progCount x).setAr 0x21 1 x AS.ACTIVE
  let s := match (s.strand (2 * b.cl)).slots.find? fun (q : Nat × SlotUse) => q.2.block == b.num && !q.2.servingSlot with
    | some q => if s.strandJob (2 * b.cl) = s.reg (Od.VER_JOB e) then s.setSlotArray b.cl (anum x) q.2 else s
    | none => s
  let s := (s.armArray x).setReg (Od.LAST_CLEAN_TIME x) s.now
  let s := s.setTargets x true
  let s := s.modVersion e fun v => { v with blocks := v.blocks.set k { b with done := true } }
  let s := (s.setReg (Od.VER_BLOCKS_DONE e) (s.reg (Od.VER_BLOCKS_DONE e) + 1)).bump Od.BLOCKS_PROGRAMMED 1
  let s := if ((s.version e).blocks.all fun q => q.done) && !s.farBlocks e then s.versionReady e else s
  s.endurance x

/-- The last row of a transit is verified: the target's scales and settings, SHADOW, the window opens (R305). -/
def State.transitDone (s : State) (y : Nat) : State :=
  let c := acl y
  let x := 34 * c + s.reg (Od.TRANSIT_TARGET c)
  let old := s.array x
  let s := s.modArray y fun a => { a with scales := old.scales }
  let s := forAll [3, 4, 5, 6] s fun s sub => s.setAr 0x21 sub y (s.ar 0x21 sub x)
  let s := (s.setAr 0x27 8 y (s.tfsStep x)).progCount y
  let s := (s.setAr 0x21 1 y AS.SHADOW).setReg (Od.TRANSIT_STATE c) 2
  let s := s.modCluster c fun k => { k with transitFor := s.now, pairs := [], rowBufs := [], copiedRows := 0 }
  ((s.armArray y).setTargets y true).endurance y

/-- The code of a RESEND after a failed row, which R284 does not give: a free value (log entry 45). -/
def State.resendBlock (s : State) (e num : Nat) : State :=
  let f := s.freeCode
  f.2.resendEvent e num 0xFFFF f.1

/-- A row of block `k` failed on array `x` (R284): the block starts again on another FREE array of the cluster. -/
def State.blockFailed (s : State) (x e k r : Nat) (b : Block) : State :=
  let s := s.retireArray x 3 0 0xFFFF s.now s.now
  match s.freeArrays b.cl with
  | [] => (s.failVer e Code.DOES_NOT_FIT).verNotice e VS.FAILED
  | a :: _ =>
    let gone := b.src = 0 ∧ 16 ≤ r
    let b := { b with array := some (34 * b.cl + a), chunks := if gone then [] else b.chunks }
    let s := s.modVersion e fun v => { v with blocks := v.blocks.set k b }
    if gone then s.resendBlock e b.num else s

/-- PROGRAM_ROW: the write-verify of the row in progress ends at the verify of iteration `iters` + 1, or fails after iteration 8
(R54). Iteration 1 leaves every cell at level 0, the REF8 cells off their target, so no row is done before iteration 2. A failed row
took 8 iterations and leaves its 1,056 cells at levels that the spec does not state (log entry 100). -/
def execProgramRow (x : ArrayId) (clk : Fin 8) (iters : Fin 8) (ok : Bool) (s : State) : Out :=
  let n := x.num
  match (s.array n).progRow with
  | none => .next s
  | some r =>
    if s.arrState n ≠ AS.PROGRAMMING ∨ s.roomForRow n (s.clock clk.val) = false ∨ s.rowsRun = false ∨ s.reg (Od.DIE_OPP (dieOf (acl n))) = 0xFF then .next s
    else match s.rowLevels n r with
      | none => .next s
      | some l =>
        let own := (s.array n).progBlock
        if !ok then
          let free (o k : Nat) : BitVec 4 := BitVec.ofNat 4 (Config.freeNat (s.freeN + 0x100000 + o + k))
          let s := ((s.inc64 (arObj 0x23 2 n)).setAr 0x23 4 n 8).modArray n fun a =>
            a.setRow r ((List.range 1024).map (free 0)) ((List.range 32).map (free 1024))
          let s := s.spend 0x200000
          match own with
          | none => .next (s.retireArray n 3 0 0xFFFF s.now s.now)
          | some (e, k) => match s.blockOf e k with
            | some b => .next (s.blockFailed n e k r b)
            | none => .next s
        else
          let its := Nat.max 2 (iters.val + 1)
          let most := if r = 0 then its else Nat.max (s.ar 0x23 4 n) its
          let s := (s.setAr 0x23 4 n most).modArray n fun a => { a.setRow r l refTargets with progRow := some (r + 1) }
          let s := s.spend 0x200000
          match own with
          | none =>
            let s := s.modCluster (acl n) fun k => { k with rowBufs := k.rowBufs.drop 1 }
            .next (if r = 1023 then s.transitDone n else s)
          | some (e, k) => match s.blockOf e k with
            | some b => .next (if r = 1023 then s.blockDone n e k b else s)
            | none => .next s

/-! ## Copy reads (R289, R305) -/

/-- A row as the copy reads it into a transit row buffer of 528 bytes (R305): the array's own levels and reference cells, but for the
cells in `cells` (column, level). -/
def ArrayU.copyRow (a : ArrayU) (r : Nat) (cells : List (Nat × BitVec 4)) : List Byte :=
  packLevels ((List.range 1024).map (fun c => match cells.find? fun e => e.1 == c with
    | some e => e.2
    | none => Store.get 0 a.cells (1024 * r + c)) ++ (List.range 32).map fun k => Store.get 0 a.refs (32 * r + k))

/-- The weight that levels hold (Table AR-2); levels off the format's grid have none: a free value (log entry 46). -/
def weightOf (free w : Nat) (hi lo : BitVec 4) : Int :=
  if w ≤ 4 then
    let d : Int := (hi.toNat : Int) - 8
    if d % levelUnits w = 0 ∧ weightFits w (d / levelUnits w) = true then d / levelUnits w
    else ((Config.freeNat free % (2 * qmax w + 1) : Nat) : Int) - qmax w
  else
    let v : Int := 16 * ((hi.toNat : Int) - 8) + lo.toNat
    if weightFits w v then v else ((Config.freeNat free % (2 * qmax w + 1) : Nat) : Int) - qmax w

/-- One row of weights as an INT string (R275). -/
def rowString (w : Nat) (ws : List Int) : List Byte :=
  if w ≤ 4 then (List.range ((ws.length + 1) / 2)).map fun i =>
    BitVec.ofNat 8 ((ws.getD (2 * i) 0 % 16).toNat + 16 * (ws.getD (2 * i + 1) 0 % 16).toNat)
  else ws.map fun v => BitVec.ofInt 8 v

/-- The INT string of the block that array `a` holds. -/
def Block.copyString (b : Block) (free : Nat) (a : ArrayU) (cells : List (Nat × BitVec 4)) : List Byte :=
  let scales := (List.range b.ncol).flatMap fun c => leBytes 2 (Store.get 0 a.scales c).toNat
  let lv (r c : Nat) : BitVec 4 := match cells.find? fun e => e.1 == 1024 * r + c with
    | some e => e.2
    | none => Store.get 0 a.cells (1024 * r + c)
  scales ++ (List.range b.nrow).flatMap fun r => rowString b.wfmt ((List.range b.ncol).map fun c =>
    if b.wfmt ≤ 4 then weightOf (free + 1024 * r + c) b.wfmt (lv r c) 0
    else weightOf (free + 1024 * r + c) b.wfmt (lv r (2 * c)) (lv r (2 * c + 1)))

/-- Pieces of at most `n` bytes. -/
def piecesOf (n : Nat) : Nat → List Byte → List (List Byte)
  | 0, _ => []
  | f + 1, l => if l.length ≤ n then [l] else l.take n :: piecesOf n f (l.drop n)

/-- The fragments of a string as STORED chunks of 64 KiB (R104, Table WT-3). -/
def storedFrags (ver num : Nat) (t : List Byte) : List (List Byte) :=
  let chunks := piecesOf 65536 64 t
  ((List.range chunks.length).zip chunks).flatMap fun c =>
    let n := c.2.length
    let coded := leBytes 1 0 ++ leBytes 1 0 ++ leBytes 2 (n - 1) ++ leBytes 4 n ++ c.2
    let fr := piecesOf 8176 64 coded
    ((List.range fr.length).zip fr).map fun f =>
      beBytes 4 ver ++ beBytes 4 num ++ beBytes 2 c.1 ++ beBytes 4 (8176 * f.1) ++
        beBytes 1 (if f.1 + 1 = fr.length then 1 else 0) ++ beBytes 1 0 ++ f.2

/-- The version entry and block that array `x` holds, of a version that a peer copy may read (R288). -/
def State.sourceBlock (s : State) (x : Nat) : Option (Nat × Block) :=
  (List.range 16).findSome? fun e =>
    if VS.READY ≤ s.verState e ∧ s.verState e ≤ VS.RELEASING ∧ s.reg (Od.VER_SEALED e) = 0 then
      ((s.version e).blocks.find? fun b => b.array == some x && b.done).map fun b => (e, b)
    else none

/-- A fragment of a peer copy for this module itself is stored (R289). -/
def State.landPeer (s : State) (f : List Byte) : State :=
  let h := FragHdr.parse f
  match s.verOf h.ver with
  | some e => if s.verState e = VS.LOADING then s.storeFrag e h (f.drop 16) else s
  | none => s

/-- COPY_READ of the ACTIVE array `x`, with no command queued: the next row of its transit into a free row buffer, or its
block for a peer copy. `cells`: cells read at another level than they were programmed to (R289, R306), by column for a
transit and by 1024 · row + column for a block; `amb`: cells read within 0.05 of a half level. -/
def execCopyRead (x : ArrayId) (use : CopyUse) (cells : List (Nat × BitVec 4)) (amb : Nat) (s : State) : Out :=
  let n := x.num
  let c := acl n
  let k := s.cluster c
  if s.arrState n ≠ AS.ACTIVE ∨ (s.array n).idle = false then .next s
  else match use with
  | .transit =>
    if s.reg (Od.TRANSIT_STATE c) = 1 ∧ s.reg (Od.TRANSIT_TARGET c) = x.a.val ∧ k.rowBufs.length < 2 ∧ k.copiedRows < 1024 then
      let row := (s.array n).copyRow k.copiedRows cells
      let s := s.modCluster c fun k => { k with rowBufs := k.rowBufs ++ [row], copiedRows := k.copiedRows + 1 }
      .next (if amb = 0 then s else s.bump Od.TRANSIT_AMBIGUOUS amb)
    else .next s
  | .peer dst ver last =>
    match s.sourceBlock n with
    | none => .next s
    | some (e, b) =>
      let t := b.copyString s.freeN (s.array n) cells
      let s := s.spend 0x200000
      let s := forAll (storedFrags ver.toNat b.num t) s fun s f =>
        if dst = s.coord then s.landPeer f else s.notice dst 13 (0 :: f.map BitVec.toNat)
      let s := s.modVersion e fun v => { v with
        readers := if last then v.readers.filter fun m => m != dst else NSet.insert v.readers dst }
      .next (if amb = 0 then s else s.bump Od.PEER_AMBIGUOUS amb)

/-! ## Adapters (R297 to R299) -/

/-- Offsets at which `need` bytes of an ADAPTER_POOL may start: 0 and the ends of the generations of the job. -/
def State.gensOf (s : State) (j : Nat) : List AdGen :=
  (s.adapters.filter fun e => s.reg (Od.AD_JOB e.1) == j).flatMap fun e => e.2.gens

/-- The lowest offset with room for `need` bytes in every ADAPTER_POOL of job `j` (R298). -/
def State.adapterPlace (s : State) (j need : Nat) : Option Nat :=
  let used := (s.gensOf j).map fun g => (g.off, pageUp g.perRank)
  let pools := (s.job j).pools.filter fun p => p.1 == 5
  let ok (o : Nat) : Bool := pools.all (fun p => decide (o + need ≤ p.2.2.2)) &&
    used.all fun u => decide (o + need ≤ u.1) || decide (u.1 + u.2 ≤ o)
  ((0 :: used.map fun u => u.1 + u.2).filter ok).foldl (fun (a : Option Nat) o => match a with
    | some b => some (Nat.min b o)
    | none => some o) none

/-- Bytes of an adapter image land on their ranks' clusters of this module. -/
def State.landAdapter (s : State) (j : Nat) (g : AdGen) (off : Nat) (b : List Byte) : State :=
  forAll ((List.range b.length).zip b) s fun s x =>
    let i := off + x.1
    if i < 16 ∨ g.perRank = 0 then s
    else
      let rank := (i - 16) / g.perRank
      match (s.job j).pools.find? fun p => p.1 == 5 && p.2.1 == rank with
      | some p =>
        let a := (s.place j rank).cl * 0x400000 + p.2.2.1 + g.off + (i - 16) % g.perRank
        { s with
          sram := Mem.write s.sram a x.2
          sramPoison := NSet.remove s.sramPoison (a / 4)
          sramParity := NSet.remove s.sramParity (a / 4) }
      | none => s

/-- The generations of an adapter entry change. -/
def State.setGens (s : State) (e : Nat) (f : List AdGen → List AdGen) : State :=
  let a := Store.get Adapter.new s.adapters e
  { s with adapters := Store.set s.adapters e { a with gens := f a.gens } }.adapterObjs e

/-- The loading generation of entry `e` takes a message: bytes land, and once every byte has landed it is CURRENT and the
earlier one SUPERSEDED (Table WT-4), which is dropped without references from the next tick on: an admission of this tick still pins
it (Table WT-5). The bytes of ranks on other modules go there. -/
def State.adapterData (s : State) (n e : Nat) (m : InMsg) : State :=
  let j := s.reg (Od.AD_JOB e)
  let off := be m.payload 8 4
  let b := m.payload.drop 16
  match (Store.get Adapter.new s.adapters e).gens.find? fun (g : AdGen) => g.state == 1 with
  | none => s.refuseMsg n m Code.WRONG_STATE 0 none
  | some g =>
    if g.total ≠ be m.payload 12 4 ∨ g.total < off + b.length then s.refuse n m Code.RANGE_CONFLICT
    else
      let first := be m.payload 5 1 % 2 = 1
      let last := if be m.payload 5 1 / 2 % 2 = 1 ∧ !first then some (m.ref n) else g.last
      let landed := g.landed ++ [(off, b.length)]
      let s := s.landAdapter j g off b
      let s := forAll ((s.jobModules j).filter fun d => d != s.coord) s fun s d => s.notice d 19 (m.payload.map fun x => x.toNat)
      let put (f : AdGen → AdGen) : List AdGen → List AdGen := fun l => l.map fun q => if q.state = 1 then f q else q
      if covers landed g.total then
        let s := s.setGens e fun l => (l.map fun (q : AdGen) => if q.state = 2 then { q with state := 3, since := s.now } else q) |>
          put fun q => { q with state := 2, landed := [], last := none, since := s.now }
        match last with
        | some r => s.doneRef r []
        | none => if first then s else s.doneRef (m.ref n) []
      else s.setGens e (put fun q => { q with landed := landed, lastMsg := s.now, last := last })

/-- The FIRST message of an adapter image of tenant `t`: its checks, its place, its handle and generation (R297, R298). -/
def State.adapterFirst (s : State) (n t : Nat) (m : InMsg) : State :=
  let h := be m.payload 0 4
  let j := be m.payload 4 1
  let total := be m.payload 12 4
  let img := m.payload.drop 16
  let nrank := leNat (slice img 4 4)
  let per := leNat (slice img 8 4)
  let quota := nrank * pageUp per
  let known := h ≠ 0
  let entry := if known then some (h % 4096) else (List.range 4096).find? fun e => (Store.get Adapter.new s.adapters e).gens.isEmpty
  if !s.mayUse t j then s.refuse n m Code.AUTH_FAIL
  else if (s.job j).train || s.jobState j == JS.NONE || s.jobState j == JS.ENDING then
    s.refuseMsg n m Code.WRONG_STATE (s.jobState j) none
  else if be m.payload 8 4 ≠ 0 ∨ slice img 0 4 ≠ [0x41, 0x44, 0x50, 0x31] ∨ img.length < 16 ∨ per % 32 ≠ 0 ∨
      total ≠ 16 + nrank * per ∨ total < img.length then s.refuse n m Code.RANGE_CONFLICT
  else if nrank ≠ (s.job j).ranks.length then s.refuse n m Code.TOPOLOGY_MISMATCH
  else if s.startReg (Od.TENANT_SRAM_QUOTA t) < s.reg (Od.TENANT_SRAM_USED t) + quota then s.refuse n m Code.TENANT_QUOTA
  else match entry, s.adapterPlace j (pageUp per) with
    | some e, some off =>
      let a := Store.get Adapter.new s.adapters e
      let num := 1 + a.gens.foldl (fun k (g : AdGen) => Nat.max k g.num) 0
      let g : AdGen := ⟨num, 1, off, per, 0, total, [], s.now, none, quota, s.now⟩
      let s := if known then s else
        let s := { s with adapters := Store.set s.adapters e { a with reuse := a.reuse + 1, gens := [] } }
        ((s.setReg (Od.AD_TENANT e) t).setReg (Od.AD_JOB e) j).setReg Od.ADAPTERS_IN_USE (s.reg Od.ADAPTERS_IN_USE + 1)
      let s := s.setReg (Od.TENANT_SRAM_USED t) (s.reg (Od.TENANT_SRAM_USED t) + quota)
      let s := s.setGens e fun l => l ++ [g]
      (s.done n m (beBytes 4 (s.adapterHandle e) ++ beBytes 4 num)).adapterData n e m
    | _, _ => s.refuse n m Code.DOES_NOT_FIT

/-- A handle names an adapter entry in use of tenant `t`. -/
def State.adapterEntry (s : State) (h t : Nat) : Option Nat :=
  let e := h % 4096
  if h ≠ 0 ∧ s.adapterHandle e = h ∧ s.reg (Od.AD_TENANT e) = t ∧
      (Store.get Adapter.new s.adapters e).gens ≠ [] then some e else none

/-- LOAD ADAPTER of session `n`. -/
def State.onAdapter (s : State) (n : Nat) (m : InMsg) : State :=
  let h := be m.payload 0 4
  let first := be m.payload 5 1 % 2 = 1
  let t := s.actor n
  if m.payload.length < 16 then s.refuse n m Code.RANGE_CONFLICT
  else if h = 0 then (if first then s.adapterFirst n t m else s.refuse n m Code.MISSING_OBJECT)
  else match s.adapterEntry h t with
    | none => s.refuse n m Code.MISSING_OBJECT
    | some e =>
      if s.reg (Od.AD_RETIRING e) = 1 then s.refuseMsg n m Code.WRONG_STATE 4 none
      else if s.reg (Od.AD_JOB e) ≠ be m.payload 4 1 then s.refuse n m Code.RANGE_CONFLICT
      else if first then
        (if s.reg (Od.AD_LOADING_GEN e) = 0 then s.adapterFirst n t m else s.refuseMsg n m Code.WRONG_STATE 1 none)
      else s.adapterData n e m

/-- ADAPTER_DELETE of handle `h` by tenant `t`: the loading generation is dropped, the CURRENT one retires (Tables WT-4,
WT-5). -/
def wrAdapterDelete (t h : Nat) (s : State) : Wr :=
  match s.adapterEntry h t with
  | none => noW s Code.MISSING_OBJECT
  | some e =>
    if s.reg (Od.AD_RETIRING e) = 1 then badState s 4
    else
      let s := s.setReg (Od.AD_RETIRING e) 1
      let s := s.setGens e fun l => l.map fun (g : AdGen) => if g.state = 2 then { g with state := 4 } else g
      okW (s.dropGens e fun g => g.state == 1 || g.over)

def execAdapterDelete (n : Nat) (h : Word) (s : State) : Out := s.write n true (wrAdapterDelete (s.actor n) h.toNat)

/-- ADAPTER_IDLE_EXPIRY: no message for the loading generation of entry `e` for ADAPTER_IDLE_TICKS. -/
def execAdapterIdleExpiry (e : Fin 4096) (s : State) : Out :=
  let idle (g : AdGen) : Bool := g.state == 1 && decide (g.lastMsg + s.reg Od.ADAPTER_IDLE_TICKS < s.now)
  if (Store.get Adapter.new s.adapters e.val).gens.any idle then .next (s.dropGens e.val idle) else .next s

end Sys2Proof.Machine
end

