-- ==== Sys2Proof/Machine/Fibre.lean ====
section
/-!
DEFINITION. The byte forms of the fabric wire (R11, R348, R357, R361): the flit trailer of Table FB-2 with its CRC-32, the head flit of
Table FB-4 with its die header (Table DN-5), and the MEMBER payload of Table FB-6; the link sequence of a port.
-/
namespace Sys2Proof.Machine

/-! ## Trailers (Table FB-2) -/

structure Trailer where
  psn : Nat
  vc : Nat
  head : Bool
  tail : Bool
  null : Bool
  lseq : Nat
  ack : Nat
  nak : Bool
  cr0 : Nat
  cr1 : Nat
  deriving DecidableEq, Repr

/-- Bits [63:0] of the trailer. -/
def Trailer.low (t : Trailer) : Nat :=
  t.psn % 2 ^ 16 + 2 ^ 16 * (t.vc % 2) + 2 ^ 17 * t.head.toNat + 2 ^ 18 * t.tail.toNat + 2 ^ 19 * t.null.toNat +
    2 ^ 20 * (t.lseq % 4096) + 2 ^ 32 * (t.ack % 4096) + 2 ^ 44 * t.nak.toNat + 2 ^ 45 * (t.cr0 % 256) + 2 ^ 53 * (t.cr1 % 16)

/-- The fields that a trailer's bits spell; RES bits are ignored. -/
def Trailer.ofNat (n : Nat) : Trailer :=
  ⟨n % 2 ^ 16, n / 2 ^ 16 % 2, n.testBit 17, n.testBit 18, n.testBit 19, n / 2 ^ 20 % 4096, n / 2 ^ 32 % 4096, n.testBit 44,
    n / 2 ^ 45 % 256, n / 2 ^ 53 % 16⟩

/-- The CRC of a flit: over its data bytes and trailer bits [63:0], most significant byte first. -/
def flitCrc (data : List Byte) (low : Nat) : Nat := crc32 (data ++ beBytes 8 low)

/-- A flit with its trailer. -/
def flitMake (data : List Byte) (t : Trailer) : FabFlit := ⟨data, BitVec.ofNat 128 (t.low + 2 ^ 64 * flitCrc data t.low)⟩

def flitFields (f : FabFlit) : Trailer := Trailer.ofNat f.trailer.toNat

/-- A flit arrives without a CRC error. -/
def flitGood (f : FabFlit) : Bool :=
  f.data.length == 64 && f.trailer.toNat / 2 ^ 64 % 2 ^ 32 == flitCrc f.data (f.trailer.toNat % 2 ^ 64)

/-- The bytes of a flit on the link, its trailer most significant byte first. -/
def flitBytes (f : FabFlit) : List Byte := f.data ++ beBytes 16 f.trailer.toNat

/-! ## Messages (Tables FB-4, DN-5) -/

/-- The header of a fabric message, bytes 0 to 31. `fclass`: 0 a die message, 1 an E2E_ACK. -/
def FabMsg.header (m : FabMsg) (fclass : Nat) : List Byte :=
  let w0 := cx m.dst + 2 ^ 4 * cy m.dst + 2 ^ 8 * cz m.dst + 2 ^ 12 * cx m.src + 2 ^ 16 * cy m.src + 2 ^ 20 * cz m.src +
    2 ^ 24 * m.dir + 2 ^ 27 * m.resent.toNat + 2 ^ 28 * fclass
  beBytes 4 w0 ++ beBytes 4 (m.msg.job + 2 ^ 16 * m.spf) ++ beBytes 4 m.stamp ++ beBytes 4 m.fseq ++
    (m.msg.header m.msg.dst).flatMap fun w => beBytes 4 w.toNat

/-- The tags of the 16 words of flit `f`: payload words from word 8 in the head flit, all 16 in the others. -/
def FabMsg.psn (m : FabMsg) (f : Nat) : Nat :=
  (List.range 16).foldl (fun a i =>
    let w := if f = 0 then (if i < 8 then PWord.zero else m.msg.payload.getD (i - 8) PWord.zero)
      else m.msg.payload.getD (8 + 16 * (f - 1) + i) PWord.zero
    if w.poison then a + 2 ^ i else a) 0

/-- The data bytes of the flits of a fabric message, each with its tags: 32 payload bytes in the head flit, 64 in the others (R357). -/
def FabMsg.data (m : FabMsg) : List (List Byte × Nat) :=
  let n := if m.vc = 1 then 1 else fabFlits m.msg.how.len
  let bs := m.msg.payload.flatMap fun w => leBytes 4 w.val.toNat
  let pad (l : List Byte) (k : Nat) : List Byte := l ++ List.replicate (k - l.length) 0
  (List.range n).map fun f =>
    (if f = 0 then m.header 0 ++ pad (bs.take 32) 32 else pad (slice bs (32 + 64 * (f - 1)) 64) 64, m.psn f)

/-- The flits of a message as port state `t` sends them, LSEQ counting on from the last flit sent. -/
def FabMsg.flits (m : FabMsg) (t : Port) : List FabFlit :=
  let ds := m.data
  ((List.range ds.length).zip ds).map fun e =>
    flitMake e.2.1 ⟨e.2.2, m.vc, e.1 == 0, e.1 + 1 == ds.length, false, t.sentSeq + 1 + e.1, t.gotSeq, t.nak,
      if e.1 = 0 then Nat.min 255 t.owe0 else 0, if e.1 = 0 then Nat.min 15 t.owe1 else 0⟩

/-- The flit of a slot with nothing to send. -/
def Port.nullFlit (t : Port) : FabFlit :=
  flitMake (List.replicate 64 0) ⟨0, 0, false, false, true, t.sentSeq, t.gotSeq, t.nak, Nat.min 255 t.owe0, Nat.min 15 t.owe1⟩

/-- The end that DDIE, DCL and DSTR, or SDIE, SCL and SSTR, name. -/
def endOfField (w : Nat) : Nat :=
  let d := w % 32
  if d < 16 then 2 * (96 * d + w / 32 % 128) + w / 4096 % 2 else 0x10000 + d

/-- The message that flits spell: header, payload words with their tags, LEN, PACK and, in a CONSTELLATION message, OP and GEN (Table
SY-2). The header gives no ring, so the message keeps no order (log entry 127). -/
def fabOf (fs : List FabFlit) : Option FabMsg :=
  match fs with
  | [] => none
  | f :: t =>
    let w (i : Nat) : Nat := beNat (slice f.data (4 * i) 4)
    let d (i : Nat) : Nat := w (4 + i)
    let len := d 2 % 0x10000 + 1
    let word (g : FabFlit) (i : Nat) : PWord := ⟨BitVec.ofNat 32 (leNat (slice g.data (4 * i) 4)), (flitFields g).psn.testBit i⟩
    let ws := ((List.range 8).map fun i => word f (8 + i)) ++ t.flatMap fun g => (List.range 16).map (word g)
    let ws := ws.take ((len + 3) / 4)
    let type := d 0 / 2 ^ 23 % 16
    let reduce := type == 1 || type == 2
    let body := ws.flatMap fun x => leBytes 4 x.val.toNat
    let pack := d 0 / 2 ^ 27 % 4
    let exps := pack != 0 && match unpackBlocks (pack == 2) (len + 1) (body.take len) with
      | some bs => bs.any fun b => b.2.1 != 0
      | none => false
    some ⟨coordOf (w 0 % 16) (w 0 / 2 ^ 4 % 16) (w 0 / 2 ^ 8 % 16), coordOf (w 0 / 2 ^ 12 % 16) (w 0 / 2 ^ 16 % 16) (w 0 / 2 ^ 20 % 16),
      w 0 / 2 ^ 24 % 8, (w 0).testBit 27, (flitFields f).vc, w 1 / 2 ^ 16 % 2, w 2, w 3,
      ⟨type, coordOf (w 0 / 2 ^ 12 % 16) (w 0 / 2 ^ 16 % 16) (w 0 / 2 ^ 20 % 16), endOfField (d 1), endOfField (d 0), 0,
        d 0 / 2 ^ 13 % 16, d 0 / 2 ^ 17 % 64, if type = 4 then beNat (body.take 1) else 0, d 1 / 2 ^ 16 % 1024, w 1 % 128,
        if reduce then d 2 / 2 ^ 16 else 0, if reduce then 0 else d 2 / 2 ^ 16,
        if type = 4 then BitVec.ofNat 32 (beNat (slice body 4 4)) else BitVec.ofNat 32 (d 3), ws,
        { Carried.plain len with auto := !reduce, pack := pack, exps := exps }⟩⟩

/-- The flits of one message as a port meets them: one head flit first, one tail flit last, all of one VC and none NULL. -/
def wholeMessage (fs : List FabFlit) : Bool :=
  !fs.isEmpty && (List.range fs.length).all fun i => match fs[i]? with
    | some f => flitGood f && !(flitFields f).null && (flitFields f).head == (i == 0) && (flitFields f).tail == (i + 1 == fs.length) &&
        (flitFields f).vc == (match fs.head? with | some h => (flitFields h).vc | none => 0)
    | none => false

/-- FCLASS of a head flit. -/
def fclassOf (fs : List FabFlit) : Nat := match fs.head? with
  | some f => beNat (slice f.data 0 4) / 2 ^ 28 % 4
  | none => 0

/-! ## The link sequence of a port (R348, R349) -/

/-- Flits in order through port `p`: LSEQ received, ACK and credits of the reverse direction, credits owed for the buffers that they
leave. -/
def State.gotOn (s : State) (p : Nat) (fs : List FabFlit) : State :=
  fs.foldl (fun s f =>
    let e := flitFields f
    s.modPort p fun t => { t with
      gotSeq := if e.null then t.gotSeq else (t.gotSeq + 1) % 4096
      ackSeq := e.ack
      nak := false
      owe0 := if e.null ∨ e.vc = 1 then t.owe0 else t.owe0 + 1
      owe1 := if e.null ∨ e.vc = 0 then t.owe1 else t.owe1 + 1
      have0 := t.have0 + e.cr0
      have1 := t.have1 + e.cr1 }) s

end Sys2Proof.Machine
end

