-- ==== Sys2Proof/Machine/Fabric.lean ====
section
/-!
DEFINITION. The torus fabric (R346 to R366): ports, arriving messages, the resend store, member notices, slices and the
tether bypass.
-/
namespace Sys2Proof.Machine

/-- Port states of Table FB-3. -/
abbrev PT.DARK : Nat := 0
abbrev PT.TRAINING : Nat := 1
abbrev PT.UP : Nat := 2
abbrev PT.DOWN : Nat := 3

def State.portState (s : State) (p : Nat) : Nat := s.reg (Od.PORT_STATE p)
def State.neighbourOf (s : State) (p : Nat) : Nat := s.reg (Od.NEIGHBOUR_COORD p)

/-! ## Routes of messages sent again (R356, R359) -/

/-- The axis on which a message's route enters module `lost`. -/
def State.enters (s : State) (lost : Nat) (m : FabMsg) : Option Nat :=
  let hs := s.hopsOf m
  ((List.range hs.length).find? fun i => (hs.take (i + 1)).foldl neighbour s.coord == lost).map fun i => hs.getD i 0 / 2

/-- The axis of the first hop, where it goes through port `p`. -/
def State.leavesBy (s : State) (p : Nat) (m : FabMsg) : Option Nat :=
  match (s.hopsOf m).head? with
  | some q => if q = p then some (p / 2) else none
  | none => none

/-- A message of the resend store is sent again now (R359). -/
def State.resendNow (s : State) (k : Nat) (dir : Nat) : State :=
  match s.resend[k]? with
  | none => s
  | some r =>
    let m := { r.msg with resent := true, dir := dir }
    ({ s with resend := s.resend.set k (Resend.mk s.now m) }.bump Od.FAB_RESENDS 1).fabSend m

/-- Messages whose route is broken on an axis take the opposite direction where the axis wraps for them; the others wait
(R359). -/
def State.detour (s : State) (broken : FabMsg → Option Nat) : State :=
  forAll (List.range s.resend.length) s fun s k =>
    match s.resend[k]? with
    | none => s
    | some r => match broken r.msg with
      | some a => if (s.routeBox r.msg.msg.job).wrap.testBit a then s.resendNow k (r.msg.dir ^^^ 2 ^ a) else s
      | none => s

/-- Messages that waited for port `p` follow their bound route again. -/
def State.resendBy (s : State) (p : Nat) : State :=
  forAll (List.range s.resend.length) s fun s k =>
    match s.resend[k]? with
    | none => s
    | some r => if s.leavesBy p r.msg = some (p / 2) then s.resendNow k r.msg.dir else s

/-- Messages that waited for room enter the resend store in order (R359). -/
def State.fillStore (s : State) : State :=
  let w := s.fabWait
  forAll w { s with fabWait := [] } fun s m =>
    if 0x800000 < s.storeUsed m.spf + m.bytes ∨ s.fabWait.any (fun x => x.spf == m.spf) then { s with fabWait := s.fabWait ++ [m] }
    else s.fabInject m

/-! ## Ports (R349 to R351) -/

/-- A slice record whose block holds both ends of a link is BROKEN (R354). -/
def State.breakSlices (s : State) (hit : Box → Bool) (lost : Nat) : State :=
  forAll (List.range 64) s fun s k =>
    if s.reg (Od.SLICE_STATE k) ≠ 0 ∧ hit (s.box k) = true then
      (s.setReg (Od.SLICE_STATE k) 2).setReg (Od.SLICE_LOST k) lost
    else s

/-- A neighbour's hops to the root, where its own upstream port does not face this module (R364). -/
def State.altHops (s : State) (p : Nat) : Option Nat :=
  let n := s.neighbourOf p
  let root := s.reg Od.ROOT_COORD
  if upstreamPort n root = some (facing p) then none else some (Box.torus.hops n root).length

/-- BEACON_REQ once the upstream port leaves UP (R364). -/
def State.askBeacon (s : State) (p : Nat) : State :=
  if s.isRoot ∨ s.syncState = SY.FREE ∨ upstreamPort s.coord (s.reg Od.ROOT_COORD) ≠ some p then s
  else
    let best := s.upPorts.foldl (fun (a : Option (Nat × Nat)) q => match a, s.altHops q with
      | none, some h => some (q, h)
      | some b, some h => if h < b.2 then some (q, h) else some b
      | a, none => a) none
    match best with
    | some (q, _) => { s.member (s.neighbourOf q) 5 0 s.coord q 0 with sync := { s.sync with alt := some q } }
    | none => s

/-- A port leaves UP: messages whose first hop it was are resent, and another neighbour is asked for beacons. -/
def State.leaveUp (s : State) (p : Nat) : State := (s.detour (s.leavesBy p)).askBeacon p

/-- A port goes to DOWN (R350): reason, record, jobs whose bound routes cross it end with LINK_LOST. -/
def State.portDown (s : State) (p why : Nat) : State :=
  let was := s.portState p
  let far := s.neighbourOf p
  let me := s.coord
  let s := (s.setReg (Od.PORT_STATE p) PT.DOWN).setReg (Od.PORT_DOWN_REASON p) why
  let s := s.modPort p fun t => { t with probeUntil := none }
  let s := s.fault 7 0xFF 0xFF (0x100 + p) why []
  let js := (s.jobs.filter fun (e : Nat × Job) => e.2.ports.contains p).map Prod.fst
  let s := forAll js s fun s j => s.endJob j Code.LINK_LOST Br.LINK_LOST (0x40 + p)
  let s := if far = 0xFFFFFFFF then s else s.breakSlices (fun b => b.has me && b.has far) far
  if was = PT.UP then s.leaveUp p else s

/-- PORT_LIGHT: light on all 8 lanes of a DARK port whose bypass is open and whose power is not OFF. -/
def execPortLight (p : Fin 6) (s : State) : Out :=
  let p := p.val
  if s.portState p = PT.DARK ∧ (s.reg Od.BYPASS_STATE).testBit (p / 2) = false ∧ s.reg (Od.FAB_PORT_PWR p) ≠ 2 then
    .next ((s.setReg (Od.PORT_STATE p) PT.TRAINING).modPort p fun t => { t with probeUntil := none })
  else .next s

/-- A neighbour with these coordinates is accepted on a port (R351). -/
def acceptsNeighbour (me p n : Nat) : Bool :=
  [0, 1, 2].all fun a => if a = p / 2 then axisOf a n != axisOf a me else axisOf a n == axisOf a me

/-- PORT_TRAINING_DONE: the neighbour's coordinates and epoch, and the link delay in picoseconds (R347, R351). -/
def execPortTrainingDone (p : Fin 6) (n : Fin 0x1000000) (epoch : Word) (delay : Nat) (s : State) : Out :=
  let p := p.val
  if s.portState p ≠ PT.TRAINING then .next s
  else
    let s := ((s.setReg (Od.NEIGHBOUR_COORD p) n.val).setReg (Od.NEIGHBOUR_EPOCH p) epoch.toNat).setReg (Od.LINK_DELAY_PS p) delay
    if acceptsNeighbour s.coord p n.val = false then .next (s.portDown p 2)
    else if 500000 < delay then .next (s.portDown p 3)
    else
      let s := (s.setReg (Od.PORT_STATE p) PT.UP).setReg (Od.PORT_DOWN_REASON p) 0
      .next ((s.modPort p fun t => { t with
        lastMeasure := s.now, departed := false, forward := false, nak := false
        sentSeq := 0, gotSeq := 0, ackSeq := 0, owe0 := 0, owe1 := 0, have0 := 0, have1 := 0 }).resendBy p)

/-- PORT_LOSS_OF_LIGHT on any lane of an UP port. -/
def execPortLossOfLight (p : Fin 6) (s : State) : Out :=
  let p := p.val
  if s.portState p = PT.UP then
    let s := (s.setReg (Od.PORT_STATE p) PT.DARK).modPort p fun t => { t with darkSince := s.now, forward := false }
    .next (s.leaveUp p)
  else .next s

/-- FABRIC_FLIT_REPLAY: a flit on port `p` has a CRC error: NAK goes out and the neighbour resends it. Where the CRC fails again, a head
flit's whole message is dropped and a body flit is forwarded poisoned (R349). Too many replays in a window take the port DOWN. -/
def execFabricFlitReplay (p : Fin 6) (flit : Resent) (s : State) : Out :=
  let p := p.val
  if s.portState p ≠ PT.UP ∨ flitGood flit.first = true then .next s
  else
    let n := (s.port p).replays + 1
    let s := (s.bump Od.FAB_REPLAYS 1).modPort p fun t => { t with replays := n, nak := true }
    let s := if flitGood flit.again then s
      else if flit.head then (s.bump Od.FAB_DROPPED_MESSAGES 1).fault 5 0xFF 0xFF p 1 []
      else (s.bump Od.FAB_POISONED_FLITS 1).fault 5 0xFF 0xFF p 1 []
    .next (if s.reg Od.FAB_RETIRE_THRESHOLD < n then s.portDown p 1 else s)

/-- PORT_RETRAIN: a DOWN port goes to DARK with the lasers cycled. -/
def wrPortRetrain (p : Nat) (v : Bool) (s : State) : Wr :=
  if !v then okW s
  else if s.portState p = PT.DOWN then
    okW ((s.setReg (Od.PORT_STATE p) PT.DARK).modPort p fun t => { t with darkSince := s.now })
  else badState s (s.portState p)

def execPortRetrain (n : Nat) (p : Fin 6) (v : Bool) (s : State) : Out := s.write n (s.isOp n) (wrPortRetrain p.val v)

/-- LINK_DELAY_MEASURE: every 2^20 ticks (R351); above 500 ns the link goes DOWN (R347). -/
def execLinkDelayMeasure (p : Fin 6) (delay : Nat) (s : State) : Out :=
  let p := p.val
  if s.portState p = PT.UP ∧ (s.port p).lastMeasure + 0x100000 ≤ s.now then
    let s := (s.setReg (Od.LINK_DELAY_PS p) delay).modPort p fun t => { t with lastMeasure := s.now }
    .next (if 500000 < delay then s.portDown p 3 else s)
  else .next s

/-! ## Member notices (R361 to R364) -/

/-- A port on which a rejoin is expected (R363). -/
def State.expected (s : State) (p : Nat) : Bool := s.reg Od.EXPECT_PORT == p && decide (s.now ≤ s.reg Od.EXPECT_UNTIL)

/-- The notice goes out on every UP port but the one it came from. -/
def State.flood (s : State) (came : Option Nat) (op cause m port epoch : Nat) : State :=
  forAll (s.upPorts.filter fun q => some q ≠ came) s fun s q => s.member (s.neighbourOf q) op cause m port epoch

/-- What HB does on the first notice for a module and epoch (R362). -/
def State.memberLost (s : State) (m : Nat) : State :=
  let s := forAll (s.jobs.map Prod.fst) s fun s j =>
    if (s.jobModules j).contains m then
      let s := match (s.job j).query with
        | some (_, n, _) => (s.enableRefused n j ⟨Code.TOPOLOGY_MISMATCH, 0xFF, 0xFFFFFFFF⟩).1
        | none => s
      s.endJob j Code.MEMBER_LOST Br.MEMBER_LOST 0
    else s
  let s := s.breakSlices (fun b => b.has m) m
  let s := { s with
    resend := s.resend.filter fun r => r.msg.dst != m
    fabWait := s.fabWait.filter fun x => x.dst != m }
  let s := (s.detour (s.enters m)).fillStore
  forAll (List.range 16) s fun s e =>
    if s.verState e = VS.LOADING ∧ (match s.sliceOf (s.reg (Od.VER_SLICE e)) with
      | some k => (s.box k).has m
      | none => false) = true then (s.failVer e Code.MEMBER_LOST).setReg (Od.ADMISSION_PAUSED (s.reg (Od.VER_JOB e))) 0
    else s

/-- A notice that module `m` of an epoch is lost or departs: flooded and acted on once for each pair. -/
def State.onLoss (s : State) (came : Option Nat) (op cause m port epoch : Nat) : State :=
  if s.seen.contains (m, epoch) ∨ m = s.coord then s
  else
    let s := { s with seen := (m, epoch) :: s.seen }
    (s.flood came op cause m port epoch).memberLost m

/-- The port with this neighbour. -/
def State.portTo (s : State) (m : Nat) : Option Nat := (List.range 6).find? fun p => s.neighbourOf p == m

/-- LOS_DEBOUNCE_EXPIRY: a port DARK for LOS_DEBOUNCE_TICKS, no departure, no expected rejoin: PROBE leaves by the first UP
port of another axis. -/
def execLosDebounceExpiry (p : Fin 6) (s : State) : Out :=
  let p := p.val
  let t := s.port p
  let since := if s.reg Od.EXPECT_PORT = p then Nat.max t.darkSince (s.reg Od.EXPECT_UNTIL) else t.darkSince
  if s.portState p = PT.DARK ∧ s.neighbourOf p ≠ 0xFFFFFFFF ∧ t.departed = false ∧ t.probeUntil = none ∧
      s.expected p = false ∧ since + s.reg Od.LOS_DEBOUNCE_TICKS ≤ s.now then
    let s := s.modPort p fun t => { t with probeUntil := some (s.now + s.reg Od.PROBE_TIMEOUT_TICKS) }
    if s.upPorts.any fun q => q / 2 != p / 2 then
      .next (s.member (s.neighbourOf p) 3 0 (s.neighbourOf p) p (s.reg (Od.NEIGHBOUR_EPOCH p)))
    else .next s
  else .next s

/-- PROBE_TIMEOUT: no PROBE_ACK within PROBE_TIMEOUT_TICKS: LOST with cause DARK. -/
def execProbeTimeout (p : Fin 6) (s : State) : Out :=
  let p := p.val
  match (s.port p).probeUntil with
  | none => .next s
  | some t =>
    if s.now ≤ t then .next s
    else
      let s := s.modPort p fun x => { x with probeUntil := none, departed := true }
      .next (s.onLoss none 2 2 (s.neighbourOf p) p (s.reg (Od.NEIGHBOUR_EPOCH p)))

/-- DEPARTURE of module `m`, epoch `epoch`, arrives on port `p`. -/
def execDeparture (p : Fin 6) (m : Fin 0x1000000) (epoch : Word) (s : State) : Out :=
  let s := s.bump Od.MEMBER_NOTICES 1
  let s := match s.portTo m.val with
    | some q => s.modPort q fun t => { t with departed := true, probeUntil := none }
    | none => s
  .next (s.onLoss (some p.val) 1 0 m.val 0xFF epoch.toNat)

/-- LOST: module `m` is lost, with the reporter's cause and port. -/
def execLost (p : Fin 6) (m : Fin 0x1000000) (epoch : Word) (cause port : Byte) (s : State) : Out :=
  .next ((s.bump Od.MEMBER_NOTICES 1).onLoss (some p.val) 2 cause.toNat m.val port.toNat epoch.toNat)

/-- PROBE from module `m`: answered with PROBE_ACK. -/
def execProbe (m : Fin 0x1000000) (port : Byte) (s : State) : Out :=
  .next (s.member m.val 4 0 s.coord port.toNat (s.reg Od.RESETS % 0x100000000))

/-- PROBE_ACK from the neighbour of a probing port: the neighbour is alive, the link is at fault. -/
def execProbeAck (m : Fin 0x1000000) (s : State) : Out :=
  match (List.range 6).find? fun p => s.neighbourOf p == m.val && (s.port p).probeUntil.isSome with
  | none => .next s
  | some p => .next (s.portDown p 4)

/-- BEACON_REQ from the neighbour of port `p`. -/
def execBeaconReq (p : Fin 6) (s : State) : Out := .next (s.modPort p.val fun t => { t with forward := true })

/-- BEACON_REL from the neighbour of port `p`. -/
def execBeaconRel (p : Fin 6) (s : State) : Out := .next (s.modPort p.val fun t => { t with forward := false })

/-! ## Messages (R217, R357, R359) -/

/-- The next FSEQ expected from module `m`. -/
def State.nextFseq (s : State) (m : Nat) : Nat := Store.get 1 s.fseqRx m

/-- An FSEQ already received from a module. -/
def State.oldFseq (s : State) (m f : Nat) : Bool :=
  decide (0x80000000 ≤ (f + 0x100000000 - s.nextFseq m) % 0x100000000) || s.fseqAhead.contains (m * 0x100000000 + f)

/-- The next expected FSEQ moves over those received ahead. -/
def State.advanceFseq (s : State) (m : Nat) : Nat → State
  | 0 => s
  | k + 1 =>
    let f := s.nextFseq m
    let key := m * 0x100000000 + f
    if s.fseqAhead.contains key then
      { s with
        fseqAhead := NSet.remove s.fseqAhead key
        fseqRx := Store.set s.fseqRx m ((f + 1) % 0x100000000) }.advanceFseq m k
    else s

/-- The E2E_ACK to module `m` with the highest FSEQ received in order. -/
def State.e2eAck (s : State) (m : Nat) : State :=
  let top := (s.nextFseq m + 0xFFFFFFFF) % 0x100000000
  { s with ackedRx := Store.set s.ackedRx m top, notices := s.notices ++ [Notice.mk m 15 [top]] }.bump Od.FAB_FLITS_TX 1

/-- FSEQ values received from module `m` and not yet acknowledged. -/
def State.unackedRx (s : State) (m : Nat) : Nat :=
  (s.nextFseq m + 0xFFFFFFFF - Store.get 0 s.ackedRx m) % 0x100000000

/-- The priced fabric latency of a message of `len` bytes from module `m`, in ticks, as the enable bound it (R217, R358). -/
def State.pricedTicks (s : State) (j m len : Nat) : Nat :=
  (fabricClocks (s.job j).lat (s.job j).delay (s.jobBox j) m s.coord len + 7) / 8

/-- A message for this module leaves the arrival PF: at once, or through the elastic buffer of its job. -/
def State.arrive (s : State) (f : FabMsg) : State :=
  if f.vc = 1 ∨ f.msg.job = 0 then s.enterNet f
  else
    let j := f.msg.job
    let r := expand32 (s.jobNow j) f.stamp + s.pricedTicks j f.src f.msg.how.len
    if r ≤ s.jobNow j then s.enterNet f
    else s.modJob j fun t => { t with elastic := t.elastic ++ [Elastic.mk f r] }

/-- The destination of a DATA or REDUCE message of a job from the rank in word 3 and the slice order (R357). -/
def State.readdress (s : State) (f : FabMsg) : FabMsg :=
  let m := f.msg
  if m.type ≤ 2 ∧ m.job ≠ 0 then { f with msg := { m with dst := (s.job m.job).strandOf (s.place m.job m.value.toNat) } } else f

/-- The flits of a message through port `p`: passed on, or discarded as a duplicate, or received. -/
def State.fabArrival (s : State) (p : Nat) (fs : List FabFlit) : State :=
  match (if wholeMessage fs && fclassOf fs == 0 then fabOf fs else none) with
  | none => s
  | some m =>
    let s := (s.gotOn p fs).bump Od.FAB_FLITS_RX fs.length
    if m.dst ≠ s.coord then s.fabSend m
    else
      let m := s.readdress m
      if m.vc = 1 then s.arrive m
      else if s.oldFseq m.src m.fseq then s
      else
        let s := { s with fseqAhead := NSet.insert s.fseqAhead (m.src * 0x100000000 + m.fseq) }
        let s := s.advanceFseq m.src (s.fseqAhead.length + 1)
        let s := s.arrive m
        if 64 ≤ s.unackedRx m.src then s.e2eAck m.src else s

/-- FABRIC_MESSAGE_ARRIVAL on port `p`: the flits of one message, all without CRC error; a NULL flit returns acknowledgements and
credits alone (R348, R357, R359). An E2E_ACK has its own command. -/
def execFabricMessageArrival (p : Fin 6) (fs : List FabFlit) (s : State) : Out :=
  if s.portState p.val ≠ PT.UP then .next s
  else if fs.length = 1 ∧ (fs.all fun f => flitGood f && (flitFields f).null) = true then .next (s.gotOn p.val fs)
  else .next (s.fabArrival p.val fs)

/-- E2E_ACK from module `m`: every message up to FSEQ `f` leaves the resend store. -/
def execE2eAck (m : Fin 0x1000000) (f : Word) (s : State) : Out :=
  let gone (r : Resend) : Bool := r.msg.dst == m.val &&
    decide ((f.toNat + 0x100000000 - r.msg.fseq) % 0x100000000 < 0x80000000)
  .next ({ s with resend := s.resend.filter fun r => !gone r }.fillStore)

/-- E2E_ACK_SEND: an acknowledgement is due to module `m`. -/
def execE2eAckSend (m : Fin 0x1000000) (s : State) : Out :=
  if s.unackedRx m.val = 0 then .next s else .next (s.e2eAck m.val)

/-- FABRIC_RESEND_TIMEOUT: message `k` of the resend store, unacknowledged for 21,250 ticks, is sent again once its first
port is UP. -/
def execFabricResendTimeout (k : Nat) (s : State) : Out :=
  match s.resend[k]? with
  | none => .next s
  | some r =>
    let up := match (s.hopsOf r.msg).head? with
      | some p => s.portState p == PT.UP
      | none => false
    if r.sent + 21250 < s.now ∧ up = true then .next (s.resendNow k r.msg.dir) else .next s

/-! ## Slices (R352 to R354) -/

/-- Jobs bound to or enabled on slice record `k`. -/
def State.sliceJobs (s : State) (k : Nat) : List Nat :=
  (s.jobs.map Prod.fst).filter fun j => s.jobSlice j == some k && (s.jobState j == JS.BOUND || s.jobState j == JS.ENABLED)

/-- The reshape is LOCKED: a version names the slice, or a context of a job on it is not FREE. -/
def State.sliceLocked (s : State) (k : Nat) : Bool :=
  let id := s.reg (Od.SLICE_ID k)
  (id != 0 && (List.range 16).any fun e => s.reg (Od.VER_SLICE e) == id && s.verState e != VS.NONE && s.verState e != VS.FAILED) ||
    s.ctxList.any fun x => s.reg (Od.CTX_STATE x) != XS.FREE && s.jobSlice (s.reg (Od.CTX_JOB x)) == some k

/-- A job of a reshaped slice stops: strands RELEASING, still BOUND, with a stale binding, whose merge entries are freed (Table
PC-6). -/
def State.staleJob (s : State) (j : Nat) : State :=
  let s := forAll (s.jobStrands j) s fun s u => s.releaseStrand u
  let t := s.reg (Od.JOB_TENANT j)
  let s := s.setReg (Od.TENANT_SRAM_USED t) (s.reg (Od.TENANT_SRAM_USED t) - (s.job j).poolBytes)
  let s := ((s.dropHold j).setReg (Od.JOB_ENABLE j) 0).setReg (Od.JOB_STATE j) JS.BOUND
  let s := { s with merges := Store.keep s.merges fun k => k / 0x10000000000 != j }
  s.modJob j fun q => { q with stale := true, pools := [], groups := [], query := none }

/-- A field of slice record `k`: 0 ORIGIN, 1 EXTENT, 2 WRAP, 3 MASK. -/
def sliceField (f : Nat) (v : Nat) : Bool :=
  if f = 0 then decide (cx v ≤ 15) && decide (cy v ≤ 15) && decide (cz v ≤ 15) && decide (v < 0x1000000)
  else if f = 1 then decide (v < 0x1000000) && [cx v, cy v, cz v].all fun e => decide (1 ≤ e) && decide (e ≤ 16)
  else if f = 2 then decide (v ≤ 7)
  else decide (v < 2 ^ 1536)

/-- SLICE_RESHAPE (R354). -/
def wrSliceReshape (k f v : Nat) (s : State) : Wr :=
  if s.sliceLocked k then noW s Code.LOCKED
  else if !sliceField f v then noW s Code.RANGE_CONFLICT
  else
    let s := forAll (s.sliceJobs k) s fun s j => s.staleJob j
    let s := s.setReg ⟨0x4011, 2 + f, k⟩ v
    let s := { s with sliceRev := Store.set s.sliceRev k (Store.get 0 s.sliceRev k + 1) }
    okW (if s.reg (Od.SLICE_ID k) = 0 then s else s.setReg (Od.SLICE_STATE k) 1)

def execSliceReshape (n : Nat) (k : Fin 64) (f : Fin 4) (v : Nat) (s : State) : Out :=
  s.write n (s.isOp n) (wrSliceReshape k.val f.val v)

/-- A write of SLICE_ID: 0 takes the record to NONE; two records never hold one ID. -/
def wrSliceId (k v : Nat) (s : State) : Wr :=
  if s.sliceLocked k then noW s Code.LOCKED
  else if v ≠ 0 ∧ (List.range 64).any (fun i => i != k && s.reg (Od.SLICE_ID i) == v) = true then noW s Code.RANGE_CONFLICT
  else
    let s := forAll (s.sliceJobs k) s fun s j => s.staleJob j
    let s := { s with sliceRev := Store.set s.sliceRev k (Store.get 0 s.sliceRev k + 1) }
    okW ((s.setReg (Od.SLICE_ID k) v).setReg (Od.SLICE_STATE k) (if v = 0 then 0 else 1))

/-! ## The tether bypass (R360, R363) -/

/-- REJOIN: the latches of the named axes open, from BOOT_STAGE 5 onward. -/
def wrRejoin (mask : Nat) (s : State) : Wr :=
  if 7 < mask then noW s Code.RANGE_CONFLICT
  else if s.reg Od.BOOT_STAGE < 5 then badState s (s.reg Od.BOOT_STAGE)
  else okW (s.setReg Od.BYPASS_STATE (s.reg Od.BYPASS_STATE - (s.reg Od.BYPASS_STATE &&& mask)))

def execRejoin (n : Nat) (mask : Byte) (s : State) : Out := s.write n (s.isOp n) (wrRejoin mask.toNat)

/-- EXPECT_UNTIL_EXPIRY: the port is not UP when EXPECT_UNTIL passes: its darkness counts from then (R363). -/
def execExpectUntilExpiry (s : State) : Out :=
  let p := s.reg Od.EXPECT_PORT
  if p < 6 ∧ s.reg Od.EXPECT_UNTIL < s.now ∧ s.portState p ≠ PT.UP then
    .next ((s.modPort p fun t => { t with darkSince := s.reg Od.EXPECT_UNTIL, departed := false }).setReg Od.EXPECT_PORT 0xFF)
  else .next s

end Sys2Proof.Machine
end

