-- ==== Sys2Proof/Machine/Reliability.lean ====
section
/-!
DEFINITION. Checking, preflight, heartbeat, the reset ladder and the crash dump (R387 to R404), with the reset of the whole
module (Table RL-7).
-/
namespace Sys2Proof.Machine

/-! ## Poison reports (R388, R389) -/

/-- The role of the strand's rank. -/
def State.roleAt (s : State) (u : Nat) : Option RoleImg :=
  (s.boundPlan (s.strandJob u)).bind fun p => (p.rankRole (s.strand u).rank).map Prod.fst

/-- KIND of the allocation that SRAM offset `o` lies in, for the strand whose page it is; 0 where none. -/
def State.allocKind (s : State) (u o : Nat) : Nat :=
  match (s.roleAt u).bind fun r => r.allocs.find? fun a => decide (a.off ≤ o) && decide (o < a.off + a.len) with
  | some a => a.kind
  | none => 0

/-- READY handles of a job with a block at offset `o` of the KV_POOL of rank `k`. -/
def State.handlesAt (s : State) (j k o : Nat) : List Nat :=
  match (s.job j).pools.find? fun x => x.1 == 4 && x.2.1 == k with
  | none => []
  | some x => (s.prefixes.map Prod.fst).filter fun e =>
      s.reg (Od.PREFIX_STATE e) == 2 && s.reg (Od.PREFIX_JOB e) == j &&
        (blocksOf (Store.get Prefix.new s.prefixes e).runs).any fun b =>
          decide (x.2.2.1 + Config.kvPlace j k b ≤ o) && decide (o < x.2.2.1 + Config.kvPlace j k b + Config.kvShare j k)

/-- Adapter generations of a job with offset `o` of the ADAPTER_POOL of rank `k`: entry and generation. -/
def State.gensAt (s : State) (j k o : Nat) : List (Nat × AdGen) :=
  match (s.job j).pools.find? fun x => x.1 == 5 && x.2.1 == k with
  | none => []
  | some x => (s.adapters.map Prod.fst).flatMap fun e =>
      if s.reg (Od.AD_JOB e) = j then
        ((Store.get Adapter.new s.adapters e).gens.filter fun (g : AdGen) =>
          decide (x.2.2.1 + g.off ≤ o) && decide (o < x.2.2.1 + g.off + g.perRank)).map fun g => (e, g)
      else []

/-- POISON_REPORT of word `w` of a cluster after a failed re-read in bank `bank`: the record, and what Table RL-2 ends. -/
def execPoisonReport (c : ClusterId) (w : Fin 655360) (bank : Fin 80) (s : State) : Out :=
  let n := c.num
  let o := 4 * w.val
  if s.sramParity.mem (wordAt n o) = false then .next s
  else
    let g := s.page n (o / 4096)
    let u := 2 * n + g.strand
    let j := if g.valid then s.strandJob u else 0
    let k := (s.strand u).rank
    let kind := if j = 0 then 0 else s.allocKind u o
    let s := s.clFault 1 n bank.val o (leBytes 1 j ++ leBytes 2 (if g.valid then g.tenant else 0) ++ leBytes 1 kind)
    if j = 0 then .next s
    else if kind = 1 then .next (s.poisonJob j)
    else if kind = 4 then .next (forAll (s.handlesAt j k o) s fun s e => s.evictPrefix e 4)
    else if kind = 5 then .next (forAll (s.gensAt j k o) s fun s x =>
      let b := beBytes 4 (s.adapterHandle x.1) ++ beBytes 4 x.2.num ++ beBytes 1 c.die.val ++ beBytes 1 c.k.val ++ beBytes 2 0
      (s.event 0x12 (.tenant (s.reg (Od.AD_TENANT x.1))) b).event 0x12 .mgmt b)
    else .next s

/-! ## Preflight (R390 to R393) -/

/-- Ticks left at a place of a cluster where a fragment may start (R390): a declared gap of either strand, an idle gap, or both
strands EMPTY; idle time has no end. -/
def State.gapLeft (s : State) (c place : Nat) : Option Nat :=
  if s.placeHolds c place = false then none
  else if place < 2 then
    (s.strand (2 * c + place)).gap.map fun g => g.2 - s.jobTime (2 * c + place)
  else some 0x100000000

/-- The place where a fragment of `n` ticks starts. -/
def State.fragmentPlace (s : State) (c n : Nat) : Option Nat :=
  (List.range 5).find? fun p => match s.gapLeft c p with
    | some l => decide (n ≤ l)
    | none => false

/-- FRAGMENT_START: the fragment due on a READY cluster starts where it fits; `a`: the array of a SEQUENCER fragment. -/
def execFragmentStart (c : ClusterId) (a : Fin 34) (s : State) : Out :=
  let n := c.num
  let k := s.cluster n
  let x := 34 * n + a.val
  match s.dueFragment n with
  | none => .next s
  | some f =>
    let fit : Bool := f.cls != 7 || ((s.array x).idle && s.arrState x != AS.PROGRAMMING && s.arrState x != AS.RETIRED)
    match s.fragmentPlace n f.ticks with
    | none => .next s
    | some p =>
      if s.reg Od.PREFLIGHT_EN = 1 ∧ s.reg (csObj n) = CS.READY ∧ k.pfRunning = none ∧ s.gated n = false ∧ fit = true ∧
          s.reg Od.MODULE_STATE ≠ MS.LEAVING then
        .next (s.setCluster n { k with
          pfRunning := some ⟨s.now, p, a.val⟩
          pfPack := (s.duePlace n).1
          pfFrag := (s.duePlace n).2
          packs := s.packsOf n
          inRound := true
          roundStart := if k.inRound then k.roundStart else s.now })
      else .next s

/-- The fragment after this one becomes due; after the last one a round is complete. -/
def State.nextFragment (s : State) (c : Nat) : State :=
  let k := s.cluster c
  let l := fragmentOrder (s.packsOf c)
  let i := (l.findIdx? fun e => e == (k.pfPack, k.pfFrag)).getD 0
  let k := { k with pfRunning := none, pfMismatch := false }
  if i + 1 < l.length then
    let e := l.getD (i + 1) (0, 0)
    s.setCluster c { k with pfPack := e.1, pfFrag := e.2 }
  else
    let s := s.setCluster c { k with inRound := false, packs := [], lastRound := s.now, roundLen := s.now - k.roundStart }
    s.setReg Od.ROUND_TICKS_MAX (s.clusters.foldl (fun (m : Nat) (x : Nat × Cluster) => Nat.max m x.2.roundLen) 0)

/-- A cluster is reset and then retired (Table RL-3, R393); its window starts at `start`. -/
def State.resetToRetire (s : State) (c why start : Nat) : State :=
  (s.clusterReset c Code.ORPHANED Br.ORPHANED 0).modCluster c fun k => { k with retireAfterReset := some ⟨why, start⟩ }

/-- The fault action of a fragment class (Table RL-3). -/
def State.fragmentAction (s : State) (c : Nat) (f : Fragment) (arr last : Nat) (rows : Bool) : State :=
  if f.cls = 7 then s.setReg (arObj 0x26 9 (34 * c + arr)) 3
  else if f.cls = 4 ∧ rows = false then s
  else s.resetToRetire c 1 last

/-- FRAGMENT_END: the running fragment's length has passed and its signature is `sig`; `bad`: words whose re-read failed in an
SRAM_READ fragment, `rows`: a bank failed on 3 distinct rows. -/
def execFragmentEnd (c : ClusterId) (sig : Word) (bad : List Nat) (rows : Bool) (s : State) : Out :=
  let n := c.num
  let k := s.cluster n
  match k.pfRunning, s.dueFragment n with
  | some r, some f =>
    if s.now < r.start + f.ticks then .next s
    else
      let s := s.bump Od.FRAGMENTS_RUN 1
      let s := if f.cls = 4 then
          forAll (bad.filter fun w => decide (w < 655360)) s fun s w =>
            { s.bump (clCnt n 2) 1 with sramParity := s.sramParity.insert (wordAt n (4 * w)) }
        else s
      let key := 0x10000 * k.pfPack + k.pfFrag
      if sig.toNat = f.sig then
        .next ((s.modCluster n fun k => { k with pfPassed := Store.set k.pfPassed key s.now }).nextFragment n)
      else if k.pfMismatch = false then .next (s.modCluster n fun k => { k with pfRunning := none, pfMismatch := true })
      else
        let last := Store.get 0 k.pfPassed key
        let s := (s.bump Od.FRAGMENTS_FAILED 1).clFault 0xA n k.pfFrag (k.pfPack + 0x100 * f.cls)
          (leBytes 4 f.sig ++ leBytes 4 sig.toNat)
        let s := s.event 0x15 .mgmt (beBytes 1 c.die.val ++ beBytes 1 c.k.val ++ beBytes 1 k.pfPack ++ beBytes 1 f.cls ++
          beBytes 4 k.pfFrag)
        .next ((s.nextFragment n).fragmentAction n f r.array last rows)
  | _, _ => .next s

/-! ## Holds that last, heartbeat, firmware faults (R395, R396) -/

/-- HOLD_STUCK: one hold of job `j` has lasted HOLD_ALARM_TICKS. -/
def execHoldStuck (j : Nat) (s : State) : Out :=
  match (s.job j).holdStart with
  | none => .next s
  | some t =>
    if (s.job j).alarmed = false ∧ t + s.reg Od.HOLD_ALARM_TICKS ≤ s.now then
      let cause := s.reg (Od.LAST_HOLD_CAUSE j)
      let s := s.fault 0xF 0xFF 0xFF j cause (leBytes 8 t)
      let s := s.event 0x11 .mgmt (beBytes 1 j ++ beBytes 1 cause ++ beBytes 2 0 ++ beBytes 4 (short32 t))
      .next (s.modJob j fun q => { q with alarmed := true })
    else .next s

/-- A write of HEARTBEAT: the value waits for every core's next service loop. -/
def wrHeartbeat (v : Nat) (s : State) : Wr :=
  if v = 0 then noW s Code.RANGE_CONFLICT
  else okW { s.setReg Od.HEARTBEAT_CORES 0 with hbPending := some v }

def execHeartbeat (n : Nat) (v : Word) (s : State) : Out := s.write n (s.isOp n) (wrHeartbeat v.toNat)

/-- SERVICE_LOOP_DONE of a control core. -/
def execServiceLoopDone (core : Fin 8) (s : State) : Out :=
  if s.fwStopped then .next s
  else
    let m := s.reg Od.HEARTBEAT_CORES ||| 2 ^ core.val
    let s := s.setReg Od.HEARTBEAT_CORES m
    match s.hbPending with
    | some v => if m = 0xFF then .next { s.setReg Od.HEARTBEAT v with hbPending := none } else .next s
    | none => .next s

/-- FIRMWARE_FAULT: 1 double-bit error, 2 exception, 3 assertion; record, event, and firmware stops. -/
def execFirmwareFault (core : Fin 8) (kind : Fin 3) (pc addr : Word) (s : State) : Out :=
  if s.fwStopped then .next s
  else
    let s := s.fault 0xE HB 0xFF core.val (kind.val + 1) (leBytes 4 pc.toNat ++ leBytes 4 addr.toNat)
    .next { s.event 0x13 .mgmt (beBytes 1 core.val ++ beBytes 1 (kind.val + 1) ++ beBytes 2 0) with fwStopped := true }

/-! ## Records and dumps of a reset (R398, R401) -/

/-- The jobs of a list that a reset ends. -/
def State.ending (s : State) (l : List Nat) : List Nat :=
  l.filter fun j => s.jobState j == JS.BOUND || s.jobState j == JS.ENABLED

/-- Bit j for job j + 1. -/
def jobMask (l : List Nat) : Nat := l.foldl (fun a j => a ||| 2 ^ (j - 1)) 0

/-- A RESET record (Table RL-5). -/
def State.resetRecord (s : State) (die cl level cause : Nat) (jobs : List Nat) : State :=
  s.fault 0xD die cl 0xFFFF (level + 0x100 * cause) (leBytes 8 (jobMask jobs))

/-- HB starts to write the crash dump, unless a valid one is locked. -/
def State.startDump (s : State) (level unit cause : Nat) : State :=
  if s.reg Od.DUMP_LOCK = 1 ∧ s.reg Od.DUMP_VALID = 1 then s
  else { s.setReg Od.DUMP_VALID 0 with resets := s.resets ++ [ResetJob.mk level unit cause s.now] }

/-! ## The module reset (R399) -/

/-- Objects that a module reset keeps: the persistent ones, what describes the arrays (states, slots, formats), and RETIRED
clusters. -/
def keptKey (k v : Nat) : Bool :=
  let o := Obj.ofKey k
  (Od.norm o.idx == 0x3021 && decide (1 ≤ o.sub) && decide (o.sub ≤ 3)) ||
  (Od.norm o.idx == 0x3041 && o.sub == 1 && v == CS.RETIRED) ||
  (match Od.row? o.idx o.sub with
    | some r => r.persistent
    | none => false)

/-- An array keeps its cells, scales, envelope and the ZERO_REF values of its rest calibration. -/
def ArrayU.kept (a : ArrayU) : ArrayU :=
  { ArrayU.new with
    cells := a.cells, refs := a.refs, scales := a.scales, eqFrom := a.eqFrom, envLow := a.envLow, envHigh := a.envHigh, learned := a.learned
    excursions := a.excursions, zeroRest := a.zeroRest, cleanBefore := a.cleanBefore, leftActive := a.leftActive }

/-- A cluster keeps its slot maps. -/
def Cluster.kept (k : Cluster) : Cluster :=
  { Cluster.new with slotMap0 := k.slotMap0, slotMap1 := k.slotMap1, pendingSlots := Store.keep k.pendingSlots fun x => decide (64 ≤ x) }

/-- Versions after a module reset (R296). -/
def State.resetVersion (s : State) (e : Nat) : State :=
  let st := s.verState e
  if st = VS.CURRENT then s.setReg (Od.VER_STATE e) VS.READY
  else if st = VS.RELEASING then s.verToNone e
  else if st = VS.DECLARED ∨ st = VS.WAITING ∨ st = VS.LOADING then
    let s := forAll (s.version e).blocks s fun s b => match b.array with
      | some x => if s.arrState x = AS.PROGRAMMING then s.setReg (asObj (acl x) (anum x)) AS.FREE else s
      | none => s
    ((s.setReg (Od.VER_STATE e) VS.FAILED).setReg (Od.VER_REASON e) Code.MEMBER_LOST).modVersion e fun v => { v with failedAt := 0 }
  else s

/-- What the module holds after a reset (Table RL-7). -/
def State.afterReset (s : State) : State :=
  { State.reset with
    regs := s.regs.filter fun e => keptKey e.1 e.2
    clusters := s.clusters.map fun (e : Nat × Cluster) => (e.1, e.2.kept)
    arrays := s.arrays.map fun (e : Nat × ArrayU) => (e.1, e.2.kept)
    prefixes := s.prefixes.map fun (e : Nat × Prefix) => (e.1, { Prefix.new with reuse := e.2.reuse })
    adapters := s.adapters.map fun (e : Nat × Adapter) => (e.1, { Adapter.new with reuse := e.2.reuse })
    versions := s.versions.map fun (e : Nat × Version) =>
      (e.1, { e.2 with readers := [], switchAt := none, reported := [], pointerAt := none })
    wire := s.wire
    fabOut := s.fabOut
    notices := s.notices
    ethOut := s.ethOut
    sliceRev := s.sliceRev
    faults := s.faults
    exposures := s.exposures
    dump := s.dump
    packs := s.packs
    eqTime := s.eqTime
    security := { s.security with staged := [], failures := [], lockouts := [], lastSign := none }
    tables := s.tables
    bring := { Bring.new with mrstN := s.bring.mrstN, pwrgd := s.bring.pwrgd, ecIn := s.bring.ecIn, slot := s.bring.slot, strap := ⟨s.bring.strap.level, 0⟩ }
    i2c := s.i2c
    freeN := s.freeN
    pending := s.pending }

/-- A module reset with its cause (Table RL-7): an unforeseen one writes its record now; bring-up starts again once both pins are
high (R454). A dump not yet committed leaves DUMP_VALID at 0. -/
def State.moduleReset (s : State) (cause : Nat) (foreseen : Bool) : State :=
  let s := if foreseen then s else s.resetRecord 0xFF 0xFF 3 cause (s.ending (s.jobs.map Prod.fst))
  let s := forAll (s.clusters.map Prod.fst) s fun s c => s.abandonTransit c
  let s := forAll (s.versions.map Prod.fst) s fun s e => s.resetVersion e
  let s := (s.inc64 Od.RESETS).afterReset
  let s := (s.setReg Od.LAST_RESET_CAUSE cause).setReg Od.LAST_RESET_FORESEEN (if foreseen then 1 else 0)
  s.setReg Od.BOOT_STAGE (if s.bring.mrstN && s.bring.pwrgd then 1 else 0)

/-! ## The reset commands (R398) -/

/-- RESET_CLUSTER of 96 × n + K. -/
def wrResetCluster (c : Nat) (s : State) : Wr :=
  let st := s.reg (csObj c)
  if 1535 < c then noW s Code.RANGE_CONFLICT
  else if st = CS.READY ∨ st = CS.RETENTION then
    let js := s.ending ([2 * c, 2 * c + 1].map fun u => s.strandJob u)
    let s := s.clusterReset c Code.ORPHANED Br.ORPHANED 0
    okW ((s.resetRecord (dieOf c) (kOf c) 1 0 js).startDump 1 c 0)
  else badState s st

def execResetCluster (n : Nat) (c : BitVec 16) (s : State) : Out := s.write n (s.isOp n) (wrResetCluster c.toNat)

/-- CLUSTER_RESET_DONE: READY, or RETIRED where the reset precedes a retirement (R393). -/
def execClusterResetDone (c : ClusterId) (s : State) : Out :=
  let n := c.num
  if s.reg (csObj n) = CS.RESET then
    let s := forAll [2 * n, 2 * n + 1] s fun s u =>
      (((s.freeObjs u).setReg (ssObj u) SS.EMPTY).setReg (sjObj u) 0).setReg (hoObj u) 0
    let s := match (s.cluster n).retireAfterReset with
      | some r => (s.modCluster n fun k => { k with retireAfterReset := none }).retireCluster n r.why r.start
      | none => s.setReg (csObj n) CS.READY
    .next (forAll (s.jobs.map Prod.fst) s fun s j => s.jobToNone j)
  else .next s

/-- The die links of a die (Table DN-3). -/
def dieLinks (d : Nat) : List Nat := (List.range 33).filter fun l => (linkEnds l).1.1 == d || (linkEnds l).2.1 == d

/-- A link of a die under reset is retrained; jobs whose bound routes cross it end with LINK_LOST. -/
def State.retrainLink (s : State) (l : Nat) : State :=
  if s.reg (Od.LINK_STATE l) = 3 then s
  else { s.loseLink l 1 0 with linkTrainAt := Store.set s.linkTrainAt l s.now }

/-- The corrections in force of an array become their targets. -/
def State.correctNow (s : State) (x : Nat) : State :=
  let s := forAll (s.array x).ramps s fun s (e : Nat × Int × Int × Nat) => s.inForce x e.1 (s.target x e.1)
  (s.modArray x fun a => { a with ramps := [] }).setReg (Od.RAMP_LEFT x) 0

/-- The 48-bit counters of a die are cleared. -/
def State.clearCounters (s : State) (d : Nat) : State :=
  { s with regs := s.regs.filter fun e =>
      let o := Obj.ofKey e.1
      !(decide (0x3000 + 0x100 * d ≤ o.idx) && decide (o.idx < 0x3100 + 0x100 * d) &&
        (match Od.row? o.idx o.sub with
          | some r => r.counter || o.sub == 0x10
          | none => false)) }

/-- The reset of a compute die. -/
def State.resetDie (s : State) (d : Nat) : State :=
  let cs := ((List.range 96).map fun k => 96 * d + k).filter fun c => s.reg (csObj c) != CS.OFF && s.reg (csObj c) != CS.RETIRED
  let on := (cs.flatMap fun c => [s.strandJob (2 * c), s.strandJob (2 * c + 1)])
  let cross := (dieLinks d).flatMap fun l => linkJobs s l
  let js := (s.ending (on ++ cross)).eraseDups
  let s := forAll cs s fun s c => s.clusterReset c Code.RESET Br.RESET 2
  let s := forAll (dieLinks d) s fun s l => s.retrainLink l
  let s := forAll ((s.arrays.map Prod.fst).filter fun x => x / 3264 == d) s fun s x => s.correctNow x
  let s := { s.clearCounters d with segReplays := Store.keep s.segReplays fun g => g / 400 != d }
  let s := (s.setReg (Od.DIE_RESET_STATE d) 1).inc64 (Od.DIE_RESETS d)
  (s.resetRecord d 0xFF 2 0 js).startDump 2 d 0

/-- A foreseen reset starts (R398, R334): LEAVING, jobs ended with RESET, record, dump; CLOSE follows the answer. -/
def State.foreseenReset (s : State) (cause : Nat) : State :=
  let all := s.jobs.map Prod.fst
  let js := s.ending all
  let s := s.setReg Od.MODULE_STATE MS.LEAVING
  let s := forAll all s fun s j => s.endJob j Code.RESET Br.RESET 3
  let s := s.resetRecord 0xFF 0xFF 3 cause js
  let s := { s with bring := { s.bring with closing := some Code.RESET } }
  let t := s.startDump 3 0 cause
  if t.resets.any fun r => r.level == 3 then t
  else { t with resets := t.resets ++ [ResetJob.mk 4 0 cause s.now] }

/-- RESET_DIE: 0 to 15 a compute die, 16 to 19 a module reset. -/
def wrResetDie (d : Nat) (s : State) : Wr :=
  if 19 < d then noW s Code.RANGE_CONFLICT
  else if d < 16 then okW (s.resetDie d)
  else okW (s.foreseenReset 1)

def execResetDie (n : Nat) (d : Byte) (s : State) : Out := s.write n (s.isOp n) (wrResetDie d.toNat)

/-- DIE_RESET_DONE. -/
def execDieResetDone (d : Fin 16) (s : State) : Out :=
  if s.reg (Od.DIE_RESET_STATE d.val) = 1 then .next (s.setReg (Od.DIE_RESET_STATE d.val) 0) else .next s

/-- RESET_MODULE. -/
def wrResetModule (v : Bool) (s : State) : Wr := okW (if v then s.foreseenReset 1 else s)

/-- RESET_MODULE of a session; where firmware has stopped, PH notes the write of an operator session (R398). -/
def execResetModule (n : Nat) (v : Bool) (s : State) : Out :=
  if s.fwStopped ∧ v = true ∧ (s.session n).isOpen = true ∧ s.isOp n = true ∧ s.bring.phReset = none then
    .next { s with bring := { s.bring with phReset := some (s.now + 212500) } }
  else s.write n (s.isOp n) (wrResetModule v)

/-- DEPARTURE on every UP port (R361). -/
def State.depart (s : State) : State :=
  forAll s.upPorts s fun s p => s.member (s.neighbourOf p) 1 0 s.coord 0xFF (s.reg Od.RESETS % 0x100000000)

/-- CRASH_DUMP_COMMITTED: the last byte of the dump under way is committed; its bytes are a free value but for the header's level,
cause, count and RESETS, whose places the spec does not give (log entry 48). A module reset goes on with DEPARTURE; a trip
response ends in TRIPPED. -/
def State.commitDump (s : State) (r : ResetJob) : State :=
  let len := Config.freeNat s.freeN % 0x1000001
  let b := Config.freeBytes (s.freeN + 1) len
  let s := { s with freeN := s.freeN + 2, dump := b }
  (((s.setReg Od.DUMP_VALID 1).setReg Od.DUMP_LEN b.length).setReg Od.DUMP_TIME s.now).setReg Od.DUMP_LEVEL r.level

/-- The steps of R398 after the dump: DEPARTURE, then 2,125 ticks until the module enters reset. -/
def State.goDark (s : State) (cause : Nat) : State :=
  let s := s.depart
  { s with bring := { s.bring with departAt := some (s.now + 2125, cause) } }

/-- The end of a trip response (R423 to R425): RESETS, cause 5, THERMAL_STATE TRIPPED, or off where TRIP_LATCH_A0800 is set. -/
def State.tripped (s : State) : State :=
  let at' := s.bring.tripAt
  let now := s.count
  let s := s.moduleReset 5 true
  let s := (s.setReg Od.THERMAL_STATE 1).setReg Od.BOOT_STAGE 0x81
  { s with count := now, bring := { s.bring with tripAt := at', latched := s.reg Od.TRIP_LATCH_A0800 == 1 } }

def execCrashDumpCommitted (s : State) : Out :=
  match s.resets with
  | [] => .next s
  | r :: rest =>
    let s := { s with resets := rest }
    let s := if r.level ≤ 3 then s.commitDump r else s
    if r.level < 3 then .next s
    else if s.bring.tripping then .next s.tripped
    else .next (s.goDark r.cause)

/-- DEPARTURE_WAIT_EXPIRY: 2,125 ticks after DEPARTURE the module enters reset (R361). -/
def execDepartureWaitExpiry (s : State) : Out :=
  match s.bring.departAt with
  | none => .next s
  | some (t, cause) => if t ≤ s.now then .next (s.moduleReset cause true) else .next s

/-- PH_RESET_TIMEOUT: firmware did not take the write within 212,500 ticks (R398). -/
def execPhResetTimeout (s : State) : Out :=
  match s.bring.phReset with
  | none => .next s
  | some t => if t ≤ s.now then .next (s.moduleReset 2 false) else .next s

/-! ## Pins (R454) -/

/-- MRST_N and PWRGD after a level that lasted 10 us: low resets the module, which stays in reset; both high restarts bring-up. -/
def State.pins (s : State) (mrstN pwrgd : Bool) : State :=
  let low := !mrstN || !pwrgd
  let was := !s.bring.mrstN || !s.bring.pwrgd
  let s := { s with bring := { s.bring with mrstN := mrstN, pwrgd := pwrgd } }
  if s.bring.latched && pwrgd then s
  else if s.bring.latched then s.moduleReset 4 false
  else if low && !was then s.moduleReset (if pwrgd then 3 else 4) false
  else if low then (if !mrstN && !pwrgd then s.setReg Od.LAST_RESET_CAUSE 4 else s)
  else if was then s.setReg Od.BOOT_STAGE 1
  else s

/-- MRST_N takes a level for 10 us or more. -/
def execMrstN (v : Bool) (s : State) : Out := .next (s.pins v s.bring.pwrgd)

/-- PWRGD takes a level for 10 us or more. -/
def execPwrgd (v : Bool) (s : State) : Out := .next (s.pins s.bring.mrstN v)

/-- DUMP_CLEAR. -/
def wrDumpClear (v : Bool) (s : State) : Wr := okW (if v then s.setReg Od.DUMP_VALID 0 else s)

def execDumpClear (n : Nat) (v : Bool) (s : State) : Out := s.write n (s.isOp n) (wrDumpClear v)

end Sys2Proof.Machine
end

