-- ==== Sys2Proof/Machine/Power.lean ====
section
/-!
DEFINITION. Clocks, operating points, power domains, temperature sensors, venting and the thermal trip (R405 to R428).
-/
namespace Sys2Proof.Machine

/-! ## Clocks (R406, R408) -/

/-- PLL_STABLE: the package PLL during bring-up (no die named), or the PLL of a die whose operating point changes (R410). -/
def execPllStable (die : Option (Fin 16)) (s : State) : Out :=
  match die with
  | none =>
    if s.reg Od.BOOT_STAGE = 3 then .next ((s.setReg Od.BOOT_STAGE 4).setReg Od.REF_STATE 2) else .next s
  | some d =>
    match s.reg (Od.DIE_OPP d.val), Store.get? s.oppTarget d.val with
    | 0xFF, some t =>
      .next { (s.setReg (Od.DIE_OPP d.val) t).bump (Od.OPP_CHANGES d.val) 1 with
        oppTarget := Store.erase s.oppTarget d.val
        volt := Store.set s.volt d.val t }
    | _, _ => .next s

/-- REF_LOSS: 16 reference edges are missing, or the package PLL's lock detector deasserts (`lock`): holdover and drain. -/
def execRefLoss (lock : Bool) (s : State) : Out :=
  if s.refHold.isSome ∨ s.reg Od.REF_STATE ≠ 2 then .next s
  else
    let s := { (s.setReg Od.REF_STATE 3).inc64 Od.REF_LOSSES with refHold := some s.now }
    let s := s.fault 0x102 0xFF 0xFF 0xFFFF (if lock then 2 else 1) []
    .next s.depart

/-- REF_HOLDOVER_EXPIRY: 425,000 ticks after the loss the module resets with cause 6 and bring-up starts from CDR lock. -/
def execRefHoldoverExpiry (s : State) : Out :=
  match s.refHold with
  | none => .next s
  | some t =>
    if t + 425000 ≤ s.now then .next ((s.moduleReset 6 false).setReg Od.BOOT_STAGE 2) else .next s

/-! ## Operating points (R409, R410) -/

/-- The point that a die must run at: P0 with a strand that is not EMPTY or a bound route into its rings, else DIE_IDLE_OPP. -/
def State.oppWanted (s : State) (d : Nat) : Nat :=
  let busy := (List.range 96).any fun k => s.strandState (2 * (96 * d + k)) != SS.EMPTY || s.strandState (2 * (96 * d + k) + 1) != SS.EMPTY
  let crossed := (dieLinks d).any fun l => !(linkJobs s l).isEmpty
  if busy || crossed then 0 else s.reg (Od.DIE_IDLE_OPP d)

/-- The change of a die to point `t` starts: a higher voltage is requested first, a lower one once the PLL is stable (R410). -/
def State.retune (s : State) (d t : Nat) : State :=
  { s with
    oppTarget := Store.set s.oppTarget d t
    volt := Store.set s.volt d (Nat.min t (Store.get 0 s.volt d)) }

/-- VSEL of a die (R452): 00b while PWRGD or MRST_N is low. -/
def State.vsel (s : State) (d : Nat) : Nat := if s.bring.pwrgd && s.bring.mrstN then Store.get 0 s.volt d else 0

/-- OPP_CHANGE: a die that is not at its point starts to change to it. -/
def execOppChange (d : Fin 16) (s : State) : Out :=
  let t := s.oppWanted d.val
  let o := s.reg (Od.DIE_OPP d.val)
  if o = 0xFF then .next (s.retune d.val t)
  else if o = t then .next s
  else .next ((s.setReg (Od.DIE_OPP d.val) 0xFF).retune d.val t)

/-! ## Clusters (R413 to R415) -/

/-- A flit is on its way to a cluster. -/
def State.flitFor (s : State) (c : Nat) : Bool := s.net.any fun m => m.dst < 0x10000 && clOf m.dst == c

/-- A die's ring domain follows its clusters: OFF once all are OFF or RETIRED, RETENTION once none runs and no bound route
enters its rings (R414, R415). -/
def State.ringDomain (s : State) (d : Nat) : State :=
  let st (k : Nat) : Nat := s.reg (csObj (96 * d + k))
  if (List.range 96).all fun k => st k == CS.OFF || st k == CS.RETIRED then s.setReg (Od.RING_PWR d) 2
  else if ((List.range 96).all fun k => st k == CS.OFF || st k == CS.RETIRED || st k == CS.RETENTION) ∧
      (dieLinks d).all (fun l => (linkJobs s l).isEmpty) then s.setReg (Od.RING_PWR d) 1
  else s

/-- No array of a cluster is in one of the states. -/
def State.noArray (s : State) (c : Nat) (l : List Nat) : Bool := (List.range 34).all fun a => !l.contains (s.reg (asObj c a))

/-- The round that a wake of RETAIN_WAKE_S asks for has run. -/
def State.roundRun (s : State) (c : Nat) : Bool :=
  match (s.cluster c).wakeAt with
  | none => true
  | some t => decide (t ≤ (s.cluster c).lastRound) || (fragmentOrder s.packs).isEmpty

/-- CLUSTER_RETENTION: an AUTO cluster has been idle for RETAIN_IDLE_TICKS. -/
def execClusterRetention (c : ClusterId) (s : State) : Out :=
  let n := c.num
  let rest (u : Nat) : Bool := s.strandState u == SS.EMPTY || s.strandState u == SS.FROZEN
  if s.reg (csObj n) = CS.READY ∧ s.reg (Od.CL_PWR_REQ c.die.val c.k.val) = 0 ∧
      s.reg Od.RETAIN_IDLE_TICKS ≤ s.ticks - (s.cluster n).restFrom ∧ rest (2 * n) = true ∧ rest (2 * n + 1) = true ∧
      s.arraysQuiet n = true ∧ s.flitFor n = false ∧ s.noArray n [AS.PROGRAMMING, AS.SHADOW] = true ∧
      ((List.range 34).all fun a => s.seqState (34 * n + a) != 1) = true ∧ (s.cluster n).pfRunning = none ∧ s.roundRun n = true then
    .next (((s.retain n).modCluster n fun k => { k with wakeAt := none }).ringDomain c.die.val)
  else .next s

/-- CLUSTER_WAKE: a flit for the cluster, a due transit or a programming; a bind wakes its clusters itself (R414). -/
def execClusterWake (c : ClusterId) (s : State) : Out :=
  let n := c.num
  if s.flitFor n = true ∨ (s.dueArray n).isSome = true ∨ (s.nextBlock n).isSome = true then .next (s.wakeCluster n) else .next s

/-- RETAIN_WAKE_EXPIRY: RETAIN_WAKE_S since the last complete preflight round: the cluster wakes for one full round. -/
def execRetainWakeExpiry (c : ClusterId) (s : State) : Out :=
  let n := c.num
  if s.reg (csObj n) = CS.RETENTION ∧ (s.cluster n).lastRound + 212500000 * s.reg Od.RETAIN_WAKE_S ≤ s.now then
    .next ((s.wakeCluster n).modCluster n fun k => { k with wakeAt := some s.now, inRound := false, packs := [], pfMismatch := false })
  else .next s

/-- Bias that an array holds without a command: IDLE bound to a slot of a loaded strand, in SHADOW, or with a sequence. -/
def State.wantsBias (s : State) (x : Nat) : Bool :=
  let c := acl x
  s.arrState x == AS.SHADOW || s.seqState x != 0 ||
    [2 * c, 2 * c + 1].any fun u => s.strandState u != SS.EMPTY && (s.strand u).slots.any fun (e : Nat × SlotUse) => s.slotArray u e.1 == x

/-- BIAS_IDLE: ON drops to IDLE after 64 clocks without a command; else the bias is IDLE where it is wanted and OFF where not. -/
def execBiasIdle (x : ArrayId) (s : State) : Out :=
  let a := s.array x.num
  if a.bias = 2 then
    if a.idle = true ∧ a.runs = [] ∧ a.biasFrom + 64 ≤ 8 * s.now then .next (s.modArray x.num fun a => { a with bias := 1 }) else .next s
  else .next (s.modArray x.num fun a => { a with bias := if s.wantsBias x.num then 1 else 0 })

/-- A cluster switches off: SRAM contents and registers are lost, its transit ends, its domains are OFF (R411, R415). -/
def State.clusterOff (s : State) (c : Nat) : State :=
  let s := s.clusterReset c Code.ORPHANED Br.ORPHANED 0
  let s := ((s.setReg (csObj c) CS.OFF).setReg (Od.CL_COMPUTE_PWR (dieOf c) (kOf c)) 2).setReg (Od.CL_SRAM_PWR (dieOf c) (kOf c)) 2
  s.ringDomain (dieOf c)

/-- CL_PWR_REQ: 0 AUTO, 1 OFF. -/
def wrClPwrReq (c v : Nat) (s : State) : Wr :=
  let o := Od.CL_PWR_REQ (dieOf c) (kOf c)
  let st := s.reg (csObj c)
  if 1 < v then noW s Code.RANGE_CONFLICT
  else if v = 1 then
    if s.strandState (2 * c) ≠ SS.EMPTY ∨ s.strandState (2 * c + 1) ≠ SS.EMPTY ∨
        s.noArray c [AS.ACTIVE, AS.SHADOW, AS.PROGRAMMING] = false then noW s Code.LOCKED
    else
      let s := s.setReg o 1
      okW (if st = CS.OFF ∨ st = CS.RETIRED then s else s.clusterOff c)
  else
    let s := s.setReg o 0
    if st = CS.OFF ∧ 5 ≤ s.reg Od.BOOT_STAGE then
      let s := ((s.setReg (csObj c) CS.RESET).setReg (Od.CL_COMPUTE_PWR (dieOf c) (kOf c)) 0).setReg (Od.CL_SRAM_PWR (dieOf c) (kOf c)) 0
      okW (s.setReg (Od.RING_PWR (dieOf c)) 0)
    else okW s

def execClPwrReq (n : Nat) (c : ClusterId) (v : Byte) (s : State) : Out := s.write n (s.isOp n) (wrClPwrReq c.num v.toNat)

/-- FAB_PORT_PWR: 0 ON, 1 RETENTION, 2 OFF (R416). -/
def wrFabPortPwr (p v : Nat) (s : State) : Wr :=
  let crossed := s.jobs.any fun (e : Nat × Job) => e.2.ports.contains p && (s.jobState e.1 == JS.BOUND || s.jobState e.1 == JS.ENABLED)
  let st := s.portState p
  if 2 < v then noW s Code.RANGE_CONFLICT
  else if (v = 1 ∧ crossed = true) ∨ (v = 2 ∧ st ≠ PT.DOWN ∧ st ≠ PT.DARK) then noW s Code.LOCKED
  else okW (s.setReg (Od.FAB_PORT_PWR p) v)

def execFabPortPwr (n : Nat) (p : Fin 6) (v : Byte) (s : State) : Out := s.write n (s.isOp n) (wrFabPortPwr p.val v.toNat)

/-! ## Sensors (R418, R419) -/

/-- The die of a sensor, coded as DDIE. -/
def sensorDie (i : Nat) : Nat := if i < 1536 then i / 96 else 16 + (i - 1536) / 8

/-- The sensors of a die. -/
def sensorsOf (d : Nat) : List Nat := if d < 16 then (List.range 96).map fun k => 96 * d + k
  else (List.range (if d = 19 then 4 else 8)).map fun k => 1536 + 8 * (d - 16) + k

/-- A sorted list with one more value. -/
def insertInt (v : Int) : List Int → List Int
  | [] => [v]
  | x :: t => if v ≤ x then v :: x :: t else x :: insertInt v t

/-- Twice the median of a list: of an even number of values, the sum of the two in the middle (log entry 49). -/
def median2 (l : List Int) : Int :=
  let o := l.foldl (fun a v => insertInt v a) []
  o.getD (o.length / 2) 0 + o.getD ((o.length - 1) / 2) 0

/-- A reading is plausible beside the others of its die (R419), in 1/16 degree. -/
def plausible (t : Int) (others : List Int) : Bool :=
  decide (-320 ≤ t) && decide (t ≤ 2240) && (others.isEmpty || decide ((2 * t - median2 others).natAbs ≤ 800))

/-- A signed 16-bit value as an object holds it. -/
def unsigned16 (v : Int) : Nat := (BitVec.ofInt 16 v).toNat

/-- One sensor's reading at a window's end: SENSOR_TEMP, and record and event where its plausibility changes. -/
def State.readSensor (s : State) (i : Nat) (t : Int) (ok : Bool) : State :=
  let was := Store.get? s.regs (Od.SENSOR_PLAUSIBLE i).key
  let s := (s.setReg (Od.SENSOR_TEMP i) (unsigned16 t)).setReg (Od.SENSOR_PLAUSIBLE i) (if ok then 1 else 0)
  match was with
  | none => s
  | some v =>
    if (v == 1) = ok then s
    else
      let s := s.fault 0x101 (sensorDie i) 0xFF i (unsigned32 t) (leBytes 1 (if ok then 1 else 0))
      s.event 0x1A .mgmt (beBytes 2 i ++ beBytes 1 (if ok then 1 else 0) ++ beBytes 1 0)

/-- The readings of a die. -/
def readingsOf (l : List (Nat × Int)) (d : Nat) : List (Nat × Int) := l.filter fun r => sensorDie r.1 == d && decide (r.1 < 1564)

/-- The readings of a die with their plausibility. -/
def judged (l : List (Nat × Int)) : List (Nat × Int × Bool) :=
  l.map fun r => (r.1, r.2, plausible r.2 ((l.filter fun q => q.1 != r.1).map Prod.snd))

/-! ## Venting (R421) -/

/-- The new ceiling: configured, in force, floor per cent, gain per cent, excess in 1/16 degree. -/
def ventCeiling (cfg old pct gain e : Nat) : Nat :=
  let floor := (cfg * pct + 99) / 100
  let target := Nat.max floor (cfg - (cfg * gain * e + 1599) / 1600)
  if target < old then target else Nat.min target (old + (cfg + 7) / 8)

/-- The vent temperature of a die and whether an implausible sensor sets it. -/
def State.ventTemp (s : State) (l : List (Nat × Int × Bool)) : Option (Int × Bool) :=
  (l.filter fun r => s.reg (Od.SENSOR_EXCLUDE r.1) != 1).foldl (fun (a : Option (Int × Bool)) r =>
    let v : Int × Bool := if r.2.2 then (r.2.1, false) else (2000, true)
    match a with
    | some b => if b.1 < v.1 then some v else some b
    | none => some v) none

/-- The window's end for the ceiling of a compute die. -/
def State.ventDie (s : State) (d : Nat) (l : List (Nat × Int × Bool)) : State :=
  match s.ventTemp l with
  | none => s
  | some t =>
    let cfg := s.reg (Od.ACT_CEILING d)
    let e := (t.1 - int16 (s.reg Od.VENT_SETPOINT)).toNat
    let floor := (cfg * s.reg Od.VENT_FLOOR_PCT + 99) / 100
    let c := ventCeiling cfg (s.reg (Od.CEILING_NOW d)) (s.reg Od.VENT_FLOOR_PCT) (s.reg Od.VENT_GAIN_PCT) e
    let st := if c = floor then 2 else if c < cfg then 1 else 0
    let was := s.reg (Od.VENT_STATE d)
    let s := ((s.setReg (Od.VENT_TEMP d) (unsigned16 t.1)).setTicked (Od.CEILING_NOW d) c).setTicked (Od.VENT_STATE d) st
    let s := if st = 0 then s else s.bump (Od.VENT_WINDOWS d) 1
    let s := if st = 2 then s.bump (Od.FLOOR_WINDOWS d) 1 else s
    if st = was then s
    else
      let s := s.event 0x18 .mgmt (beBytes 1 d ++ beBytes 1 st ++ beBytes 2 c ++ beBytes 2 (unsigned16 t.1) ++ beBytes 2 0)
      if st = 2 then s.fault 0x103 d 0xFF 0xFFFF (if t.2 then 2 else 1) (leBytes 2 (unsigned16 t.1)) else s

/-- Live contexts of jobs with a die at its floor note it (R422). -/
def State.noteFloor (s : State) : State :=
  forAll s.ctxList s fun s x =>
    let st := s.reg (Od.CTX_STATE x)
    if 1 ≤ st ∧ st ≤ 3 ∧ s.jobAtFloor (s.reg (Od.CTX_JOB x)) = true then s.setCtx x { s.ctx x with floorSeen := true } else s

/-! ## The trip (R423) -/

/-- The plausible readings above TRIP_TEMP; an excluded sensor counts only while it is implausible (R420; log entry 50). -/
def State.overTrip (s : State) (l : List (Nat × Int × Bool)) : List (Nat × Int × Bool) :=
  l.filter fun r => r.2.2 && s.reg (Od.SENSOR_EXCLUDE r.1) != 1 && decide (int16 (s.reg Od.TRIP_TEMP) < r.2.1)

/-- A die trips: two plausible readings above TRIP_TEMP, or more than 8 implausible sensors. -/
def State.dieTrips (s : State) (l : List (Nat × Int × Bool)) : Bool :=
  decide (2 ≤ (s.overTrip l).length) || decide (8 < (l.filter fun r => !r.2.2).length)

/-- The trip response up to the crash dump (Table PW-6). -/
def State.trip (s : State) (d : Nat) (l : List (Nat × Int × Bool)) : State :=
  let hot := (((l.filter fun r => r.2.2).map fun r => r.2.1).foldl (fun a v => insertInt v a) []).reverse
  let a := unsigned16 (hot.getD 0 0)
  let b := unsigned16 (hot.getD 1 0)
  let first := match (s.overTrip l).head? with
    | some r => r.1
    | none => 0xFFFF
  let js := s.ending (s.jobs.map Prod.fst)
  let s := ((s.setReg Od.TRIP_DIE d).inc64 Od.TRIPS).setReg Od.MODULE_STATE MS.LEAVING
  let s := { s with bring := { s.bring with tripping := true, tripAt := s.now, departAt := none, phReset := none } }
  let s := forAll (s.jobs.map Prod.fst) s fun s j => s.endJob j Code.THERMAL_TRIP Br.THERMAL 1
  let s := s.fault 0x100 d 0xFF first (l.filter fun r => !r.2.2).length (leBytes 2 a ++ leBytes 2 b)
  let s := s.resetRecord 0xFF 0xFF 3 5 js
  let s := s.event 0x19 .mgmt (beBytes 1 d ++ beBytes 3 0 ++ beBytes 2 a ++ beBytes 2 b)
  let s := { s with bring := { s.bring with closing := some Code.THERMAL_TRIP } }.closeAll.depart
  let t := s.startDump 3 0 5
  if t.resets.any fun r => decide (3 ≤ r.level) then t else { t with resets := t.resets ++ [ResetJob.mk 4 0 5 s.now] }

/-- SENSOR_WINDOW: the window of 2^16 ticks ends with these readings (sensor, 1/16 degree); sensors of a die whose ring domain is
OFF are not read. -/
def execSensorWindow (readings : List (Nat × Int)) (s : State) : Out :=
  if s.now % 0x10000 ≠ 0 ∨ s.bring.tripping = true then .next s
  else
    let got (d : Nat) : List (Nat × Int × Bool) :=
      if d < 16 ∧ s.reg (Od.RING_PWR d) = 2 then [] else judged (readingsOf readings d)
    let dies := (List.range 20).map fun d => (d, got d)
    let s := forAll dies s fun s e =>
      let s := forAll e.2 s fun s r => s.readSensor r.1 r.2.1 r.2.2
      let s := { s with eqTime := e.2.foldl (fun m r => if r.1 < 1536 then Store.set m r.1 (Store.get 0 m r.1 + eqTicks r.2.1) else m) s.eqTime }
      if e.1 < 16 then s.setReg (Od.IMPLAUSIBLE_SENSORS e.1) (e.2.filter fun r => !r.2.2).length else s
    match dies.find? fun e => s.dieTrips e.2 with
    | some e => if s.reg Od.THERMAL_STATE = 1 then .next s else .next (s.trip e.1 e.2)
    | none => .next (forAll (dies.filter fun e => decide (e.1 < 16)) s fun s e => s.ventDie e.1 e.2).noteFloor

/-! ## Restart (R424, R425) -/

/-- Every cluster that is neither switched OFF nor RETIRED enters RESET as its domains power up (Table PW-4). -/
def State.powerUp (s : State) : State :=
  let s := forAll (List.range 1536) s fun s c =>
    let o := Od.CL_PWR_REQ (dieOf c) (kOf c)
    if s.reg (csObj c) = CS.RETIRED ∨ s.reg o = 1 then
      (s.setReg (Od.CL_COMPUTE_PWR (dieOf c) (kOf c)) 2).setReg (Od.CL_SRAM_PWR (dieOf c) (kOf c)) 2
    else
      ((s.setReg (csObj c) CS.RESET).setReg (Od.CL_COMPUTE_PWR (dieOf c) (kOf c)) 0).setReg (Od.CL_SRAM_PWR (dieOf c) (kOf c)) 0
  let s := forAll (List.range 16) s fun s d => (s.setReg (Od.RING_PWR d) 0).ringDomain d
  forAll (List.range 6) s fun s p => s.setReg (Od.FAB_PORT_PWR p) 0

/-- Recovery starts at LINKS (Table RL-8): clusters in RESET, die links training. -/
def State.recover (s : State) : State :=
  let s := s.powerUp
  let s := forAll (List.range 33) s fun s l => { s.setReg (Od.LINK_STATE l) 1 with linkTrainAt := Store.set s.linkTrainAt l s.now }
  (s.setReg Od.RECOVERY_STATE 1).setReg Od.BOOT_STAGE 5

/-- Every plausible sensor of HB and PH reads below VENT_SETPOINT. -/
def State.cool (s : State) : Bool :=
  (sensorsOf HB ++ sensorsOf PH).all fun i =>
    s.reg (Od.SENSOR_PLAUSIBLE i) != 1 || decide (int16 (s.reg (Od.SENSOR_TEMP i)) < int16 (s.reg Od.VENT_SETPOINT))

/-- THERMAL_RESTART. -/
def wrThermalRestart (v : Bool) (s : State) : Wr :=
  let st := s.reg Od.THERMAL_STATE
  if !v then okW s
  else if st = 1 ∧ s.bring.tripAt + 212500000 ≤ s.now ∧ s.cool = true then
    okW (s.setReg Od.THERMAL_STATE 0).recover
  else badState s st

/-- The one write that TRIPPED serves (R424). -/
def execThermalRestart (n : Nat) (v : Bool) (s : State) : Out :=
  if s.reg Od.THERMAL_STATE = 1 ∧ s.silent = false ∧ s.isOp n = true then answered (wrThermalRestart v s)
  else s.write n (s.isOp n) (wrThermalRestart v)

end Sys2Proof.Machine
end

