-- ==== Sys2Proof/Machine/Security.lean ====
section
/-!
DEFINITION. Tenants, signed items, attestation and model keys (R429 to R447). Signature, tag and KEM verdicts are the commands'
operands; keys, signatures and digests that the security block makes are free values or opaque functions (log entry 32).
-/
namespace Sys2Proof.Machine

/-! ## Tenants and the operator key (R429, R436) -/

/-- OPERATOR_KEY; Zenith sets it only while it is unset. -/
def wrOperatorKey (n : Nat) (key : BitVec 256) (s : State) : Wr :=
  if n = zenith ∧ s.reg Od.OPERATOR_KEY_SET = 1 then noW s Code.LOCKED
  else okW { s.setReg Od.OPERATOR_KEY_SET 1 with security := { s.security with operatorKey := leBytes 32 key.toNat } }

def execOperatorKey (n : Nat) (key : BitVec 256) (s : State) : Out := s.write n (s.isOp n) (wrOperatorKey n key)

/-- TENANT_KEY of tenant `t`. -/
def wrTenantKey (t : Nat) (key : BitVec 256) (s : State) : Wr :=
  okW { s.setReg (Od.TENANT_STATE t) 1 with
    security := { s.security with tenantKeys := Store.set s.security.tenantKeys t (leBytes 32 key.toNat) } }

def execTenantKey (n : Nat) (t : Fin 1024) (key : BitVec 256) (s : State) : Out := s.write n (s.isOp n) (wrTenantKey t.val key)

/-- The tenant owns a job, session, context, prefix handle, adapter, version or model key. -/
def State.tenantOwns (s : State) (t : Nat) : Bool :=
  (s.jobs.any fun (e : Nat × Job) => s.jobState e.1 != JS.NONE && s.reg (Od.JOB_TENANT e.1) == t) ||
  (s.sessions.any fun (e : Nat × Session) => e.2.isOpen && e.2.tenant == some t) ||
  (s.ctxList.any fun x => s.reg (Od.CTX_STATE x) != XS.FREE && s.reg (Od.CTX_TENANT x) == t) ||
  (s.prefixes.any fun (e : Nat × Prefix) => s.reg (Od.PREFIX_STATE e.1) != 0 && s.reg (Od.PREFIX_TENANT e.1) == t) ||
  (s.adapters.any fun (e : Nat × Adapter) => e.2.gens != [] && s.reg (Od.AD_TENANT e.1) == t) ||
  ((List.range 16).any fun e => s.verState e != VS.NONE && s.reg (Od.VER_TENANT e) == t) ||
  ((List.range 256).any fun k => s.reg (Od.KEY_STATE k) == 1 && s.reg (Od.KEY_TENANT k) == t)

/-- TENANT_DELETE. -/
def wrTenantDelete (t : Nat) (v : Bool) (s : State) : Wr :=
  if !v then okW s
  else if t = 0 ∨ s.tenantOwns t = true then noW s Code.LOCKED
  else okW { s.setReg (Od.TENANT_STATE t) 0 with
    security := { s.security with tenantKeys := Store.erase s.security.tenantKeys t } }

def execTenantDelete (n : Nat) (t : Fin 1024) (v : Bool) (s : State) : Out := s.write n (s.isOp n) (wrTenantDelete t.val v)

/-! ## Signed items (R437) -/

/-- UPDATE_DATA: 4,096 bytes at UPDATE_OFFSET of the session. -/
def wrUpdateData (n : Nat) (b : List Byte) (s : State) : Wr :=
  if b.length ≠ 4096 then noW s Code.TYPE_CONFLICT
  else
    let o := s.reg (Od.UPDATE_OFFSET n)
    okW { s with security := { s.security with
      staged := ((List.range 4096).zip b).foldl (fun m e => Store.set m (o + e.1) e.2) s.security.staged } }

def execUpdateData (n : Nat) (b : List Byte) (s : State) : Out := s.write n (s.isOp n) (wrUpdateData n b)

/-- `k` staged bytes from offset `o`. -/
def Security.stagedAt (x : Security) (o k : Nat) : List Byte := (List.range k).map fun i => Store.get 0 x.staged (o + i)

/-- The number of an item as ITEM_SEL counts it. -/
def itemSel (kind item : Nat) : Nat := if kind = 0 then 0 else if kind = 1 then 1 + item else 5 + item

/-- The layout of an envelope (Table SE-3) and, for a latency table, of its body (R195): its stepping, its length, UNIT 0 to 2 and RES
bytes of 0. -/
def Security.layoutOk (x : Security) : Bool :=
  let kind := leNat (x.stagedAt 4 1)
  let item := leNat (x.stagedAt 5 1)
  let len := leNat (x.stagedAt 12 4)
  x.stagedAt 0 4 == [0x48, 0x53, 0x49, 0x31] && decide (kind ≤ 2) &&
    decide (item ≤ (if kind = 0 then 0 else if kind = 1 then 3 else 2)) && x.stagedAt 6 2 == [0, 0] &&
    decide (16 + len + 2820 ≤ 0x1000000) &&
    (kind != 2 || (decide (16 ≤ len) && leNat (x.stagedAt 16 1) == item && len == 16 + 8 * leNat (x.stagedAt 20 2) &&
      x.stagedAt 17 1 == [0] && (x.stagedAt 22 10).all (· == 0) && (List.range (leNat (x.stagedAt 20 2))).all fun i =>
        decide (leNat (x.stagedAt (34 + 8 * i) 1) ≤ 2) && x.stagedAt (35 + 8 * i) 1 == [0]))

/-- A latency table from its body (R195). -/
def Security.table (x : Security) : Nat × Store Nat :=
  let put (m : Store Nat) (i : Nat) : Store Nat :=
    Store.set m (leNat (x.stagedAt (32 + 8 * i) 2)) (leNat (x.stagedAt (36 + 8 * i) 4) + 0x100000000 * leNat (x.stagedAt (34 + 8 * i) 1))
  (leNat (x.stagedAt 18 2), (List.range (leNat (x.stagedAt 20 2))).foldl put [])

/-- A fragment of the ranges of R390 and Table RL-3. -/
def fragmentOk (f : Nat × Nat × Nat) : Bool := decide (1 ≤ f.1) && decide (f.1 ≤ 7) && decide (1 ≤ f.2.1) && decide (f.2.1 ≤ 212)

/-- Four slots of packs, slot `i` replaced. -/
def putPack (l : List (List Fragment)) (i : Nat) (p : List Fragment) : List (List Fragment) :=
  (List.range 4).map fun k => if k = i then p else l.getD k []

/-- A committed item takes effect: firmware in the inactive slot, a pack in its slot, a table from the next enable. -/
def State.commitItem (s : State) (kind item : Nat) (pack : List (Nat × Nat × Nat)) : State :=
  let x := s.security
  let sel := itemSel kind item
  let env := x.stagedAt 0 (16 + leNat (x.stagedAt 12 4) + 2820)
  let slot := if kind = 0 then (if s.bring.slot = 0 then 8 else 0) else sel
  let s := s.setReg (Od.ITEM_VERSION sel) (leNat (x.stagedAt 8 4))
  let s := { s with security := { x with items := Store.set x.items slot env } }
  if kind = 1 then
    let s := { s with packs := putPack s.packs item (pack.map fun (f : Nat × Nat × Nat) => Fragment.mk f.1 f.2.1 f.2.2) }
    s.setReg Od.PACKS_LOADED (s.packs.filter fun (p : List Fragment) => !p.isEmpty).length
  else if kind = 2 then { s with tables := Store.set s.tables item x.table }
  else s

/-- UPDATE_COMMIT: `sigOk` the signature's verdict, `pack` the fragments that a pack's body spells, whose layout the spec does not
give: class, length, signature (log entry 52). -/
def wrUpdateCommit (v sigOk : Bool) (pack : List (Nat × Nat × Nat)) (s : State) : Wr :=
  let x := s.security
  let kind := leNat (x.stagedAt 4 1)
  let item := leNat (x.stagedAt 5 1)
  if !v then okW s
  else if !x.layoutOk || (kind == 1 && !pack.all fragmentOk) then noW s Code.BAD_IMAGE
  else if !sigOk then noW (s.fault 0x201 0xFF 0xFF 0xFFFF (kind + 0x100 * item) []) Code.SIGNATURE_FAIL
  else if leNat (x.stagedAt 8 4) < s.reg (Od.ITEM_VERSION (itemSel kind item)) then noW s Code.VERSION_MISMATCH
  else okW (s.commitItem kind item pack)

def execUpdateCommit (n : Nat) (v sigOk : Bool) (pack : List (Nat × Nat × Nat)) (s : State) : Out :=
  s.write n (s.isOp n) (wrUpdateCommit v sigOk pack)

/-! ## Attestation (R438 to R441) -/

/-- 32 bytes of a measurement. -/
def measure (b : List Byte) : List Byte := leBytes 32 (Config.digest b)

/-- The entities of a persistent RW or RWL object that stands behind a selector, in the selector's order (log entry 133). -/
def entitiesOf (r : ObjRow) : List Nat :=
  if r.idx = 0x2301 then List.range 1564
  else if r.idx = 0x3001 then List.range 96
  else if r.idx = 0x4011 then List.range 64
  else if r.idx = 0x5001 then (List.range 64).map (· + 1)
  else if r.idx = 0x6011 then List.range 16
  else [0]

/-- An object's part of the string of M_CONFIG at index `i`: index, subindex and value. -/
def State.objBytes (s : State) (r : ObjRow) (i : Nat) : List Byte :=
  (entitiesOf r).flatMap fun e => leBytes 2 i ++ leBytes 1 r.sub ++ leBytes r.size (s.reg ⟨i, r.sub, e⟩)

/-- The string that M_CONFIG measures: persistent RW and RWL objects outside 9000h–9FFFh, in address order, those of the die range for
each compute die. -/
def State.configBytes (s : State) : List Byte :=
  let rows := Od.rows.filter fun r => r.persistent && (r.acc == .rw || r.acc == .rwl) && !(decide (0x9000 ≤ r.idx) && decide (r.idx < 0xA000))
  let inDies (r : ObjRow) : Bool := decide (0x3000 ≤ r.idx) && decide (r.idx < 0x4000)
  (rows.filter fun r => decide (r.idx < 0x3000)).flatMap (fun r => s.objBytes r r.idx) ++
    ((List.range 16).flatMap fun d => (rows.filter inDies).flatMap fun r => s.objBytes r (r.idx + 0x100 * d)) ++
    (rows.filter fun r => decide (0x4000 ≤ r.idx)).flatMap fun r => s.objBytes r r.idx

/-- The measurements of a report, bytes 48 to 879 (Table SE-4). -/
def State.measures (s : State) : List Byte :=
  let item (k : Nat) : List Byte := Store.get [] s.security.items k
  let orZero (b : List Byte) : List Byte := if b = [] then List.replicate 32 0 else measure b
  measure (item (if s.bring.slot = 0 then 0 else 8)) ++ ([5, 6, 7].flatMap fun k => measure (item k)) ++
    ([1, 2, 3, 4].flatMap fun k => orZero (item k)) ++ measure s.configBytes ++
    measure (leBytes 1568 (s.reg Od.KEM_PUBLIC)) ++
    ((List.range 16).flatMap fun i => if s.imageStored i then orZero (Store.get Image.new s.images i).flat else List.replicate 32 0)

/-- The body of an attestation report (Table SE-4). -/
def State.reportBody (s : State) : List Byte :=
  [0x41, 0x54, 0x53, 0x31] ++ leBytes 2 1 ++ leBytes 1 (s.reg Od.STEPPING) ++ leBytes 1 0 ++ leBytes 16 (s.reg Od.SERIAL_NUMBER) ++
    leBytes 4 (s.reg Od.FABRIC_COORD) ++ leBytes 8 (s.reg Od.RESETS) ++ leBytes 8 s.now ++ leBytes 4 (s.reg Od.FIRMWARE_VERSION) ++
    s.measures

/-- The identity key signs a report (R439, R440): the next leaf is committed, ATTEST_REPORT holds body and signature, and the
65,536th leaf from the last sends SIGNS_LOW, whose record the spec names no kind for (log entry 54). -/
def State.signReport (s : State) : State :=
  let sig := (Config.freeBytes s.freeN 2820 ++ List.replicate 2820 0).take 2820
  let low := Config.freeBytes (s.freeN + 1) 64
  let left := s.reg Od.SIGNS_LEFT
  let s := s.spend 2
  let s := (s.setReg Od.SIGN_INDEX (s.reg Od.SIGN_INDEX + 1)).setReg Od.SIGNS_LEFT (left - 1)
  let s := s.setReg Od.ATTEST_REPORT (leNat (s.reportBody ++ sig))
  if left = 65536 then s.event 0x21 .mgmt low else s

/-- ATTEST_SIGN. -/
def wrAttestSign (v : Bool) (s : State) : Wr :=
  let soon : Bool := match s.security.lastSign with
    | some t => decide (s.now < t + 212500000 * s.reg Od.ATTEST_MIN_S)
    | none => false
  if !v then okW s
  else if soon || s.reg Od.SIGNS_LEFT == 0 then noW s Code.LOCKED
  else okW { s.signReport with security := { s.security with lastSign := some s.now } }

/-- Tenant sessions may write ATTEST_SIGN too. -/
def execAttestSign (n : Nat) (v : Bool) (s : State) : Out := s.write n true (wrAttestSign v)

/-- KEM_ROTATE: a new key pair and a new report. -/
def wrKemRotate (v : Bool) (s : State) : Wr :=
  if !v then okW s
  else if s.reg Od.SIGNS_LEFT = 0 then noW s Code.LOCKED
  else
    let key := leNat ((Config.freeBytes s.freeN 1568).take 1568)
    okW ((s.spend 1).setReg Od.KEM_PUBLIC key).signReport

def execKemRotate (n : Nat) (v : Bool) (s : State) : Out := s.write n (s.isOp n) (wrKemRotate v)

/-- A report at the end of bring-up where a measurement differs from the last one (R440). -/
def State.signIfChanged (s : State) : State :=
  if s.reg Od.SIGNS_LEFT = 0 ∨ slice (leBytes 880 (s.reg Od.ATTEST_REPORT)) 48 832 = s.measures then s else s.signReport

/-! ## Model keys (R442, R443) -/

/-- KEY_INSTALL for tenant `t`: the record of Table SE-5; `tagOk`: the key unwraps; the key itself never leaves the block. -/
def wrKeyInstall (t : Nat) (b : List Byte) (tagOk : Bool) (s : State) : Wr :=
  let h := leNat (b.take 4)
  if b.length ≠ 1620 then noW s Code.TYPE_CONFLICT
  else if s.reg (Od.TENANT_PRIVILEGED t) = 0 then noW s Code.AUTH_FAIL
  else if h = 0 ∨ (s.keyEntry t h).isSome = true then noW s Code.RANGE_CONFLICT
  else match (List.range 256).find? fun k => s.reg (Od.KEY_STATE k) == 0 with
    | none => noW s Code.DOES_NOT_FIT
    | some k =>
      if !tagOk then noW s Code.DECRYPT_FAIL
      else
        let mk := Config.freeBytes s.freeN 32
        let s := ((s.setReg (Od.KEY_STATE k) 1).setReg (Od.KEY_TENANT k) t).setReg (Od.KEY_HANDLE k) h
        okW { s with freeN := s.freeN + 1, security := { s.security with modelKeys := Store.set s.security.modelKeys k mk } }

def execKeyInstall (n : Nat) (b : List Byte) (tagOk : Bool) (s : State) : Out := s.write n true (wrKeyInstall (s.actor n) b tagOk)

/-- KEY_DELETE of a handle of tenant `t`. -/
def wrKeyDelete (t h : Nat) (s : State) : Wr :=
  match s.keyEntry t h with
  | none => noW s Code.MISSING_OBJECT
  | some k =>
    if (List.range 16).any fun e => s.verState e == VS.LOADING && s.reg (Od.VER_TENANT e) == t && s.reg (Od.VER_KEY e) == h then
      noW s Code.LOCKED
    else
      let s := ((s.setReg (Od.KEY_STATE k) 0).setReg (Od.KEY_TENANT k) 0).setReg (Od.KEY_HANDLE k) 0
      okW { s with security := { s.security with modelKeys := Store.erase s.security.modelKeys k } }

def execKeyDelete (n : Nat) (h : Word) (s : State) : Out := s.write n true (wrKeyDelete (s.actor n) h.toNat)

end Sys2Proof.Machine
end

