-- ==== Sys2Proof/Machine/Bringup.lean ====
section
/-!
DEFINITION. Bring-up and recovery after a reset (R400, R457, R458), the timing-root strap (R455), and the board
controller's I2C target (R456).
-/
namespace Sys2Proof.Machine

/-- HOST_SIGNAL: signal on host lane 0 (step 3). -/
def execHostSignal (s : State) : Out :=
  if s.reg Od.BOOT_STAGE = 1 then
    .next { s.setReg Od.BOOT_STAGE 2 with bring := { s.bring with signalAt := s.now } }
  else .next s

/-- CDR_LOCK within 50 ms of the signal (step 4): the package PLL's lock count starts. -/
def execCdrLock (s : State) : Out :=
  if s.reg Od.BOOT_STAGE = 2 ∧ s.now ≤ s.bring.signalAt + 10625000 then
    let s := ((s.setReg Od.BOOT_STAGE 3).setReg Od.REF_STATE 1).setReg Od.HOST_LINK_STATE 1
    .next (s.setReg Od.TIMING_ROOT (if s.bring.strap.level then 1 else 0))
  else .next s

/-- CDR_LOCK_TIMEOUT: 50 ms without lock: back to step 3. -/
def execCdrLockTimeout (s : State) : Out :=
  if s.reg Od.BOOT_STAGE = 2 then .next (s.setReg Od.BOOT_STAGE 1) else .next s

/-- HB_BOOT: the boot ROM has verified both firmware slots (`a`, `b`: they pass; `newest`: slot 1 holds the newer): the newest
that passes starts and recovery begins, or HB enters RESCUE (R437, R458). The FIRMWARE_VERSION of another slot lies in a body
whose layout the spec does not give: a free value (log entry 52). -/
def execHbBoot (a b newest : Bool) (s : State) : Out :=
  if s.reg Od.BOOT_STAGE ≠ 4 then .next s
  else if !a && !b then
    .next { s.setReg Od.BOOT_STAGE 0x80 with bring := { s.bring with rescue := true } }
  else
    let slot := if a && b then (if newest then 1 else 0) else if b then 1 else 0
    let s := if slot = s.bring.slot then s
      else { s.setReg Od.FIRMWARE_VERSION (Config.freeNat s.freeN % 0x100000000) with freeN := s.freeN + 1 }
    .next { s.recover with bring := { s.bring with slot := slot } }

/-- TRIMS_RELOADED: once the die links have trained (Table RL-8), trims are reloaded and the sweep begins. -/
def execTrimsReloaded (s : State) : Out :=
  if s.reg Od.RECOVERY_STATE = 2 then .next (s.setReg Od.RECOVERY_STATE 3) else .next s

/-- Arrays that the sweep visits: those not FREE or RETIRED. -/
def State.sweeps (s : State) (x : Nat) : Bool := s.arrState x != AS.FREE && s.arrState x != AS.RETIRED

/-- The sweep is complete. -/
def State.swept (s : State) : Bool :=
  (List.range 52224).all fun x => !s.sweeps x || (s.array x).sweep == 1

/-- The sweep ends: RECOVERY_STATE DONE, BOOT_STAGE 6, RECOVERED to every operator session. -/
def State.recovered (s : State) : State :=
  let s := (s.setReg Od.RECOVERY_STATE 0).setReg Od.BOOT_STAGE 6
  s.event 0x14 .mgmt (beBytes 8 (s.reg Od.RESETS) ++ beBytes 1 3 ++ beBytes 1 (s.reg Od.LAST_RESET_CAUSE) ++
    beBytes 1 (s.reg Od.LAST_RESET_FORESEEN) ++ beBytes 1 0) |>.signIfChanged

/-- ARRAY_SWEEP of one array (R400): OFFSET sequence, lattice fit and reference read. `te`: the DRIFT_EQ_TIME that the fit gives;
`zero`: the sum of the 16 codes of ZERO_REF by line and path; `refErr`: the worst reference error in 1/16 level; `ambig`: the
cells within 0.05 of a half level. -/
def execArraySweep (x : ArrayId) (te : BitVec 64) (zero : List (Nat × Int)) (refErr : Int) (ambig : Nat) (s : State) : Out :=
  let n := x.num
  if s.reg Od.RECOVERY_STATE ≠ 3 ∨ (s.array n).sweep = 1 then .next s
  else
    let s := if s.sweeps n then
        let s := (s.setDrift n te.toNat).modArray n fun a => { a with calAcc := zero.foldl (fun m e => Store.set m (calLine e.1) e.2) a.calAcc }
        let s := s.setTargets n true
        let why := if 64 < 10 * refErr.natAbs then 1 else if 1024 < ambig then 2 else 0
        if why = 0 then s
        else (s.clFault 0x10 (acl n) x.a.val why (leBytes 2 (unsigned16 refErr))).setReg (arObj 0x26 9 n) 3
      else s
    let s := s.modArray n fun a => { a with sweep := 1 }
    .next (if s.swept then s.recovered else s)

/-- TIMING_ROOT: the strap's level as the module reads it; a change takes effect once it has held for 212,500 ticks (R455, R211),
and before step 5 of Table PK-5 nothing reads it. -/
def execTimingRoot (v : Bool) (s : State) : Out :=
  let p := s.bring.strap
  if p.level ≠ v then .next { s with bring := { s.bring with strap := ⟨v, s.now⟩ } }
  else if 3 ≤ s.reg Od.BOOT_STAGE ∧ p.since + 212500 ≤ s.now then .next (s.setReg Od.TIMING_ROOT (if v then 1 else 0))
  else .next s

end Sys2Proof.Machine
end

