-- ==== Sys2Proof/Machine/VecFn.lean ====
section
/-!
DEFINITION. The function evaluators (R108, Table NF-9). Special operands give the exact results of the table; every
other value is the function's own with an error that is free within the table's bound (log entry 10), rounded once.
-/
namespace Sys2Proof.Machine

/-- Functions of Table NF-9, in the order of FN. -/
inductive Fn where | exp2 | exp | rcp | rsqrt | log2 | sigm | tanh | silu
  deriving DecidableEq, Repr

def Fn.code : Fn → Nat
  | .exp2 => 0 | .exp => 1 | .rcp => 2 | .rsqrt => 3 | .log2 => 4 | .sigm => 5 | .tanh => 6 | .silu => 7

def FV.one (neg : Bool) : FV := .fin neg 1 0

/-- The special cases of Table NF-9; none where the value is evaluated. -/
def Fn.special (f : Fn) (x : FV) : Option FV :=
  match x with
  | .nan => some .nan
  | .inf neg =>
    match f with
    | .exp2 | .exp => some (if neg then .fin false 0 0 else .inf false)
    | .rcp => some (.fin neg 0 0)
    | .rsqrt => some (if neg then .nan else .fin false 0 0)
    | .log2 => some (if neg then .nan else .inf false)
    | .sigm => some (if neg then .fin false 0 0 else FV.one false)
    | .tanh => some (FV.one neg)
    | .silu => some (if neg then .fin true 0 0 else .inf false)
  | .fin neg m _ =>
    match f with
    | .rcp => if m = 0 then some (.inf neg) else none
    | .rsqrt => if m = 0 then some (.inf neg) else if neg then some .nan else none
    | .log2 => if m = 0 then some (.inf true) else if neg then some .nan else none
    | _ => none

/-! ## The functions as fractions

A magnitude is a fraction `(n, d)` with a relative error below 2^-55; the bounds of Table NF-9 are wider by far. -/

/-- The sum of the first terms of e^y for y in 2^-64: `k` terms from term number `j`, the last one `term`. -/
def expSeries (y : Nat) : Nat → Nat → Nat → Nat
  | 0, _, _ => 0
  | k + 1, j, term => term + expSeries y k (j + 1) (term * y / 2 ^ 64 / (j + 1))

/-- 2^f in 2^-64 for a fraction f in 2^-64: ln 2 is 12786308645202655660 · 2^-64. -/
def exp2Frac (f : Nat) : Nat := expSeries (f * 12786308645202655660 / 2 ^ 64) 24 0 (2 ^ 64)

/-- 2^v for v in 2^-64, limited to ±2^14. -/
def exp2Of (v : Int) : Nat × Nat :=
  let v := max (-(2 ^ 78)) (min (2 ^ 78) v)
  let k := v / 2 ^ 64
  let m := exp2Frac (v % 2 ^ 64).toNat
  if 0 ≤ k then (m * 2 ^ k.toNat, 2 ^ 64) else (m, 2 ^ (64 + (-k).toNat))

/-- A signed magnitude m · 2^e in 2^-64, limited to ±2^20. -/
def fixed64 (neg : Bool) (m : Nat) (e : Int) : Int :=
  let lim : Nat := 2 ^ 84
  let a : Nat := if (Nat.log2 m : Int) + e < -64 then 0 else if 20 < (Nat.log2 m : Int) + e then lim
    else if 0 ≤ e + 64 then m * 2 ^ (e + 64).toNat else m / 2 ^ (-(e + 64)).toNat
  if neg then -(Nat.min lim a : Nat) else (Nat.min lim a : Nat)

/-- log₂ e as FP32 holds it, 12102203 · 2^-23, times a value in 2^-64 (Table NF-9). -/
def timesLog2e (v : Int) : Int := v * 12102203 / 2 ^ 23

/-- log₂ e exactly, in 2^-64. -/
def exactLog2e (v : Int) : Int := v * 26613026195688644984 / 2 ^ 64

/-- 1 ÷ (1 + e^-v) for v in 2^-64, as a fraction with a relative error of its own size. -/
def sigmoidOf (v : Int) : Nat × Nat :=
  let e := exp2Of (exactLog2e (-(v.natAbs : Int)))
  if 0 ≤ v then (e.2, e.1 + e.2) else (e.1, e.1 + e.2)

/-- log₂ of m · 2^e in 2^-40. -/
def log2Of (m : Nat) (e : Int) : Int :=
  let b := Nat.log2 m
  let q := if b ≤ 60 then m * 2 ^ (60 - b) else m / 2 ^ (b - 60)
  ((b : Int) + e) * 2 ^ 40 + log2Bits 40 q 0

/-- The function of a finite operand that no special case takes: sign, magnitude as a fraction (Table NF-9). -/
def Fn.exact (f : Fn) (neg : Bool) (m : Nat) (e : Int) : Bool × Nat × Nat :=
  let v := fixed64 neg m e
  match f with
  | .exp2 => (false, exp2Of v)
  | .exp => (false, exp2Of (timesLog2e v))
  | .rcp => (neg, if 0 ≤ e then (1, m * 2 ^ e.toNat) else (2 ^ (-e).toNat, m))
  | .rsqrt =>
    let g := if e % 2 = 0 then (m, e) else (2 * m, e - 1)
    let r := Nat.sqrt (2 ^ 200 / g.1)
    (false, if 0 ≤ g.2 then (r, 2 ^ (100 + (g.2 / 2).toNat)) else (r * 2 ^ (-g.2 / 2).toNat, 2 ^ 100))
  | .log2 =>
    let l := log2Of m e
    (l < 0, l.natAbs, 2 ^ 40)
  | .sigm => (false, sigmoidOf v)
  | .tanh =>
    let q := sigmoidOf (2 * v)
    (neg, ((2 * q.1 : Nat) - (q.2 : Int)).natAbs, q.2)
  | .silu =>
    let q := sigmoidOf v
    (neg, if 0 ≤ e then (m * 2 ^ e.toNat * q.1, q.2) else (m * q.1, q.2 * 2 ^ (-e).toNat))

/-- The bound of Table NF-9 as a negative power of two, and whether it is absolute. -/
def Fn.bound (f : Fn) (fp32path : Bool) : Nat × Bool :=
  match f, fp32path with
  | .exp2, true => (22, false) | .exp2, false => (10, false)
  | .exp, true => (21, false) | .exp, false => (10, false)
  | .rcp, true => (22, false) | .rcp, false => (10, false)
  | .rsqrt, true => (22, false) | .rsqrt, false => (10, false)
  | .log2, true => (21, true) | .log2, false => (10, true)
  | .sigm, true => (21, true) | .sigm, false => (10, true)
  | .tanh, true => (20, true) | .tanh, false => (9, true)
  | .silu, true => (20, false) | .silu, false => (9, false)

/-- A number within ±(2^32 − 2^12), from a free one. -/
def errorPart (n : Nat) : Int := ((n % (2 ^ 33 - 2 ^ 13 + 1) : Nat) : Int) - (2 ^ 32 - 2 ^ 12)

/-- A fraction moved by `d` · 2^-32 of the bound 2^-b, relative or absolute: signed numerator and denominator. -/
def withError (neg : Bool) (q : Nat × Nat) (b : Nat) (absolute : Bool) (d : Int) : Int × Nat :=
  let n : Int := if neg then -(q.1 : Int) else q.1
  (n * 2 ^ (32 + b) + d * (if absolute then (q.2 : Int) else n), q.2 * 2 ^ (32 + b))

/-- A fraction as a value whose one rounding to a format is that of the fraction: 128 bits and a sticky bit. -/
def fracValue (zero : Bool) (q : Int × Nat) : FV :=
  if q.1 = 0 then .fin zero 0 0
  else
    let k : Int := 128 + Nat.log2 q.2 - Nat.log2 q.1.natAbs
    let n := if 0 ≤ k then q.1.natAbs * 2 ^ k.toNat else q.1.natAbs
    let d := if 0 ≤ k then q.2 else q.2 * 2 ^ (-k).toNat
    .fin (q.1 < 0) (2 * (n / d) + (if n % d = 0 then 0 else 1)) (-k - 1)

/-- EXP has a bound for this operand (Table NF-9): |x| at most 88 on the FP32 path, 11 on the FP16 path. -/
def expBounded (fp32path : Bool) (v : Int) : Bool := decide (v.natAbs ≤ (if fp32path then 88 else 11) * 2 ^ 64)

/-- A function of a value on the FP32 or FP16 path, delivered in a format without SAT. Where EXP has no bound its value is free but
for a result that is beyond the format's range whatever the error. -/
def Fn.eval (f : Fn) (fp32path : Bool) (fmt : FFmt) (x : Nat) : Nat :=
  let v := fmt.decode x
  match f.special v, v with
  | some r, _ => fmt.encode false r
  | none, .fin neg m e =>
    let q := f.exact neg m e
    let b := f.bound fp32path
    if f = .exp ∧ expBounded fp32path (fixed64 neg m e) = false then
      let lo := fmt.encode false (fracValue false ((q.2.1 : Int), 2 * q.2.2))
      let hi := fmt.encode false (fracValue false (((2 * q.2.1 : Nat) : Int), q.2.2))
      if lo = hi then lo else Config.expValue fp32path (2 ^ 32 * fmt.mbits + x) % 2 ^ (fmt.ebits + fmt.mbits)
    else fmt.encode false (fracValue q.1 (withError q.1 q.2 b.1 b.2 (errorPart (Config.fnError f.code fp32path (2 ^ 32 * fmt.mbits + x)))))
  | none, _ => fmt.qnan

/-- A function lane: FP32 whole, a 16-bit format in its half with the other half kept (Table IS-5). -/
def Fn.lane (f : Fn) (fmt : VFmt) (w old : Word) : Word :=
  match fmt with
  | .bf16 hi => setHalf old hi (f.eval false FFmt.bf16 (half w hi))
  | .fp16 hi => setHalf old hi (f.eval false FFmt.fp16 (half w hi))
  | _ => BitVec.ofNat 32 (f.eval true FFmt.fp32 w.toNat)

/-- A function instruction: FMT 0h to 4h, VB 0; the residue check covers the evaluators (R133). -/
def vecFn (f : Fn) (i : Issue) (o : VOps) (s : State) : Out :=
  if (o.fmt == .fp32 || o.fmt.is16) && o.vb == 0 then
    issue i s fun s =>
      let t := s.strand i.u.num
      s.writeV i o.vd o.pr true fun l =>
        let a := Machine.lane (t.v o.va.val) l
        let d := Machine.lane (t.v o.vd.val) l
        ⟨f.lane o.fmt a.val d.val, a.poison || (d.poison && o.fmt.is16)⟩
  else .refused .illegalEncoding

def execVexp2 (i : Issue) (o : VOps) (s : State) : Out := vecFn .exp2 i o s
def execVexp (i : Issue) (o : VOps) (s : State) : Out := vecFn .exp i o s
def execVrcp (i : Issue) (o : VOps) (s : State) : Out := vecFn .rcp i o s
def execVrsqrt (i : Issue) (o : VOps) (s : State) : Out := vecFn .rsqrt i o s
def execVlog2 (i : Issue) (o : VOps) (s : State) : Out := vecFn .log2 i o s
def execVsigm (i : Issue) (o : VOps) (s : State) : Out := vecFn .sigm i o s
def execVtanh (i : Issue) (o : VOps) (s : State) : Out := vecFn .tanh i o s
def execVsilu (i : Issue) (o : VOps) (s : State) : Out := vecFn .silu i o s

end Sys2Proof.Machine
end

