-- ==== Sys2Proof/Machine/Stepper.lean ====
section
/-!
DEFINITION. The meaning of an instruction word that DBG_STEP issues (R163): the cluster instructions of Tables IS-5, IS-7
and IS-8. No word decodes to another command.
-/
namespace Sys2Proof.Machine

/-- The effect of an instruction that a word of the instruction store spells. -/
def State.instruction (c : Instr) (s : State) : Out :=
  match c with
  | .nop iss => Sys2Proof.Machine.execNop iss s
  | .add iss rd ra rb => Sys2Proof.Machine.execAdd iss rd ra rb s
  | .sub iss rd ra rb => Sys2Proof.Machine.execSub iss rd ra rb s
  | .and iss rd ra rb => Sys2Proof.Machine.execAnd iss rd ra rb s
  | .or iss rd ra rb => Sys2Proof.Machine.execOr iss rd ra rb s
  | .xor iss rd ra rb => Sys2Proof.Machine.execXor iss rd ra rb s
  | .shl iss rd ra rb => Sys2Proof.Machine.execShl iss rd ra rb s
  | .shr iss rd ra rb => Sys2Proof.Machine.execShr iss rd ra rb s
  | .sra iss rd ra rb => Sys2Proof.Machine.execSra iss rd ra rb s
  | .mul iss rd ra rb => Sys2Proof.Machine.execMul iss rd ra rb s
  | .slt iss rd ra rb => Sys2Proof.Machine.execSlt iss rd ra rb s
  | .sltu iss rd ra rb => Sys2Proof.Machine.execSltu iss rd ra rb s
  | .min iss rd ra rb => Sys2Proof.Machine.execMin iss rd ra rb s
  | .max iss rd ra rb => Sys2Proof.Machine.execMax iss rd ra rb s
  | .addi iss rd ra imm => Sys2Proof.Machine.execAddi iss rd ra imm s
  | .andi iss rd ra imm => Sys2Proof.Machine.execAndi iss rd ra imm s
  | .ori iss rd ra imm => Sys2Proof.Machine.execOri iss rd ra imm s
  | .xori iss rd ra imm => Sys2Proof.Machine.execXori iss rd ra imm s
  | .slti iss rd ra imm => Sys2Proof.Machine.execSlti iss rd ra imm s
  | .shiShl iss rd ra sh => Sys2Proof.Machine.execShiShl iss rd ra sh s
  | .shiShr iss rd ra sh => Sys2Proof.Machine.execShiShr iss rd ra sh s
  | .shiSra iss rd ra sh => Sys2Proof.Machine.execShiSra iss rd ra sh s
  | .lui iss rd imm => Sys2Proof.Machine.execLui iss rd imm s
  | .lds iss rd ra imm => Sys2Proof.Machine.execLds iss rd ra imm s
  | .sts iss rd ra imm => Sys2Proof.Machine.execSts iss rd ra imm s
  | .sysr iss rd imm => Sys2Proof.Machine.execSysr iss rd imm s
  | .beq iss ra rb off => Sys2Proof.Machine.execBeq iss ra rb off s
  | .bne iss ra rb off => Sys2Proof.Machine.execBne iss ra rb off s
  | .blt iss ra rb off => Sys2Proof.Machine.execBlt iss ra rb off s
  | .bge iss ra rb off => Sys2Proof.Machine.execBge iss ra rb off s
  | .bltu iss ra rb off => Sys2Proof.Machine.execBltu iss ra rb off s
  | .bgeu iss ra rb off => Sys2Proof.Machine.execBgeu iss ra rb off s
  | .jal iss off => Sys2Proof.Machine.execJal iss off s
  | .jr iss ra => Sys2Proof.Machine.execJr iss ra s
  | .bpany iss pn off => Sys2Proof.Machine.execBpany iss pn off s
  | .bpall iss pn off => Sys2Proof.Machine.execBpall iss pn off s
  | .vadd iss o => Sys2Proof.Machine.execVadd iss o s
  | .vsub iss o => Sys2Proof.Machine.execVsub iss o s
  | .vmul iss o => Sys2Proof.Machine.execVmul iss o s
  | .vmax iss o => Sys2Proof.Machine.execVmax iss o s
  | .vmin iss o => Sys2Proof.Machine.execVmin iss o s
  | .vfma iss o => Sys2Proof.Machine.execVfma iss o s
  | .vand iss o => Sys2Proof.Machine.execVand iss o s
  | .vor iss o => Sys2Proof.Machine.execVor iss o s
  | .vxor iss o => Sys2Proof.Machine.execVxor iss o s
  | .vshl iss o => Sys2Proof.Machine.execVshl iss o s
  | .vshr iss o => Sys2Proof.Machine.execVshr iss o s
  | .vabs iss o => Sys2Proof.Machine.execVabs iss o s
  | .vneg iss o => Sys2Proof.Machine.execVneg iss o s
  | .vsel iss o => Sys2Proof.Machine.execVsel iss o s
  | .vexp2 iss o => Sys2Proof.Machine.execVexp2 iss o s
  | .vexp iss o => Sys2Proof.Machine.execVexp iss o s
  | .vrcp iss o => Sys2Proof.Machine.execVrcp iss o s
  | .vrsqrt iss o => Sys2Proof.Machine.execVrsqrt iss o s
  | .vlog2 iss o => Sys2Proof.Machine.execVlog2 iss o s
  | .vsigm iss o => Sys2Proof.Machine.execVsigm iss o s
  | .vtanh iss o => Sys2Proof.Machine.execVtanh iss o s
  | .vsilu iss o => Sys2Proof.Machine.execVsilu iss o s
  | .vrsum iss o => Sys2Proof.Machine.execVrsum iss o s
  | .vrmax iss o => Sys2Proof.Machine.execVrmax iss o s
  | .vrmin iss o => Sys2Proof.Machine.execVrmin iss o s
  | .vrargmax iss o => Sys2Proof.Machine.execVrargmax iss o s
  | .vcmplt iss o => Sys2Proof.Machine.execVcmplt iss o s
  | .vcmple iss o => Sys2Proof.Machine.execVcmple iss o s
  | .vcmpeq iss o => Sys2Proof.Machine.execVcmpeq iss o s
  | .vcmpne iss o => Sys2Proof.Machine.execVcmpne iss o s
  | .vcvt iss vd va pr src dst sat => Sys2Proof.Machine.execVcvt iss vd va pr src dst sat s
  | .vbcast iss vd sa pr => Sys2Proof.Machine.execVbcast iss vd sa pr s
  | .viota iss vd pr => Sys2Proof.Machine.execViota iss vd pr s
  | .vcopy iss vd va pr => Sys2Proof.Machine.execVcopy iss vd va pr s
  | .vld iss vd ra len off => Sys2Proof.Machine.execVld iss vd ra len off s
  | .vst iss vd ra len off => Sys2Proof.Machine.execVst iss vd ra len off s
  | .pand iss pd pa pb pr => Sys2Proof.Machine.execPand iss pd pa pb pr s
  | .por iss pd pa pb pr => Sys2Proof.Machine.execPor iss pd pa pb pr s
  | .pxor iss pd pa pb pr => Sys2Proof.Machine.execPxor iss pd pa pb pr s
  | .pnot iss pd pa pr => Sys2Proof.Machine.execPnot iss pd pa pr s
  | .pcnt iss sd pa pr => Sys2Proof.Machine.execPcnt iss sd pa pr s
  | .qa iss va sd sp dst mode a4 rpl x => Sys2Proof.Machine.execQa iss va sd sp dst mode a4 rpl x s
  | .qkv4 iss va sd sp => Sys2Proof.Machine.execQkv4 iss va sd sp s
  | .qkv8 iss va sd sp => Sys2Proof.Machine.execQkv8 iss va sd sp s
  | .qmx4 iss va sd sp => Sys2Proof.Machine.execQmx4 iss va sd sp s
  | .qmx5 iss va sd sp => Sys2Proof.Machine.execQmx5 iss va sd sp s
  | .mxexp iss sd sp => Sys2Proof.Machine.execMxexp iss sd sp s
  | .mximp iss sd sp => Sys2Proof.Machine.execMximp iss sd sp s
  | .dqa8 iss va sd sp => Sys2Proof.Machine.execDqa8 iss va sd sp s
  | .dqa4 iss va sd sp => Sys2Proof.Machine.execDqa4 iss va sd sp s
  | .dqkv4 iss va sd sp => Sys2Proof.Machine.execDqkv4 iss va sd sp s
  | .dqkv8 iss va sd sp => Sys2Proof.Machine.execDqkv8 iss va sd sp s
  | .dqmx4 iss va sd sp => Sys2Proof.Machine.execDqmx4 iss va sd sp s
  | .dqmx5 iss va sd sp => Sys2Proof.Machine.execDqmx5 iss va sd sp s
  | .mvm iss o => Sys2Proof.Machine.execMvm iss o s
  | .tread iss o => Sys2Proof.Machine.execTread iss o s
  | .seq0 iss o => Sys2Proof.Machine.execSeq0 iss o s
  | .seq6 iss o => Sys2Proof.Machine.execSeq6 iss o s
  | .dma iss rd ra rb notify => Sys2Proof.Machine.execDma iss rd ra rb notify s
  | .rsend iss rd ra rb ring auto reduce pack => Sys2Proof.Machine.execRsend iss rd ra rb ring auto reduce pack s
  | .rrecv iss rd ra chan notify => Sys2Proof.Machine.execRrecv iss rd ra chan notify s
  | .sinc iss obj ra => Sys2Proof.Machine.execSinc iss obj ra s
  | .sset iss obj ra => Sys2Proof.Machine.execSset iss obj ra s
  | .swait iss obj ra => Sys2Proof.Machine.execSwait iss obj ra s
  | .swaiteq iss obj ra => Sys2Proof.Machine.execSwaiteq iss obj ra s
  | .sread iss obj rd => Sys2Proof.Machine.execSread iss obj rd s
  | .ssig iss obj ra rd => Sys2Proof.Machine.execSsig iss obj ra rd s
  | .sarrive iss obj => Sys2Proof.Machine.execSarrive iss obj s
  | .twait iss p => Sys2Proof.Machine.execTwait iss p s
  | .dln iss p => Sys2Proof.Machine.execDln iss p s
  | .tbase iss p => Sys2Proof.Machine.execTbase iss p s
  | .tnow iss rd => Sys2Proof.Machine.execTnow iss rd s
  | .tgap iss g => Sys2Proof.Machine.execTgap iss g s
  | .batch iss bank => Sys2Proof.Machine.execBatch iss bank s
  | .step iss => Sys2Proof.Machine.execStep iss s
  | .endJob iss => Sys2Proof.Machine.execEnd iss s
  | .trst iss => Sys2Proof.Machine.execTrst iss s
  | .pslot iss ra => Sys2Proof.Machine.execPslot iss ra s
  | .ptag iss ra rd => Sys2Proof.Machine.execPtag iss ra rd s
  | .pcsrr iss rd n => Sys2Proof.Machine.execPcsrr iss rd n s
  | .pcsrw iss ra n => Sys2Proof.Machine.execPcsrw iss ra n s
  | .pclr iss ra => Sys2Proof.Machine.execPclr iss ra s
  | _ => .next s

end Sys2Proof.Machine
end

