-- ==== Sys2Proof/Machine/Debug.lean ====
section
/-!
DEFINITION. Debugging a job (R138, R163, R461, R444): stop, entry into DEBUG, step, resume and the register objects. And the
board controller's I2C target (R456).
-/
namespace Sys2Proof.Machine

/-! ## Rights -/

/-- The session sees the registers and pages of a job with a sealed version: it acts for the version's tenant itself (R444). -/
def State.seesSealed (s : State) (n j : Nat) : Bool :=
  !s.sealedJob j || (n != zenith && (s.session n).isOpen && (s.session n).tenant == some (s.reg (Od.JOB_TENANT j)))

/-! ## Stop and resume (R461) -/

/-- The session may debug the job: it acts for the operator or for the job's tenant. -/
def State.mayDebug (s : State) (n j : Nat) : Bool := s.actsFor n (s.reg (Od.JOB_TENANT j))

/-- The state of the job's strands here, which a refusal of R138 carries: that of the first one; EMPTY where it has none. -/
def State.jobStrandState (s : State) (j : Nat) : Nat :=
  match s.jobStrands j with
  | u :: _ => s.strandState u
  | [] => SS.EMPTY

/-- DBG_STOP of job `j`: on one module at the count + 2, on several at the count + 21,250 on every module of the block. A job whose strands
are in DEBUG already is refused with their state (R138). -/
def wrDbgStop (j : Nat) (v : Bool) (s : State) : Wr :=
  if !v then okW s
  else if s.jobState j ≠ JS.ENABLED then badState s (s.jobStrandState j)
  else if s.reg (Od.JOB_DEBUG j) ≠ 1 then noW s Code.LOCKED
  else if s.jobStrandState j = SS.DEBUG then badState s SS.DEBUG
  else if (s.job j).dbgStopAt.isSome then okW s
  else
    let others := (s.jobModules j).filter fun m => m != s.coord
    let t := s.now + (if others = [] then 2 else 21250)
    let s := forAll others s fun s m => s.notice m 17 [j, t]
    okW (s.modJob j fun k => { k with dbgStopAt := some t })

def execDbgStop (n : Nat) (v : Bool) (s : State) : Out :=
  let j := s.reg (Od.DBG_JOB n)
  s.write n (s.mayDebug n j) (wrDbgStop j v)

/-- A strand stops for the debugger (Table CL-6). -/
def State.enterDebug (s : State) (u : Nat) : State :=
  let st := s.strandState u
  if st = SS.RUNNING ∨ st = SS.HELD ∨ st = SS.FROZEN then
    (s.modStrand u fun t => { t with wasFrozen := decide (st = SS.FROZEN), stepping := false }).setReg (ssObj u) SS.DEBUG
  else s

/-- DEBUG_ENTRY of job `j`. `stop`: the tick of a stop that another module of the block sends; none: the scheduled tick has come
and every strand of the job here enters DEBUG, unless the job ended before (R139, R465). -/
def execDebugEntry (j : Nat) (stop : Option Nat) (s : State) : Out :=
  if s.jobState j ≠ JS.ENABLED then .next s
  else match stop with
    | some t => .next (s.modJob j fun k => { k with dbgStopAt := some (k.dbgStopAt.getD t) })
    | none => match (s.job j).dbgStopAt with
      | some t =>
        if t ≤ s.now then
          .next ((forAll (s.jobStrands j) s fun s u => s.enterDebug u).modJob j fun k => { k with dbgStopAt := none })
        else .next s
      | none => .next s

/-- The serving job that a TRAIN job is paired with. -/
def State.servingOf (s : State) (j : Nat) : Option Nat :=
  (s.jobs.map Prod.fst).find? fun k => s.jobState k == JS.ENABLED && k != j && s.reg (Od.TRAIN_PAIR k) == j

/-- R265 asks for a freeze of TRAIN job `j`. -/
def State.wantsFreeze (s : State) (j : Nat) : Bool :=
  match s.servingOf j with
  | some k => decide (s.reg (Od.TRAIN_PREEMPT_AT k) ≤ (s.liveCtxs k).length)
  | none => false

/-- A strand leaves DEBUG for RUNNING; a hold of the job that goes on holds it at once (R139); a freeze is requested again where
it is still due. -/
def State.leaveDebug (s : State) (j u : Nat) : State :=
  if s.strandState u = SS.DEBUG then
    let held := match (s.job j).holdStart, holdEnd (s.job j).reqs with
      | some _, some e => decide (s.now < e)
      | some _, none => true
      | none, _ => false
    let froze := (s.strand u).wasFrozen
    let s := (s.modStrand u fun t => { t with wasFrozen := false, stepping := false }).setReg (ssObj u)
      (if held then SS.HELD else SS.RUNNING)
    let s := (s.wakeCluster (clOf u)).endLend (clOf u)
    if froze && s.wantsFreeze j then s.control u 1 0 else s
  else s

/-- DBG_RESUME of job `j`: its strands on this module return to RUNNING. -/
def wrDbgResume (j : Nat) (v : Bool) (s : State) : Wr :=
  if !v then okW s
  else if (s.jobStrands j).any fun u => s.strandState u == SS.DEBUG then
    okW (forAll (s.jobStrands j) s fun s u => s.leaveDebug j u)
  else badState s (match s.jobStrands j with
    | u :: _ => s.strandState u
    | [] => SS.EMPTY)

def execDbgResume (n : Nat) (v : Bool) (s : State) : Out :=
  let j := s.reg (Od.DBG_JOB n)
  s.write n (s.mayDebug n j) (wrDbgResume j v)

/-- DBG_JOB_STATE: 0 not stopped, 1 stop pending, 2 stopped. -/
def State.dbgJobState (s : State) (j : Nat) : Nat :=
  if (s.jobStrands j).any fun u => s.strandState u == SS.DEBUG then 2
  else if (s.job j).dbgStopAt.isSome then 1 else 0

/-! ## Step (R163) -/

/-- The strand of a DBG_STEP or DBG_CL_SEL value. -/
def strandIdOf (v : Nat) : StrandId := ⟨⟨Fin.ofNat 16 (v / 192), Fin.ofNat 96 (v / 2)⟩, Fin.ofNat 2 v⟩

/-- A wait of R163, whose step returns without issuing where its condition is false. -/
def isWait : Instr → Bool
  | .swait .. | .swaiteq .. | .twait .. => true
  | _ => false

/-- One step of strand `u`, in DEBUG: the instruction at its program counter issues. Where its unit queue is full or a buffer is
not ready the step stays open and completes with the instruction. `x`: the context of a QA. -/
def State.stepStrand (s : State) (v : Nat) (ph : Phys) (x : Nat) : Wr :=
  let t := s.strand v
  let i : Issue := ⟨strandIdOf v, ph⟩
  match decodeWord i x (Store.get 0 t.imem t.pc).toNat with
  | none => noW s Code.ILLEGAL_INSTRUCTION
  | some c =>
    match s.modStrand v (fun t => { t with stepping := true }) |>.instruction c with
    | .next s' =>
      okW (if isWait c && (s'.strand v).stepping then s'.modStrand v fun k => { k with stepping := false, stall := t.stall } else s')
    | _ => noW s Code.ILLEGAL_INSTRUCTION

/-- DBG_STEP with strand `v`. -/
def wrDbgStep (v : Nat) (ph : Phys) (x : Nat) (s : State) : Wr :=
  if 3071 < v then noW s Code.RANGE_CONFLICT
  else if s.strandState v ≠ SS.DEBUG then badState s (s.strandState v)
  else s.stepStrand v ph x

def execDbgStep (n : Nat) (v : BitVec 16) (ph : Phys) (x : Nat) (s : State) : Out :=
  s.write n (s.mayDebug n (s.strandJob v.toNat)) (wrDbgStep v.toNat ph x)

/-! ## Registers and SRAM -/

/-- The pages that a read shows as zeros: those of a job whose version is sealed to another party (R444). -/
def State.hidesPage (s : State) (n c p : Nat) : Bool :=
  let t := s.page c p
  t.valid && !s.seesSealed n (s.strandJob (2 * c + t.strand))

/-- Page `p` of a cluster's SRAM as a number, byte 0 least significant. -/
def State.pageNat (s : State) (c p : Nat) : Nat :=
  leNat ((List.range 4096).map fun i => s.sramByte c (4096 * p + i))

/-- The bytes of a debug object of the strand that session `n` selects. -/
def State.dbgRead (s : State) (n : Nat) (r : DbgReg) : List Byte :=
  let v := s.reg (Od.DBG_CL_SEL n)
  let t := s.strand v
  let k := s.reg (Od.DBG_REG_SEL n)
  let open' := s.seesSealed n (s.strandJob v)
  let p := s.reg (Od.DBG_SRAM_OFFSET n) / 4096
  match r with
  | .pc => leBytes 2 t.pc
  | .sreg => leBytes 4 (if open' then (t.s (Fin.ofNat 32 k)).val.toNat else 0)
  | .vreg => if open' then (t.v k).toList.flatMap fun w => leBytes 4 w.val.toNat else List.replicate 1024 0
  | .preg => leBytes 32 (if open' then (t.p (Fin.ofNat 8 k)).bits.toNat else 0)
  | .sram => leBytes 4096 (if s.hidesPage n (clOf v) p then 0 else s.pageNat (clOf v) p)

/-- The read of a debug object: only in DEBUG. -/
def State.dbgGet (s : State) (n : Nat) (r : DbgReg) : Answer :=
  let v := s.reg (Od.DBG_CL_SEL n)
  if s.strandState v ≠ SS.DEBUG then ⟨Code.WRONG_STATE, s.strandState v, []⟩
  else if r = .preg ∧ 7 < s.reg (Od.DBG_REG_SEL n) then ⟨Code.RANGE_CONFLICT, 0xFF, []⟩
  else ⟨0, 0xFF, s.dbgRead n r⟩

/-- The 1,024 words of an SRAM page written by the debugger: clean (R461). -/
def State.putPage (s : State) (c p v : Nat) : State :=
  forAll (List.range 1024) s fun s i => s.putSram c (4096 * p + 4 * i) ⟨BitVec.ofNat 32 (v / 2 ^ (32 * i)), false⟩

/-- The write of a debug object: only in DEBUG; s0 and p0 are refused; the words written are clean. A new program counter drops
the stall of the instruction that it leaves. -/
def wrDbgReg (n : Nat) (r : DbgReg) (x : Nat) (s : State) : Wr :=
  let v := s.reg (Od.DBG_CL_SEL n)
  let k := s.reg (Od.DBG_REG_SEL n)
  if s.strandState v ≠ SS.DEBUG then badState s (s.strandState v)
  else match r with
    | .pc =>
      if 8191 < x then noW s Code.RANGE_CONFLICT
      else okW ((s.withdraw (s.strandJob v) (some v)).modStrand v fun t => { t with pc := x, stall := none, stepping := false })
    | .sreg =>
      if k = 0 then noW s Code.RANGE_CONFLICT
      else okW (s.modStrand v fun t => t.setS (Fin.ofNat 32 k) ⟨BitVec.ofNat 32 x, false⟩)
    | .vreg => okW (s.modStrand v fun t => t.setV k (Vector.ofFn fun (i : Fin 256) => ⟨BitVec.ofNat 32 (x / 2 ^ (32 * i.val)), false⟩))
    | .preg =>
      if k = 0 ∨ 7 < k then noW s Code.RANGE_CONFLICT
      else okW (s.modStrand v fun t => t.setP (Fin.ofNat 8 k) ⟨BitVec.ofNat 256 x, 0⟩)
    | .sram => okW (s.putPage (clOf v) (s.reg (Od.DBG_SRAM_OFFSET n) / 4096) x)

/-- DBG_REGISTER_ACCESS: a read, or the write of a value (bytes as a number, byte 0 least significant). -/
def execDbgRegisterAccess (n : Nat) (r : DbgReg) (x : Option Nat) (s : State) : Out :=
  let ok := s.mayDebug n (s.strandJob (s.reg (Od.DBG_CL_SEL n)))
  match x with
  | some x => s.write n ok (wrDbgReg n r x)
  | none =>
    if !s.hears n then .next s
    else if s.zenithBars n 1 then answered (noW s Code.LOCKED)
    else if !ok then answered (noW s Code.AUTH_FAIL)
    else .next { s with answer := s.dbgGet n r }

/-! ## The I2C target (R456, Tables PK-2, PK-4) -/

/-- A rail record: step, nominal in mV, tolerance in 0.1 %, maximum current in A. The rail numbers, and which of its three
voltages VCORE_CD gives as nominal, lie open (log entry 55). -/
def railTable : List (Nat × Nat × Nat × Nat) :=
  [(1, 3300, 50, 2), (2, 800, 20, 8), (3, 1200, 30, 25), (3, 750, 20, 300), (4, 800, 15, 180), (4, 800, 15, 150),
   (5, 1200, 20, 600), (5, 3300, 30, 40)]

def railBytes (k : Nat) : List Byte :=
  let r := railTable.getD k (0, 0, 0, 0)
  leBytes 1 (Config.railNumber k) ++ leBytes 1 r.1 ++
    leBytes 2 (if k = 4 then Config.railNominal else r.2.1) ++ leBytes 1 r.2.2.1 ++ leBytes 1 0 ++ leBytes 2 r.2.2.2

/-- BC_ALERT_N is low: TRIPPED or RESCUE (R424, R458). -/
def State.alert (s : State) : Bool := s.reg Od.THERMAL_STATE == 1 || s.bring.latched || s.bring.rescue

/-- BOOT_STAGE as read (Table PK-5): 7 while ENABLED, 80h in RESCUE, 81h while TRIPPED. -/
def State.bootStage (s : State) : Nat :=
  if s.reg Od.THERMAL_STATE = 1 ∨ s.bring.latched = true then 0x81
  else if s.bring.rescue then 0x80
  else if s.reg Od.MODULE_STATE = MS.ENABLED then 7
  else s.reg Od.BOOT_STAGE

/-- The I2C read map. -/
def State.i2cMap (s : State) : List Byte :=
  let trip := s.reg Od.THERMAL_STATE = 1 ∨ s.bring.latched = true
  let flags := (if trip then 1 else 0) + (if s.bring.rescue then 2 else 0) + (if s.bring.strap.level then 4 else 0)
  leBytes 16 (s.reg Od.PART_NUMBER) ++ leBytes 16 (s.reg Od.SERIAL_NUMBER) ++ leBytes 1 (s.reg Od.STEPPING) ++
    leBytes 1 s.bootStage ++ leBytes 1 (s.reg Od.LAST_RESET_CAUSE) ++ leBytes 1 flags ++ leBytes 4 (s.reg Od.RESETS) ++
    List.replicate 24 0 ++ (List.range 8).flatMap railBytes

/-- I2C_READ of `len` bytes from offset `off`: answered in every state, FFh beyond 7Fh. -/
def execI2cRead (off : BitVec 8) (len : Nat) (s : State) : Out :=
  .next { s with i2c := some ((List.range len).map fun i => s.i2cMap.getD (off.toNat + i) 0xFF) }

/-- I2C_WRITE: every byte is answered with NACK, and nothing changes. -/
def execI2cWrite (b : Byte) (s : State) : Out :=
  let _ := b
  .next { s with i2c := none }

end Sys2Proof.Machine
end

