-- ==== Sys2Proof/Machine/Eclipse.lean ====
section
/-!
DEFINITION. Eclipses and snapshots (R462 to R465): arming, the latch in one tick edge, EC_IN and EC_OUT, and the collection. A
unit of a snapshot section holds the fields of Table PK-7 at places that the spec does not give (log entry 56).
-/
namespace Sys2Proof.Machine

/-! ## The snapshot -/

/-- Bytes per unit and units of the sections of Table PK-7. -/
def snapSections : List (Nat × Nat × Nat) :=
  [(1, 32, 3072), (2, 16, 52224), (3, 40, 52224), (4, 32, 6400), (5, 8, 73728), (6, 128, 4096), (7, 4, 1564), (8, 16, 16)]

/-- Section 1: state, PC, job, HOLD_OFFSET, cause of the pending hold. -/
def State.snapStrand (s : State) (u : Nat) : List Nat :=
  let cause := match (s.job (s.strandJob u)).reqs with
    | r :: _ => r.cause
    | [] => 0
  [s.strandState u, (s.strand u).pc, s.strandJob u, s.reg (hoObj u), cause]

/-- Section 2: ARRAY_STATE, slot, SEQ_STATE, SEQ_PC, depths of both queues. -/
def State.snapArray (s : State) (x : Nat) : List Nat :=
  [s.arrState x, match s.slotOf x with
    | some p => p.2
    | none => 0xFF, s.reg (arObj 0x27 1 x), s.reg (arObj 0x27 2 x), (s.array x).q0.length, (s.array x).q1.length]

/-- Section 3: SAT_SAMPLES, ZERO_SAMPLES, bins. -/
def State.snapConverter (s : State) (x : Nat) : List Nat :=
  [short32 (s.reg (arObj 0x24 3 x)), short32 (s.reg (arObj 0x24 4 x))] ++
    (List.range 8).map fun b => Store.get 0 (s.array x).bins b

/-- The stop of ring stop unit `g`: die · 100 + position (R168). -/
def unitStop (g : Nat) : Nat := nodeOf (g / 400) (g % 100)

/-- Section 4: port queue occupancy of the cluster at the stop, messages in injection there, merge entries in use at the position
(R176), replays in the window. Which VC buffers in between hold a flit in flight is free (log entry 56). -/
def State.snapStop (s : State) (g : Nat) : List Nat :=
  let stop := unitStop g
  let here (e : Nat × Cluster) : Nat := if stopOf e.1 = stop then e.2.port.length else 0
  let points := s.jobs.flatMap fun (e : Nat × Job) => e.2.groups.flatMap fun g => g.points.filter fun x => x.mod == s.coord && x.node == stop
  [s.clusters.foldl (fun a e => a + here e) 0, s.injecting stop, points.length,
   Store.get 0 s.segReplays g, Config.freeNat (s.freeN + g)]

/-- Section 5: value, state, waiters. -/
def State.snapSync (s : State) (c b : Nat) : List Nat :=
  let waits (u : Nat) : Nat := match (s.strand u).stall with
    | some (.sync o _ _ _) => if o = b then 1 else 0
    | some (.arrive o _) => if o = b then 1 else 0
    | _ => 0
  [s.reg (syObj c b 3), s.reg (syObj c b 1), waits (2 * c) + waits (2 * c + 1)]

/-- Section 6: state, job, tenant, version, deadline, ballast, next index. -/
def State.snapCtx (s : State) (x : Nat) : List Nat :=
  [s.reg (Od.CTX_STATE x), s.reg (Od.CTX_JOB x), s.reg (Od.CTX_TENANT x), s.reg (Od.CTX_VERSION x),
   s.reg (Od.CTX_NEXT_DEADLINE x), s.reg (Od.CTX_BALLAST x), s.reg (Od.CTX_NEXT_INDEX x)]

/-- Section 8: DIE_OPP, CEILING_NOW, VENT_STATE, busy arrays. -/
def State.snapDie (s : State) (d : Nat) : List Nat :=
  [s.reg (Od.DIE_OPP d), s.reg (Od.CEILING_NOW d), s.reg (Od.VENT_STATE d),
   (s.arrays.filter fun (e : Nat × ArrayU) => e.1 / 3264 == d && !e.2.runs.isEmpty).length]

/-- The fields of unit `i` of a section. -/
def State.snapFields (s : State) (id i : Nat) : List Nat :=
  if id = 1 then s.snapStrand i
  else if id = 2 then s.snapArray i
  else if id = 3 then s.snapConverter i
  else if id = 4 then s.snapStop i
  else if id = 5 then s.snapSync (i / 48) (i % 48)
  else if id = 6 then s.snapCtx i
  else if id = 7 then [s.reg (Od.SENSOR_TEMP i), s.reg (Od.SENSOR_PLAUSIBLE i)]
  else s.snapDie i

/-- A directory entry. -/
def snapEntry (id off len : Nat) : List Byte := leBytes 2 id ++ leBytes 2 0 ++ leBytes 4 off ++ leBytes 4 len ++ leBytes 4 0

/-- Offset of the section at place `k`. -/
def snapOffset (k : Nat) : Nat := 192 + (snapSections.take k).foldl (fun a e => a + e.2.1 * e.2.2) 0

/-- The snapshot that this tick latches, of 4,348,464 bytes (R464). -/
def State.snapBytes (s : State) (trigger scope : Nat) : List Byte :=
  [0x53, 0x4E, 0x50, 0x31] ++ leBytes 1 trigger ++ leBytes 1 scope ++ leBytes 2 0 ++ leBytes 8 s.now ++
    leBytes 8 (s.reg Od.RESETS) ++ leBytes 2 8 ++ List.replicate 38 0 ++
    ((List.range 8).flatMap fun k => let e := snapSections.getD k (0, 0, 0); snapEntry e.1 (snapOffset k) (e.2.1 * e.2.2)) ++
    snapSections.flatMap fun e => (List.range e.2.2).flatMap fun i => leBytes e.2.1 (Config.snapUnit e.1 (s.snapFields e.1 i))

/-! ## Arming -/

/-- ECL_MODE `v` (R462). -/
def wrEclMode (v : Nat) (s : State) : Wr :=
  let off := { s with ecl := { s.ecl with nowAt := none }, bring := { s.bring with ecEdge := none } }
  let slice := s.reg Od.ECL_SCOPE = 1
  if 3 < v then noW s Code.RANGE_CONFLICT
  else if v = 0 then okW (off.setReg Od.ECL_MODE 0)
  else if v = 1 then
    if slice then noW s Code.RANGE_CONFLICT
    else okW ({ off with ecl := { off.ecl with nowAt := some (s.now + 1) } }.setReg Od.ECL_MODE 1)
  else if v = 3 then (if slice then noW s Code.RANGE_CONFLICT else okW (off.setReg Od.ECL_MODE 3))
  else if s.reg Od.ECL_TICK < s.now then noW s Code.RANGE_CONFLICT
  else if !slice then okW (off.setReg Od.ECL_MODE 2)
  else match s.sliceOf (s.reg Od.ECL_SLICE) with
    | none => noW s Code.MISSING_OBJECT
    | some k =>
      let others := (s.box k).modules.filter fun m => m != s.coord
      okW ((forAll others off fun s m => s.notice m 18 [s.reg Od.ECL_TICK]).setReg Od.ECL_MODE 2)

/-- ECL_NOW: the eclipse falls in the next tick. -/
def execEclNow (n : Nat) (s : State) : Out := s.write n (s.isOp n) (wrEclMode 1)

/-- ECL_AT_TICK: the eclipse falls at ECL_TICK, with ECL_SCOPE 1 on every module of the slice. -/
def execEclAtTick (n : Nat) (s : State) : Out := s.write n (s.isOp n) (wrEclMode 2)

/-- ECL_EXTERNAL: the eclipse falls at the second tick edge after a rise of EC_IN. -/
def execEclExternal (n : Nat) (s : State) : Out := s.write n (s.isOp n) (wrEclMode 3)

/-- ECL_OFF disarms. -/
def execEclOff (n : Nat) (s : State) : Out := s.write n (s.isOp n) (wrEclMode 0)

/-- ECL_REMOTE_ARM: another module of the slice arms `tick`; a tick already past latches at once, LATE (R462). -/
def execEclRemoteArm (tick : Nat) (s : State) : Out :=
  if s.silent then .next s
  else .next { s with ecl := { s.ecl with remote := some (if tick < s.now then (s.now, true) else (tick, false)) } }

/-- EC_IN: its level. A rise while armed EXTERNAL latches at the second tick edge after it. -/
def execEcIn (v : Bool) (s : State) : Out :=
  let rise := v && !s.bring.ecIn
  .next { s with bring := { s.bring with
    ecIn := v
    ecEdge := if rise && s.reg Od.ECL_MODE == 3 then some (s.now + 2) else s.bring.ecEdge } }

/-! ## The latch -/

/-- A tick that has come. -/
def State.due (s : State) (t : Option Nat) : Bool :=
  match t with
  | some t => decide (t ≤ s.now)
  | none => false

/-- The triggers due in this tick, AT_TICK first (R465): 2 AT_TICK, 4 REMOTE with LATE in bit 7, 3 EXTERNAL, 1 NOW. -/
def State.triggers (s : State) : List Nat :=
  (if s.reg Od.ECL_MODE = 2 ∧ s.reg Od.ECL_TICK ≤ s.now then [2] else []) ++
  (match s.ecl.remote with
    | some (t, late) => if t ≤ s.now then [if late then 0x84 else 4] else []
    | none => []) ++
  (if s.reg Od.ECL_MODE = 3 ∧ s.due s.bring.ecEdge = true then [3] else []) ++
  (if s.reg Od.ECL_MODE = 1 ∧ s.due s.ecl.nowAt = true then [1] else [])

/-- The arms whose tick has come are used up; ECL_MODE returns to 0. -/
def State.disarm (s : State) : State :=
  let mine := s.triggers.any fun t => t != 4 && t != 0x84
  let s := if s.due (s.ecl.remote.map fun r => r.1) then { s with ecl := { s.ecl with remote := none } } else s
  if mine then
    { s with ecl := { s.ecl with nowAt := none }, bring := { s.bring with ecEdge := none } }.setReg Od.ECL_MODE 0
  else s

/-- ECLIPSE: the snapshot registers of every block latch in this tick edge and EC_OUT goes high for 8 ticks; a trigger that meets
a collection or a locked VALID snapshot is ignored and counts ECL_MISSED. -/
def execEclipse (s : State) : Out :=
  match s.triggers with
  | [] => .next s
  | t :: more =>
    let busy := s.reg Od.ECL_STATE = 1 ∨ (s.reg Od.ECL_LOCK = 1 ∧ s.reg Od.ECL_STATE = 2)
    if busy then .next (s.disarm.bump Od.ECL_MISSED (more.length + 1))
    else
      let scope := if t = 4 ∨ t = 0x84 then 1 else s.reg Od.ECL_SCOPE
      let b := s.snapBytes t scope
      let s := (s.disarm.bump Od.ECLIPSES 1).setReg Od.ECL_STATE 1
      .next { s.setReg Od.SNAP_LEN 0 with
        snapshot := []
        ecl := { s.ecl with held := some (b, s.now, t) }
        bring := { s.bring with ecOutUntil := s.now + 8 }
        freeN := s.freeN + 6400 }

/-- The level of EC_OUT (R463). -/
def State.ecOut (s : State) : Bool := decide (s.now < s.bring.ecOutUntil)

/-- SNAPSHOT_COLLECTED: the buffer is complete, VALID (R464). -/
def execSnapshotCollected (s : State) : Out :=
  match s.ecl.held with
  | some (b, t, trig) =>
    if s.reg Od.ECL_STATE = 1 then
      let s := ((s.setReg Od.ECL_STATE 2).setReg Od.SNAP_LEN 4348464).setReg Od.SNAP_TIME t
      .next { s.setReg Od.SNAP_TRIGGER trig with snapshot := b, ecl := { s.ecl with held := none } }
    else .next s
  | none => .next s

end Sys2Proof.Machine
end

