-- ==== Sys2Proof/Machine/OD.lean ====
section
/-!
DEFINITION. The object dictionary (R367 to R386): which entity an index's selectors select, who reaches an object, reads,
descriptors and NEXT, the module check, RESTORE_DEFAULTS, the checks of Table OD-7 and what a write of each object does, and
the OD message with its entries.
-/
namespace Sys2Proof.Machine

/-! ## Addresses (R367) -/

/-- Bytes of Table OD-4's results are padded to a multiple of four. -/
def pad4 (b : List Byte) : List Byte := b ++ List.replicate ((4 - b.length % 4) % 4) 0

/-- The index belongs to the object map. -/
def Od.hasIndex (idx : Nat) : Bool := Od.rows.any fun r => r.idx == Od.norm idx

/-- The highest subindex of an index. -/
def Od.maxSub (idx : Nat) : Nat :=
  (Od.rows.filter fun r => r.idx == Od.norm idx).foldl (fun a r => Nat.max a r.sub) 0

/-- The address is implemented. -/
def Od.implemented (idx sub : Nat) : Bool := if sub = 0 then Od.hasIndex idx else (Od.row? idx sub).isSome

/-- Every implemented address as index · 256 + subindex. -/
def Od.addresses : List Nat :=
  Od.rows.flatMap fun r =>
    let is := if 0x3000 ≤ r.idx ∧ r.idx < 0x4000 then (List.range 16).map fun d => r.idx + 0x100 * d else [r.idx]
    is.flatMap fun i => [i * 256, i * 256 + r.sub]

/-- The next implemented address after index:subindex; FFFFh:FFh after the last. -/
def Od.next (idx sub : Nat) : Nat :=
  Od.addresses.foldl (fun a k => if idx * 256 + sub < k ∧ k < a then k else a) 0xFFFFFF

def ObjType.code : ObjType → Nat
  | .bool => 0
  | .u8 => 1
  | .u16 => 2
  | .u32 => 3
  | .u64 => 4
  | .i16 => 5
  | .i32 => 6
  | .octets => 7
  | .str => 8

def ObjAccess.code : ObjAccess → Nat
  | .ro => 0
  | .wo => 1
  | .rw => 2
  | .rwl => 3

/-- The descriptor of Table OD-5; for subindex 00h that of R367. -/
def Od.descriptor (idx sub : Nat) : List Byte :=
  match (if sub = 0 then none else Od.row? idx sub) with
  | none => leBytes 4 9 ++ leBytes 2 1 ++ leBytes 6 0 ++ leBytes 8 (Od.maxSub idx)
  | some r =>
    let d := if r.ty = .octets ∨ r.ty = .str then 0 else Od.dflt idx sub
    leBytes 1 r.ty.code ++ leBytes 1 r.acc.code ++ leBytes 2 r.flags ++ leBytes 2 r.size ++ leBytes 2 r.govIdx ++
      leBytes 1 r.govSub ++ leBytes 3 0 ++ leBytes 8 d

/-! ## Selectors (R60) -/

/-- The compute die of an index of the die range. -/
def odDie (idx : Nat) : Nat := (idx - 0x3000) / 0x100 % 16

/-- The array that CAL_DIE_SEL, CAL_CLUSTER_SEL and CAL_ARRAY_SEL select. -/
def State.calCluster (s : State) (n : Nat) : Nat := 96 * s.reg (Od.CAL_DIE_SEL n) + s.reg (Od.CAL_CLUSTER_SEL n)
def State.calArray (s : State) (n : Nat) : Nat := 34 * s.calCluster n + s.reg (Od.CAL_ARRAY_SEL n)

/-- The entity that session `n` selects at an index of the die range. -/
def State.dieInst (s : State) (n idx : Nat) : Nat :=
  let d := odDie idx
  let k := s.reg (Od.CLUSTER_SEL d n)
  match Od.norm idx with
  | 0x3001 | 0x3041 | 0x3042 | 0x3043 | 0x3062 => k
  | 0x3021 | 0x3022 | 0x3023 | 0x3024 | 0x3025 | 0x3026 | 0x3027 | 0x3028 => s.reg (Od.ARRAY_SEL d n)
  | 0x3029 => 4096 * s.reg (Od.ARRAY_SEL d n) + s.reg (Od.CORR_SEL d n)
  | 0x3051 => s.reg (Od.SEG_SEL d n)
  | 0x3061 => 64 * k + s.reg (Od.SYNC_SEL d n)
  | _ => 0

/-- The entity that session `n` selects at an index. -/
def State.inst (s : State) (n idx : Nat) : Nat :=
  match idx with
  | 0x2301 => s.reg (Od.SENSOR_SEL n)
  | 0x2501 => s.reg (Od.LINK_SEL n)
  | 0x2601 | 0x2602 | 0x1203 | 0x5001 => s.reg (Od.JOB_SEL n) + 1
  | 0x2603 => s.reg (Od.IMAGE_SEL n)
  | 0x4002 => s.reg (Od.PORT_SEL n)
  | 0x4011 => s.reg (Od.SLICE_SEL n)
  | 0x5021 => s.reg (Od.CTX_SEL n)
  | 0x5031 => s.reg (Od.PREFIX_SEL n) % 16384
  | 0x6011 | 0x6012 => s.reg (Od.VER_SEL n)
  | 0x6021 => s.reg (Od.ADAPTER_SEL n) % 4096
  | 0x7011 => s.calCluster n
  | 0x7012 => s.calArray n
  | 0x7013 => 4096 * s.calArray n + s.reg (Od.CAL_CORR_SEL n)
  | 0x9011 => s.reg (Od.TENANT_SEL n)
  | 0x9020 => s.reg (Od.ITEM_SEL n)
  | 0x9041 => s.reg (Od.KEY_SEL n)
  | _ => if 0x3000 ≤ idx ∧ idx < 0x4000 then s.dieInst n idx else 0

/-- The object that session `n` means by an address. -/
def State.object (s : State) (n : Nat) (r : ObjRow) (idx : Nat) : Obj :=
  ⟨idx, r.sub, if r.perSession then n else if r.flags / 4 % 2 = 1 then s.inst n idx else 0⟩

/-! ## Who reaches an object (R373, R432, R447, R461) -/

/-- What a tenant session reaches of the debug and sync objects (R240, R461). -/
def State.reachDebug (s : State) (n idx sub : Nat) : Bool :=
  let d := odDie idx
  if idx = 0xA001 then sub == 1 || sub == 4 || s.mayDebug n (s.reg (Od.DBG_JOB n))
  else if idx = 0xA002 then
    [1, 3, 7].contains sub || s.mayDebug n (s.strandJob (s.reg (Od.DBG_CL_SEL n)))
  else if Od.norm idx = 0x3040 ∨ Od.norm idx = 0x3060 then sub ≤ 1
  else if Od.norm idx = 0x3061 then s.mayForce n (96 * d + s.reg (Od.CLUSTER_SEL d n)) (s.reg (Od.SYNC_SEL d n))
  else false

/-- What a tenant session reaches of the security objects (the text before R447). -/
def reachSecurity (idx sub : Nat) (w : Bool) : Bool :=
  match idx with
  | 0x9010 | 0x9040 => true
  | 0x9011 => !w && sub != 2 && sub != 10
  | 0x9041 => !w
  | 0x9042 => true
  | 0x9030 => if w then sub == 6 else sub ≤ 4 || sub == 7
  | _ => false

/-- The session reaches the object: R373. -/
def State.reaches (s : State) (n idx sub : Nat) (w : Bool) : Bool :=
  s.isOp n || match idx with
  | 0x1000 => !w
  | 0x1200 => !w && decide (sub ≤ 3)
  | 0x2600 | 0x5020 | 0x5022 | 0x5030 | 0x5032 | 0x6010 | 0x6020 | 0x6022 => true
  | 0x2601 | 0x2602 => s.jobRight n (s.reg (Od.JOB_SEL n) + 1)
  | 0x5021 => s.actsFor n (s.reg (Od.CTX_TENANT (s.reg (Od.CTX_SEL n))))
  | 0x5031 | 0x6021 => !w
  | 0x6011 => !w || (sub != 0x10 && s.verRight n (s.reg (Od.VER_SEL n)))
  | 0x6012 => s.verRight n (s.reg (Od.VER_SEL n))
  | _ => reachSecurity idx sub w || s.reachDebug n idx sub

/-- The entry is that of another tenant, or absent: its read is answered as for NONE. -/
def State.asNone (s : State) (n : Nat) (o : Obj) : Bool :=
  match o.idx with
  | 0x5031 => s.prefixHandle o.inst != s.reg (Od.PREFIX_SEL n) || s.reg (Od.PREFIX_STATE o.inst) == 0 ||
      !s.actsFor n (s.reg (Od.PREFIX_TENANT o.inst))
  | 0x6011 => s.verState o.inst != VS.NONE && !s.actsFor n (s.reg (Od.VER_TENANT o.inst))
  | 0x6021 => s.adapterHandle o.inst != s.reg (Od.ADAPTER_SEL n) || (Store.get Adapter.new s.adapters o.inst).gens.isEmpty ||
      !s.actsFor n (s.reg (Od.AD_TENANT o.inst))
  | 0x9011 => !s.actsFor n o.inst
  | 0x9041 => s.reg (Od.KEY_STATE o.inst) == 1 && !s.actsFor n (s.reg (Od.KEY_TENANT o.inst))
  | _ => false

/-! ## Reads -/

/-- 4,096 bytes of a buffer from an offset, padded with zeros. -/
def page4096 (b : List Byte) (o : Nat) : List Byte := (b.drop o ++ List.replicate 4096 0).take 4096

/-- Waiting strands of a sync object: bit 0 SWAIT or SWAITEQ, bit 1 SARRIVE. -/
def State.syncWaiters (s : State) (c b : Nat) : Nat :=
  let on (arr : Bool) (u : Nat) : Bool := match (s.strand u).stall with
    | some (.sync o _ _ _) => !arr && o == b
    | some (.arrive o _) => arr && o == b
    | _ => false
  (if [2 * c, 2 * c + 1].any (on false) then 1 else 0) + (if [2 * c, 2 * c + 1].any (on true) then 2 else 0)

/-- Values of the die range that the module computes. -/
def State.dieValue (s : State) (n : Nat) (o : Obj) : Option Nat :=
  let d := odDie o.idx
  let u := 2 * (96 * d + o.inst)
  match Od.norm o.idx, o.sub with
  | 0x3021, 2 => some (s.arraySlot (3264 * d + o.inst))
  | 0x3023, 5 => some (s.driftTime (3264 * d + o.inst))
  | 0x3027, 5 => some (s.seqEntry (3264 * d + o.inst) (s.reg (Od.SEQ_ENTRY_SEL d n))).toNat
  | 0x3041, 2 => some (s.strandState u)
  | 0x3041, 3 => some (s.strandState (u + 1))
  | 0x3041, 8 => some (s.pagesUsed (96 * d + o.inst))
  | 0x3061, 4 => some (s.syncWaiters (96 * d + o.inst / 64) (o.inst % 64))
  | _, _ => none

/-- Values that the module computes; none: the register holds the value. -/
def State.computed (s : State) (n : Nat) (o : Obj) : Option Nat :=
  match o.idx, o.sub with
  | 0x1200, 1 => some s.now
  | 0x1200, 2 => some (short32 s.now)
  | 0x2604, 2 => some (s.latVersion (s.reg (Od.LAT_STEPPING_SEL n)))
  | 0x2604, 4 => some (match s.latEntry (s.reg (Od.LAT_STEPPING_SEL n)) (s.reg (Od.LAT_ENTRY_SEL n)) with
    | some e => e.value
    | none => 0xFFFFFFFF)
  | 0x4011, 7 => some (if s.reg (Od.SLICE_ID o.inst) = 0 then 0 else s.sliceNcl o.inst)
  | 0x5001, 4 => some (s.kvFree o.inst)
  | 0x7012, 2 => some (if s.arrState o.inst = AS.ACTIVE then s.nextDue o.inst else 0)
  | 0x7021, 1 => some (leNat (s.exposures.getD (s.reg (Od.EXPOSURE_SEL n)) []))
  | 0x8002, 3 => some (match s.faults[s.reg (Od.FAULT_SEL n)]? with
    | some f => leNat f.bytes
    | none => 0)
  | 0x8004, 6 => some (leNat (page4096 s.dump (s.reg (Od.DUMP_OFFSET n))))
  | 0xA000, 3 => some s.bootStage
  | 0xA001, 5 => some (s.dbgJobState (s.reg (Od.DBG_JOB n)))
  | 0xA012, 5 => some (leNat (page4096 s.snapshot (s.reg (Od.SNAP_OFFSET n))))
  | _, _ => s.dieValue n o

/-- The debug register object of a subindex of A002h. -/
def dbgRegOf (sub : Nat) : Option DbgReg :=
  match sub with
  | 2 => some .pc
  | 4 => some .sreg
  | 5 => some .vreg
  | 6 => some .preg
  | 8 => some .sram
  | _ => none

/-- Bytes of a stored string, without the padding (R368). -/
def trimZeros (b : List Byte) : List Byte := (b.reverse.dropWhile (· == 0)).reverse

/-- The result of a READ that checks 1 to 3 pass. -/
def State.readObject (s : State) (n : Nat) (r : ObjRow) (o : Obj) : Answer :=
  let v := if s.asNone n o then Od.dflt o.idx o.sub else (s.computed n o).getD (s.reg o)
  match (if o.idx = 0xA002 then dbgRegOf o.sub else none) with
  | some g => s.dbgGet n g
  | none => ⟨0, 0xFF, if r.ty = .str then trimZeros (leBytes r.size v) else leBytes r.size v⟩

/-! ## The module check (Table OD-9) -/

/-- The check of row `obj` fails with a code and STATE. -/
def modNo (code st obj : Nat) : Option Refused := some ⟨code, st, obj⟩

/-- The rows of Table OD-9, with a factory table for each stepping (R195); `signed` and `trims`: what rows 7 and 8 find. -/
def State.moduleCheck (s : State) (f : Found) : Option Refused :=
  let r (o : Obj) : Nat := s.reg o
  if r Od.MODULE_STATE ≠ MS.DISABLED then modNo Code.WRONG_STATE (r Od.MODULE_STATE) 0xFFFFFFFF
  else if r Od.HOST_LINK_STATE ≠ 3 then modNo Code.WRONG_STATE (r Od.HOST_LINK_STATE) 0x110301
  else if r Od.SERVICE_IPV4 = 0 ∧ r Od.SERVICE_IPV6 = 0 then modNo Code.MISSING_OBJECT 0xFF 0x110004
  else if r Od.MGMT_IPV4 = 0 ∧ r Od.MGMT_IPV6 = 0 then modNo Code.MISSING_OBJECT 0xFF 0x110006
  else if r Od.SERVICE_VLAN = r Od.MGMT_VLAN then modNo Code.RANGE_CONFLICT 0xFF 0x110003
  else if !([0, r Od.SERVICE_VLAN, r Od.MGMT_VLAN] : List Nat).contains (r Od.PTP_VLAN) then modNo Code.RANGE_CONFLICT 0xFF 0x11000D
  else if r Od.SESSION_TIMEOUT ≤ r Od.KEEPALIVE_TICKS then modNo Code.RANGE_CONFLICT 0xFF 0x110102
  else if 15 < cx s.coord ∨ 15 < cy s.coord ∨ 15 < cz s.coord then modNo Code.RANGE_CONFLICT 0xFF 0x400001
  else if 2 < s.stepping ∧ (Store.get? s.tables s.stepping).isNone then modNo Code.MISSING_OBJECT 0xFF 0xFFFFFFFF
  else if !f.signed then modNo Code.SIGNATURE_FAIL 0xFF 0xFFFFFFFF
  else if !f.trims then modNo Code.MISSING_OBJECT 0xFF 0xFFFFFFFF
  else none

/-- A failed check: MODULE_REASON and the session's LAST_CHECK_OBJECT (R381). -/
def State.moduleRefused (s : State) (n : Nat) (r : Refused) : Wr :=
  ((s.setReg Od.MODULE_REASON r.code).setReg (Od.LAST_CHECK_OBJECT n) r.obj, ⟨r.code, r.st, []⟩)

/-- A version loads or waits for the drain, a job is ENABLED, or a multi-module enable is in progress (Tables OD-8, OD-13). -/
def State.keepsEnabled (s : State) : Bool :=
  (s.jobs.any fun (e : Nat × Job) => s.jobState e.1 == JS.ENABLED || e.2.query.isSome) ||
  (List.range 16).any fun e => s.verState e == VS.LOADING || s.verState e == VS.WAITING

/-- MODULE_ENABLE written by session `n` (Table OD-8). -/
def wrModuleEnable (n : Nat) (v : Bool) (f : Found) (s : State) : Wr :=
  let st := s.reg Od.MODULE_STATE
  if v = (st == MS.ENABLED) then okW s
  else if v then
    match s.moduleCheck f with
    | some r => s.moduleRefused n r
    | none => okW ((s.setReg Od.MODULE_ENABLE 1).setReg Od.MODULE_STATE MS.ENABLED)
  else if s.keepsEnabled then noW s Code.LOCKED
  else okW ((s.setReg Od.MODULE_ENABLE 0).setReg Od.MODULE_STATE MS.DISABLED)

def execModuleEnable (n : Nat) (v : Bool) (f : Found) (s : State) : Out := s.write n (s.isOp n) (wrModuleEnable n v f)

/-- CHECK_ONLY: the module check without its effect. -/
def wrCheckOnly (n : Nat) (v : Bool) (f : Found) (s : State) : Wr :=
  if !v then okW s
  else match s.moduleCheck f with
    | some r => s.moduleRefused n r
    | none => okW s

def execCheckOnly (n : Nat) (v : Bool) (f : Found) (s : State) : Out := s.write n (s.isOp n) (wrCheckOnly n v f)

/-! ## Defaults (R383) -/

/-- RESTORE_DEFAULTS sets the object: persistent, RW or RWL, and none of versions, slices and security. -/
def restores (k : Nat) : Bool :=
  let o := Obj.ofKey k
  match Od.row? o.idx o.sub with
  | some r => r.persistent && (r.acc == .rw || r.acc == .rwl) && !([0x6010, 0x6011, 0x6012, 0x4010, 0x4011].contains o.idx) &&
      !(decide (0x9000 ≤ o.idx) && decide (o.idx < 0xA000))
  | none => false

/-- CEILING_NOW follows ACT_CEILING: it equals it where the die does not vent, and never exceeds it (R417, R421; log entry 57). -/
def State.followCeiling (s : State) (d : Nat) : State :=
  let c := s.reg (Od.ACT_CEILING d)
  s.setTicked (Od.CEILING_NOW d) (if s.reg (Od.VENT_STATE d) = 0 then c else Nat.min c (s.reg (Od.CEILING_NOW d)))

/-- RESTORE_DEFAULTS, in DISABLED only. -/
def wrRestoreDefaults (v : Bool) (s : State) : Wr :=
  if !v then okW s
  else if s.reg Od.MODULE_STATE ≠ MS.DISABLED then badState s (s.reg Od.MODULE_STATE)
  else
    let s := (wrTransitPeriodS 3600 s).1
    okW (forAll (List.range 16) { s with regs := s.regs.filter fun e => !restores e.1 } State.followCeiling)

def execRestoreDefaults (n : Nat) (v : Bool) (s : State) : Out := s.write n (s.isOp n) (wrRestoreDefaults v)

/-! ## Writes -/

/-- The governing enable of an RWL object is 1 (R369, R370); slice records judge it themselves (R354). -/
def State.locked (s : State) (r : ObjRow) (o : Obj) : Bool :=
  r.acc == .rwl && match r.govIdx with
    | 0x2000 => s.reg Od.MODULE_ENABLE == 1
    | 0x2602 => s.reg (Od.JOB_ENABLE o.inst) == 1 || s.jobState o.inst == JS.ENABLED
    | 0x6011 => s.verState o.inst != VS.NONE
    | 0x4011 => s.sliceLocked o.inst
    | _ => false

/-- A selected page offset: a multiple of 4,096 below a bound. -/
def pageOffset (v lim : Nat) : Bool := v % 4096 == 0 && decide (v < lim)

/-- The relations and ranges that the object tables state beyond an interval (R372). -/
def State.relation (s : State) (idx sub v : Nat) : Bool :=
  let ptp (a b : Nat) : Bool := let p := s.reg Od.PTP_VLAN; p == 0 || p == a || p == b
  match idx, sub with
  | 0x1100, 2 => v != s.reg Od.MGMT_VLAN && ptp v (s.reg Od.MGMT_VLAN)
  | 0x1100, 3 => v != s.reg Od.SERVICE_VLAN && ptp (s.reg Od.SERVICE_VLAN) v
  | 0x1100, 13 => [0, s.reg Od.SERVICE_VLAN, s.reg Od.MGMT_VLAN].contains v
  | 0x1101, 1 => decide (s.reg Od.KEEPALIVE_TICKS < v)
  | 0x1101, 2 => decide (v < s.reg Od.SESSION_TIMEOUT)
  | 0x4000, 1 => decide (v < 0x1000000) && decide (cx v ≤ 15) && decide (cy v ≤ 15) && decide (cz v ≤ 15)
  | 0x4004, 3 => decide (v ≤ 5) || v == 0xFF
  | 0x7000, 3 => decide (v ≤ s.reg Od.TRANSIT_WINDOW_MAX)
  | 0x7000, 4 => decide (s.reg Od.SHADOW_WINDOW_TICKS ≤ v)
  | 0x8004, 5 => pageOffset v (s.reg Od.DUMP_LEN)
  | 0x9020, 1 => pageOffset v 0x1000000
  | 0xA002, 7 => pageOffset v 2621440
  | 0xA012, 4 => pageOffset v (s.reg Od.SNAP_LEN)
  | _, _ => true

/-- The value lies within the type, the stated range and the relations (check 6). -/
def State.inRange (s : State) (r : ObjRow) (idx v : Nat) : Bool :=
  (r.ty != .bool || decide (v ≤ 1)) &&
  (match Od.range? idx r.sub with
    | some (a, b) => decide (a ≤ v) && decide (v ≤ b)
    | none => true) && s.relation idx r.sub v

/-- The value without its RES bits, which the module ignores (R12). -/
def resMask (idx sub v : Nat) : Nat :=
  match idx, sub with
  | 0x1100, 10 => v &&& 0x777
  | 0x6011, 7 => v &&& 0xFFFFFFFF00FFFFFF
  | 0x6011, 8 => v &&& 0xFFFFFF
  | _, _ => v

/-- WRAP_FLAGS: writing 0 to a bit clears the flag and its wrap count; writing 1 has no effect (R60). -/
def State.clearWraps (s : State) (o : Obj) (v : Nat) : State :=
  forAll (List.range 16) s fun s i =>
    if (s.reg o).testBit i = true ∧ v.testBit i = false then
      let c : Obj := ⟨o.idx, i + 1, o.inst⟩
      (s.setReg o (s.reg o - 2 ^ i)).setReg c (s.reg c % 0x1000000000000)
    else s

/-- PREFIX_DELETE by session `n`: another tenant's handle is answered as absent (R432). -/
def wrPrefixDeleteBy (n h : Nat) (s : State) : Wr :=
  if s.actsFor n (s.reg (Od.PREFIX_TENANT (h % 16384))) then wrPrefixDelete h s else noW s Code.MISSING_OBJECT

/-- CTX_CANCEL by session `n` (R257). -/
def wrCtxCancelBy (n x : Nat) (s : State) : Wr := if s.mayCancel n x then wrCtxCancel x s else noW s Code.AUTH_FAIL

/-- The job or version objects of a session without the right (check 7 of the chapters that name AUTH_FAIL). -/
def orAuth (ok : Bool) (f : State → Wr) (s : State) : Wr := if ok then f s else noW s Code.AUTH_FAIL

/-- The write of a value that only stands in its register; what applies from the next tick reads the value at the tick's start (R226,
Table SE-7). -/
def wrPlain (o : Obj) (v : Nat) (s : State) : Wr := okW (s.setTicked o (resMask o.idx o.sub v))

/-- Writes in the die range. -/
def wrDie (n : Nat) (o : Obj) (v : Nat) (s : State) : Wr :=
  let d := odDie o.idx
  let x := 3264 * d + o.inst
  let c := 96 * d + o.inst / 64
  match Od.norm o.idx, o.sub with
  | 0x3001, 1 => wrClPwrReq (96 * d + o.inst) v s
  | 0x3002, 1 => okW ((s.setReg o v).followCeiling d)
  | 0x3027, 5 => wrSeqEntry x (s.reg (Od.SEQ_ENTRY_SEL d n)) (BitVec.ofNat 64 v) s
  | 0x3027, 6 => wrSeqStart x v s
  | 0x3027, 7 => wrSeqAbort x (v == 1) s
  | 0x3061, 3 => wrSyncValue c (o.inst % 64) (BitVec.ofNat 32 v) s
  | 0x3061, 9 => wrNodeForce c (o.inst % 64) (v == 1) s
  | _, _ => wrPlain o v s

/-- Writes of job, version, serving and weight objects. -/
def wrServing (n : Nat) (f : Found) (o : Obj) (v : Nat) (s : State) : Wr :=
  let b := v == 1
  match o.idx, o.sub with
  | 0x2602, 1 => wrJobBind n o.inst b s
  | 0x2602, 2 => wrJobEnable n o.inst b s
  | 0x2602, 3 => wrJobUnload o.inst b s
  | 0x2603, 3 => wrImageDelete o.inst b s
  | 0x5022, 1 => wrCtxCancelBy n v s
  | 0x5032, 1 => wrPrefixDeleteBy n v s
  | 0x6011, 0x10 => wrVerFixed o.inst b s
  | 0x6012, 1 => wrVerCreate n o.inst b s
  | 0x6012, 2 => wrVerCommit n o.inst b f.peer s
  | 0x6012, 3 => wrVerSwitch o.inst b s
  | 0x6012, 4 => wrVerDelete o.inst b s
  | 0x6022, 1 => wrAdapterDelete (s.actor n) v s
  | 0x7000, 2 => wrTransitPeriodS v s
  | _, _ => wrPlain o v s

/-- Writes of module, reliability and power objects. -/
def wrModule (n : Nat) (f : Found) (o : Obj) (v : Nat) (s : State) : Wr :=
  let b := v == 1
  match o.idx, o.sub with
  | 0x2000, 1 => wrModuleEnable n b f s
  | 0x2000, 5 => wrCheckOnly n b f s
  | 0x2000, 6 => wrRestoreDefaults b s
  | 0x2300, 8 => wrThermalRestart b s
  | 0x2501, 5 => wrLinkRetrain o.inst b s
  | 0x4002, 7 => wrPortRetrain o.inst b s
  | 0x4004, 2 => wrRejoin v s
  | 0x4011, 1 => wrSliceId o.inst v s
  | 0x8000, 1 => wrHeartbeat v s
  | 0x8001, 1 => wrResetCluster v s
  | 0x8001, 2 => wrResetDie v s
  | 0x8001, 3 => wrResetModule b s
  | 0x8004, 7 => wrDumpClear b s
  | i, k => if i = 0x2003 then wrFabPortPwr (k - 1) v s
    else if i = 0x4011 then wrSliceReshape o.inst (k - 2) v s
    else wrServing n f o v s

/-- Writes of security and debug objects; `val`: the value's bytes. -/
def wrSecurity (n : Nat) (f : Found) (o : Obj) (val : List Byte) (s : State) : Wr :=
  let v := leNat val
  let b := v == 1
  match o.idx, o.sub with
  | 0x9000, 1 => wrOperatorKey n (BitVec.ofNat 256 v) s
  | 0x9011, 2 => wrTenantKey o.inst (BitVec.ofNat 256 v) s
  | 0x9011, 10 => wrTenantDelete o.inst b s
  | 0x9020, 2 => wrUpdateData n val s
  | 0x9020, 3 => wrUpdateCommit b f.sigOk f.pack s
  | 0x9030, 5 => wrKemRotate b s
  | 0x9030, 6 => wrAttestSign b s
  | 0x9042, 1 => wrKeyInstall (s.actor n) val f.tagOk s
  | 0x9042, 2 => wrKeyDelete (s.actor n) v s
  | 0xA000, 1 => if n = zenith then noW s Code.LOCKED else wrPlain o v s
  | 0xA001, 2 => wrDbgStop (s.reg (Od.DBG_JOB n)) b s
  | 0xA001, 3 => wrDbgResume (s.reg (Od.DBG_JOB n)) b s
  | 0xA001, 4 => orAuth (s.mayDebug n (s.strandJob v)) (wrDbgStep v f.ph f.qaCtx) s
  | 0xA010, 1 => wrEclMode v s
  | _, k => match (if o.idx = 0xA002 then dbgRegOf k else none) with
    | some g => wrDbgReg n g v s
    | none => wrPlain o v s

/-- What a WRITE that checks 1 to 6 pass does (check 7). -/
def State.writeObject (s : State) (n : Nat) (f : Found) (o : Obj) (val : List Byte) : Wr :=
  if o.sub = 0x10 ∧ o.idx ≠ 0x6011 then okW (s.clearWraps o (leNat val))
  else if 0x3000 ≤ o.idx ∧ o.idx < 0x4000 then wrDie n o (leNat val) s
  else if 0x9000 ≤ o.idx then wrSecurity n f o val s
  else wrModule n f o (leNat val) s

/-! ## Entries (Table OD-7) -/

/-- A refused entry with nothing but a code. -/
def failed (code : Nat) : Answer := ⟨code, 0xFF, []⟩

/-- OP READ. -/
def State.readEntry (s : State) (n idx sub : Nat) : Answer :=
  if !Od.implemented idx sub then failed Code.MISSING_OBJECT
  else if !s.reaches n idx sub false then failed Code.AUTH_FAIL
  else match Od.row? idx sub with
    | none => ⟨0, 0xFF, leBytes 1 (Od.maxSub idx)⟩
    | some r => if r.acc = .wo then failed Code.ACCESS_CONFLICT else s.readObject n r (s.object n r idx)

/-- OP WRITE: the checks of Table OD-7 in order; TRIPPED and LEAVING are states of check 7 (R424, Table OD-8). -/
def State.writeEntry (s : State) (n : Nat) (f : Found) (idx sub : Nat) (val : List Byte) : Wr :=
  if !Od.implemented idx sub then noW s Code.MISSING_OBJECT
  else if !s.reaches n idx sub true then noW s Code.AUTH_FAIL
  else match Od.row? idx sub with
    | none => noW s Code.ACCESS_CONFLICT
    | some r =>
      let o := s.object n r idx
      if r.acc = .ro then noW s Code.ACCESS_CONFLICT
      else if val.length ≠ r.size then noW s Code.TYPE_CONFLICT
      else if s.locked r o then noW s Code.LOCKED
      else if !s.inRange r idx (leNat val) then noW s Code.RANGE_CONFLICT
      else if s.reg Od.THERMAL_STATE = 1 ∧ ¬(idx = 0x2300 ∧ sub = 8) then badState s 1
      else if s.reg Od.MODULE_STATE = MS.LEAVING then badState s MS.LEAVING
      else s.writeObject n f o val

/-- OP DESCRIBE: check 1 alone. -/
def describeEntry (idx sub : Nat) : Answer :=
  if Od.implemented idx sub then ⟨0, 0xFF, Od.descriptor idx sub⟩ else failed Code.MISSING_OBJECT

/-- OP NEXT. -/
def nextAddress (idx sub : Nat) : Answer :=
  let k := Od.next idx sub
  ⟨0, 0xFF, leBytes 2 (k / 256) ++ leBytes 1 k ++ leBytes 1 0⟩

/-- One entry of session `n`. -/
def State.entry (s : State) (n : Nat) (f : Found) (e : OdEntry) : Wr :=
  match e.op with
  | 0 => (s, s.readEntry n e.idx e.sub)
  | 1 => s.writeEntry n f e.idx e.sub e.val
  | 2 => (s, describeEntry e.idx e.sub)
  | _ => (s, nextAddress e.idx e.sub)

/-- An entry that stands alone: the session is heard. -/
def State.alone (s : State) (n least : Nat) (g : State → Wr) : Out :=
  if !s.hears n then .next s
  else if s.zenithBars n least then answered (noW s Code.LOCKED)
  else
    let r := g s
    answered (r.1.closeAll, r.2)

/-- OD_READ. -/
def execOdRead (n : Nat) (idx : BitVec 16) (sub : Byte) (s : State) : Out :=
  s.alone n 1 fun s => (s, s.readEntry n idx.toNat sub.toNat)

/-- OD_WRITE. -/
def execOdWrite (n : Nat) (f : Found) (idx : BitVec 16) (sub : Byte) (val : List Byte) (s : State) : Out :=
  s.alone n 2 fun s => s.writeEntry n f idx.toNat sub.toNat val

/-- OD_DESCRIBE. -/
def execOdDescribe (n : Nat) (idx : BitVec 16) (sub : Byte) (s : State) : Out :=
  s.alone n 1 fun s => (s, describeEntry idx.toNat sub.toNat)

/-- OD_NEXT. -/
def execOdNext (n : Nat) (idx : BitVec 16) (sub : Byte) (s : State) : Out :=
  s.alone n 1 fun s => (s, nextAddress idx.toNat sub.toNat)

/-! ## OD messages (R375 to R378) -/

/-- The entries that a payload spells after its 4-byte head: `k` of them; none where it is malformed (R377). -/
def parseEntries : Nat → List Byte → Option (List OdEntry)
  | 0, b => if b = [] then some [] else none
  | k + 1, b =>
    let op := be b 0 1
    let len := be b 4 2
    let size := 8 + (len + 3) / 4 * 4
    if b.length < size ∨ 3 < op ∨ (op ≠ 1 ∧ len ≠ 0) ∨ be b 6 2 ≠ 0 then none
    else (parseEntries k (b.drop size)).map fun t => OdEntry.mk op (be b 1 1) (be b 2 2) (slice b 8 len) :: t

/-- STOP and the entries of a payload. -/
def parseOd (b : List Byte) : Option (Bool × List OdEntry) :=
  let k := be b 0 2
  if b.length < 4 ∨ k = 0 ∨ 255 < k ∨ 1 < be b 2 1 ∨ be b 3 1 ≠ 0 then none
  else (parseEntries k (b.drop 4)).map fun es => (be b 2 1 == 1, es)

/-- The most bytes that an entry's value can take in the response, padded. -/
def OdEntry.room (e : OdEntry) : Nat :=
  match e.op with
  | 0 => if e.sub = 0 then 4 else match Od.row? e.idx e.sub with
    | some r => (r.size + 3) / 4 * 4
    | none => 0
  | 1 => 0
  | 2 => 20
  | _ => 4

/-- The result header and value of Table OD-6. -/
def OdEntry.result (e : OdEntry) (a : Answer) : List Byte :=
  let v := if a.status = 0 then a.value else []
  beBytes 2 a.status ++ beBytes 2 e.idx ++ beBytes 1 e.sub ++ beBytes 1 e.op ++ beBytes 2 v.length ++ beBytes 1 a.state ++
    beBytes 3 0 ++ pad4 v

/-- A result joins those of the message. -/
def OdRun.add (r : OdRun) (e : OdEntry) (a : Answer) : OdRun :=
  { r with
    results := r.results ++ e.result a
    count := r.count + 1
    failed := if r.failed = 0 then a.status else r.failed }

/-- The jobs whose enable session `n` waits for. -/
def State.enabling (s : State) (n : Nat) : List Nat :=
  (s.jobs.filter fun (e : Nat × Job) => match e.2.query with
    | some q => q.2.1 == n
    | none => false).map Prod.fst

/-- The response ACK DONE (R378). -/
def State.odDone (s : State) (r : OdRun) : State :=
  s.send r.session MC.ACK 2 3 r.failed r.msg.ctx r.msg.reqId
    (respPrefix r.msg.seq none 0xFF ++ beBytes 2 r.count ++ beBytes 2 0 ++ r.results)

/-- The entries that are left, in order (R376); the message waits where an entry starts a multi-module enable. -/
def runEntries : List (OdEntry × Found) → OdRun → State → State
  | [], r, s => s.odDone r
  | (e, f) :: t, r, s =>
    if r.stop ∧ r.failed ≠ 0 then runEntries t (r.add e (failed Code.NOT_EXECUTED)) s
    else
      let w := s.entry r.session f e
      match (if e.op = 1 then (w.1.enabling r.session).find? fun j => !(s.enabling r.session).contains j else none) with
      | some j => { w.1 with odRuns := w.1.odRuns ++ [{ r with job := j, left := (e, f) :: t }] }
      | none => runEntries t (r.add e w.2) w.1

/-- What is found at entry `i`: the last one given serves the entries after it. -/
def foundAt (fs : List Found) (i : Nat) : Found :=
  match fs[i]? with
  | some f => f
  | none => fs.getLastD ⟨⟨.clean, [], [], 0, 0, 0, 0⟩, 0, false, [], false, false, false, none⟩

/-- An OD message of session `n`. -/
def State.onOd (s : State) (n : Nat) (m : InMsg) (fs : List Found) : State :=
  match parseOd m.payload with
  | none => s.refuse n m Code.BAD_MESSAGE
  | some (stop, es) =>
    if 8192 < 16 + es.foldl (fun a e => a + 12 + e.room) 0 then s.refuse n m Code.RANGE_CONFLICT
    else
      runEntries ((List.range es.length).zip es |>.map fun e => (e.2, foundAt fs e.1)) ⟨n, m, 0, stop, [], [], 0, 0⟩ s

/-- The enable of job `j` that a message waited for has its result; its later entries run. -/
def State.odResume (s : State) (j : Nat) (a : Answer) : State :=
  match s.odRuns.find? fun r => r.job == j with
  | none => s
  | some r =>
    let s := { s with odRuns := s.odRuns.filter fun r => r.job != j }
    match r.left with
    | (e, _) :: t => runEntries t (r.add e a) s
    | [] => s.odDone r

/-! ## The end of a multi-module enable (R355) -/

/-- The enable's result at the lead: the answer, and the OD message that waits for it. -/
def enableEnded (j : Nat) (w : Wr) : Out := answered (w.1.odResume j w.2, w.2)

/-- ENABLE_QUERY_REPLY: the reply of module `m` at the lead. -/
def execEnableQueryReply (j m : Nat) (r : EnableReply) (s : State) : Out :=
  match (s.job j).query with
  | none => .next s
  | some (rs, n, t) =>
    if !((s.jobModules j).contains m) || t + 21250 < s.now then .next s
    else
      let rs := Store.set rs m r
      if (s.jobModules j).all fun x => (Store.get? rs x).isSome then enableEnded j (s.judgeEnable n j rs)
      else .next (s.modJob j fun k => { k with query := some (rs, n, t) })

/-- ENABLE_QUERY_TIMEOUT: no reply of some module within 21,250 ticks (R355). -/
def execEnableQueryTimeout (j : Nat) (s : State) : Out :=
  match (s.job j).query with
  | none => .next s
  | some (_, n, t) =>
    if t + 21250 < s.now then enableEnded j (s.enableRefused n j ⟨Code.TOPOLOGY_MISMATCH, 0xFF, 0xFFFFFFFF⟩) else .next s

end Sys2Proof.Machine
end

