-- ==== Sys2Proof/Machine/Zenith.lean ====
section
/-!
DEFINITION. The Zenith monitor (R458 to R460, Table PK-6): each command is carried out as entries of the object dictionary with
the rights of an operator session. The answer holds the reason code and state of the closing line, and the reply's values.
-/
namespace Sys2Proof.Machine

/-- A command with its least mode, and whether RESCUE serves it. -/
def State.zen (s : State) (least : Nat) (rescue : Bool) (f : State → Wr) : Out :=
  if s.silent || (if s.bring.rescue then !rescue else decide (s.reg Od.BOOT_STAGE < 5)) then .next s
  else if s.reg Od.ZENITH_MODE < least then answered (noW s Code.LOCKED)
  else
    let r := f s
    answered (r.1.closeAll, r.2)

/-- WRITE entries in order, up to the first that fails. -/
def zenWrites (f : Found) : List (Nat × Nat × List Byte) → State → Wr
  | [], s => okW s
  | e :: t, s =>
    let w := s.writeEntry zenith f e.1 e.2.1 e.2.2
    if w.2.status = 0 then zenWrites f t w.1 else w

/-- Nothing found: for entries whose effect rests on nothing outside the module. -/
def Found.none : Found := ⟨⟨.clean, [], [], 0, 0, 0, 0⟩, 0, false, [], false, false, false, Option.none⟩

/-- id: part, serial, stepping, BOOT_STAGE, RESETS. -/
def execZenithId (s : State) : Out :=
  s.zen 0 true fun s => (s, ⟨0, 0xFF, trimZeros (leBytes 16 (s.reg Od.PART_NUMBER)) ++
    trimZeros (leBytes 16 (s.reg Od.SERIAL_NUMBER)) ++ leBytes 1 (s.reg Od.STEPPING) ++ leBytes 1 s.bootStage ++
    leBytes 8 (s.reg Od.RESETS)⟩)

/-- baud: the new rate starts after the reply. -/
def execZenithBaud (rate : Nat) (s : State) : Out :=
  s.zen 0 true fun s =>
    if 9600 ≤ rate ∧ rate ≤ 3000000 then okW (s.setReg Od.ZENITH_BAUD rate) else noW s Code.RANGE_CONFLICT

/-- rd. -/
def execZenithRd (idx : BitVec 16) (sub : Byte) (s : State) : Out :=
  s.zen 1 false fun s => (s, s.readEntry zenith idx.toNat sub.toNat)

/-- ds. -/
def execZenithDs (idx : BitVec 16) (sub : Byte) (s : State) : Out := s.zen 1 false fun s => (s, describeEntry idx.toNat sub.toNat)

/-- nx. -/
def execZenithNx (idx : BitVec 16) (sub : Byte) (s : State) : Out := s.zen 1 false fun s => (s, nextAddress idx.toNat sub.toNat)

/-- log: the `k` latest fault records. -/
def execZenithLog (k : Nat) (s : State) : Out :=
  s.zen 1 true fun s =>
    if 1 ≤ k ∧ k ≤ 64 then (s, ⟨0, 0xFF, (s.faults.take k).flatMap FaultRec.bytes⟩) else noW s Code.RANGE_CONFLICT

/-- snap: bytes of the VALID snapshot. -/
def execZenithSnap (off len : Nat) (s : State) : Out :=
  s.zen 1 false fun s =>
    if off + len ≤ s.reg Od.SNAP_LEN then (s, ⟨0, 0xFF, slice s.snapshot off len⟩) else noW s Code.RANGE_CONFLICT

/-- wr. -/
def execZenithWr (idx : BitVec 16) (sub : Byte) (val : List Byte) (f : Found) (s : State) : Out :=
  s.zen 2 false fun s => s.writeEntry zenith f idx.toNat sub.toNat val

/-- stop: DBG_STOP of a job. -/
def execZenithStop (j : Byte) (s : State) : Out :=
  s.zen 2 false (zenWrites Found.none [(0xA001, 1, leBytes 1 j.toNat), (0xA001, 2, [1])])

/-- go: DBG_RESUME of a job. -/
def execZenithGo (j : Byte) (s : State) : Out :=
  s.zen 2 false (zenWrites Found.none [(0xA001, 1, leBytes 1 j.toNat), (0xA001, 3, [1])])

/-- Steps of a strand, up to the first that is refused. -/
def zenSteps (v : Nat) : List (Phys × Nat) → State → Wr
  | [], s => okW s
  | e :: t, s =>
    let w := s.writeEntry zenith { Found.none with ph := e.1, qaCtx := e.2 } 0xA001 4 (leBytes 2 v)
    if w.2.status = 0 then zenSteps v t w.1 else w

/-- step: DBG_STEP of strand `u` as often as `phs` is long, 1 to 1,000; what each step meets. -/
def execZenithStep (u : StrandId) (phs : List (Phys × Nat)) (s : State) : Out :=
  s.zen 2 false fun s =>
    if phs = [] ∨ 1000 < phs.length then noW s Code.RANGE_CONFLICT else zenSteps u.num phs s

/-- sync: SYNC_VALUE, or NODE_FORCE where no value is given. -/
def execZenithSync (c : ClusterId) (b : Byte) (v : Option Word) (s : State) : Out :=
  let d := 0x3000 + 0x100 * c.die.val
  s.zen 2 false (zenWrites Found.none [(d + 0x40, 1, leBytes 1 c.k.val), (d + 0x60, 1, leBytes 1 b.toNat),
    match v with
    | some v => (d + 0x61, 3, leBytes 4 v.toNat)
    | none => (d + 0x61, 9, [1])])

/-- ecl: the eclipse objects. -/
def execZenithEcl (e : EclCmd) (s : State) : Out :=
  s.zen 2 false (zenWrites Found.none (match e with
    | .now => [(0xA010, 2, [0]), (0xA010, 1, [1])]
    | .at' t none => [(0xA010, 4, leBytes 8 t), (0xA010, 2, [0]), (0xA010, 1, [2])]
    | .at' t (some id) => [(0xA010, 4, leBytes 8 t), (0xA010, 3, leBytes 4 id), (0xA010, 2, [1]), (0xA010, 1, [2])]
    | .ext => [(0xA010, 2, [0]), (0xA010, 1, [3])]
    | .off => [(0xA010, 1, [0])]))

/-- key: OPERATOR_KEY, while it is unset. -/
def execZenithKey (key : BitVec 256) (s : State) : Out :=
  s.zen 2 false (zenWrites Found.none [(0x9000, 1, leBytes 32 key.toNat)])

/-- upd: staged bytes, or the commit; in RESCUE a commit that passes resets the module (R458; log entry 53). -/
def execZenithUpd (u : UpdCmd) (s : State) : Out :=
  s.zen 2 true fun s =>
    match u with
    | .data off b => zenWrites Found.none [(0x9020, 1, leBytes 4 off), (0x9020, 2, b)] s
    | .commit ok pack =>
      let w := zenWrites { Found.none with sigOk := ok, pack := pack } [(0x9020, 3, [1])] s
      if s.bring.rescue && w.2.status == 0 then (w.1.moduleReset 1 true, w.2) else w

end Sys2Proof.Machine
end

