-- ==== Sys2Proof/Machine/HostPort.lean ====
section
/-!
DEFINITION. The host port (R320 to R345) and the OPEN exchange (R434, R435): frames, the reception of MBT messages, their
hand-over in SEQ order, acknowledgement and retransmission, the protocol engine, and the port's timers.
-/
namespace Sys2Proof.Machine

/-! ## Frames (R320 to R322) -/

/-- The port has power and its pins let it run. -/
def State.portUp (s : State) : Bool := !s.bring.latched && s.bring.mrstN && s.bring.pwrgd

/-- A frame arrives. -/
def State.frame (s : State) : State := s.bump Od.FRAMES_RX 1

/-- A frame outside what the port supports (R320). -/
def State.discardFrame (s : State) : State := s.frame.bump Od.FRAMES_DISCARDED 1

/-- UNSUPPORTED_FRAME. -/
def execUnsupportedFrame (s : State) : Out := .next (if s.portUp then s.discardFrame else s)

/-- Ticks of a PFC pause of `q` quanta of 512 bit times at 800 Gb/s (IEEE 802.1Qbb; log entry 58). -/
def pauseTicks (q : Nat) : Nat := (q * 17 + 124) / 125

/-- A pause of one priority by `q` quanta, 0 to end it. -/
def State.pause (s : State) (p q : Nat) : State :=
  if q = 0 then s.unpause p else { s with pfc := Store.set s.pfc p (s.now + pauseTicks q) }

/-- PFC_FRAME: the priorities that PFC_ENABLE honours are paused. -/
def execPfcFrame (enable : Byte) (quanta : List (BitVec 16)) (s : State) : Out :=
  if !s.portUp then .next s
  else .next (forAll (List.range 8) s.frame fun s p =>
    if enable.getLsbD p && (s.reg Od.PFC_ENABLE).testBit p then s.pause p (quanta.getD p 0).toNat else s)

/-- PFC_PAUSE_EXPIRY of a priority. -/
def execPfcPauseExpiry (p : Fin 8) (s : State) : Out :=
  match Store.get? s.pfc p.val with
  | some t => .next (if s.now < t then s else s.unpause p.val)
  | none => .next s

/-- ESMC_FRAME: the quality level received. -/
def execEsmcFrame (ql : Fin 16) (s : State) : Out :=
  .next (if s.portUp then { s.frame.setReg Od.SYNCE_QL ql.val with esmcAt := s.now } else s)

/-- ESMC_TIMEOUT: no ESMC for 5 s (R345). -/
def execEsmcTimeout (s : State) : Out :=
  .next (if s.portUp && decide (s.esmcAt + 1062500000 < s.now) then s.setReg Od.SYNCE_QL 15 else s)

/-- A frame other than a datagram leaves. -/
def State.putFrame (s : State) (f : EthFrame) : State := { s with ethOut := s.ethOut ++ [f] }.bump Od.FRAMES_TX 1

/-- ESMC_QL_DNU_SEND, once per second. -/
def execEsmcQlDnuSend (s : State) : Out :=
  .next (if s.portUp && decide (s.esmcTx + 212500000 ≤ s.now) then { s.putFrame .esmcDnu with esmcTx := s.now } else s)

/-- PTP_FRAME on a VLAN (0: untagged) and domain; `announce`: timeTraceable of an Announce message. Only the root acts on it; the
time itself arrives as PTP_TIME_VALID (R207, R322). -/
def execPtpFrame (vlan domain : Nat) (announce : Option Bool) (s : State) : Out :=
  if !s.portUp then .next s
  else if !s.isRoot then .next s.frame
  else if vlan ≠ s.reg Od.PTP_VLAN then .next s.discardFrame
  else match announce with
    | some b =>
      if domain = s.reg Od.PTP_DOMAIN then .next { s.frame with sync := { s.sync with ptpTraceable := b } } else .next s.frame
    | none => .next s.frame

/-- The module's address on a VLAN; 0 for none. -/
def State.ownAddr (s : State) (vlan : Nat) (service mgmt : Obj) : Nat :=
  if vlan = s.reg Od.SERVICE_VLAN then s.reg service else if vlan = s.reg Od.MGMT_VLAN then s.reg mgmt else 0

/-- ARP_REQUEST for an address; one that is not the module's own is outside Table HP-1. -/
def execArpRequest (vlan : Nat) (target : BitVec 32) (s : State) : Out :=
  if !s.portUp then .next s
  else if target.toNat ≠ 0 ∧ s.ownAddr vlan Od.SERVICE_IPV4 Od.MGMT_IPV4 = target.toNat then
    .next (s.frame.putFrame (.arpReply vlan target.toNat))
  else .next s.discardFrame

/-- IPV6_ND: a neighbour solicitation for an address as the object holds it. -/
def execIpv6Nd (vlan : Nat) (target : BitVec 128) (s : State) : Out :=
  if !s.portUp then .next s
  else if target.toNat ≠ 0 ∧ s.ownAddr vlan Od.SERVICE_IPV6 Od.MGMT_IPV6 = target.toNat then
    .next (s.frame.putFrame (.neighbourAdvert vlan target.toNat))
  else .next s.discardFrame

/-- HOST_LINK_CHANGE: the link's new state; it ends no request by itself (R322). -/
def execHostLinkChange (v : Fin 4) (s : State) : Out := .next (if s.portUp then s.setReg Od.HOST_LINK_STATE v.val else s)

/-! ## The header in bytes (R11, R323, R324) -/

/-- Bytes 0 to 47 of the header of a datagram of the module (Table HP-2), the additional data of its tag. -/
def Wire.header (w : Wire) : List Byte :=
  let m := w.msg
  beBytes 1 1 ++ beBytes 1 m.cls ++ beBytes 1 m.kind ++ beBytes 1 m.flags ++ beBytes 2 m.session ++ beBytes 2 m.payload.length ++
    beBytes 8 w.txn ++ beBytes 4 m.seq ++ beBytes 4 w.cumAck ++ beBytes 4 w.sack ++ beBytes 4 w.credit ++ beBytes 4 w.time ++
    beBytes 2 m.reason ++ beBytes 2 m.ctx ++ beBytes 8 m.reqId

/-- The nonce of a tag: SESSION, DIR (01h from the module), 00h, TXN. -/
def mbtNonce (session dir txn : Nat) : List Byte := beBytes 2 session ++ beBytes 1 dir ++ beBytes 1 0 ++ beBytes 8 txn

/-- The bytes of a datagram of a session (R323, R324): header and tag, then the payload, encrypted where the session has PROTECT; OPEN_ACK
has neither tag nor encryption. -/
def State.datagram (s : State) (w : Wire) : List Byte :=
  let t := s.session w.msg.session
  if w.msg.cls = MC.SESSION ∧ w.msg.kind = 1 then w.header ++ List.replicate 16 0 ++ w.msg.payload
  else
    let nonce := mbtNonce w.msg.session 1 w.txn
    if t.protect then
      let sealed' := Config.gcmSeal t.key nonce w.header w.msg.payload
      w.header ++ sealed'.drop w.msg.payload.length ++ sealed'.take w.msg.payload.length
    else w.header ++ Config.gcmSeal t.key nonce (w.header ++ w.msg.payload) [] ++ w.msg.payload

/-- The header that 64 bytes from the host spell, after what the port finds: the peer's address, the verdict on the tag and LEN. -/
def MbtHdr.read (b : List Byte) (peer : BitVec 176) (tagOk : Bool) (len : Nat) : MbtHdr :=
  let f (w o : Nat) : BitVec (8 * w) := BitVec.ofNat (8 * w) (beNat (slice b o w))
  ⟨f 2 4, f 1 3, f 8 8, f 4 16, f 4 20, f 4 24, f 4 28, f 2 36, f 2 38, f 8 40, peer, tagOk, beNat (slice b 6 2) == len⟩

/-! ## Transport (R324 to R330) -/

/-- The number i + 1 above the host's CUM_ACK is marked in its SACK. -/
def hdrSacked (h : MbtHdr) (q : Nat) : Bool :=
  (List.range 32).any fun i => h.sack.getLsbD i && q == (h.cumAck.toNat + 1 + i) % 0x100000000

/-- Messages above `q` that the host's SACK marks (R329). -/
def hdrAbove (h : MbtHdr) (q : Nat) : Nat :=
  ((List.range 32).filter fun i => h.sack.getLsbD i && serialBelow q ((h.cumAck.toNat + 1 + i) % 0x100000000)).length

/-- A retransmission of message `seq` (R329); `fast`: SACK asks for it. -/
def State.retransmit (s : State) (n seq : Nat) (fast : Bool) : State :=
  match (s.session n).unacked.find? fun (u : Unacked) => u.msg.seq == seq with
  | none => s
  | some u =>
    if s.reg Od.RETX_MAX ≤ u.tries then s.endSession n (some Code.SESSION_LOST)
    else
      let rto := Nat.min (2 * u.rto) (64 * s.reg Od.RTO_MIN_TICKS)
      let s := (s.sendNow { u.msg with flags := u.msg.flags ||| 8 }).bump Od.MBT_RETRANSMITS 1
      s.modSession n fun t => { t with unacked := t.unacked.map fun (v : Unacked) =>
        if v.msg.seq = seq then ⟨v.msg, s.now, rto, v.tries + 1, v.fast || fast⟩ else v }

/-- CUM_ACK, SACK and CREDIT of a received message (R329, R330). -/
def State.takeAcks (s : State) (n : Nat) (h : MbtHdr) : State :=
  let s := s.modSession n fun t => { t with
    hostCredit := h.credit.toNat
    unacked := t.unacked.filter fun (u : Unacked) => !(serialBelow u.msg.seq h.cumAck.toNat || hdrSacked h u.msg.seq) }
  let lost := ((s.session n).unacked.filter fun (u : Unacked) => !u.fast && decide (3 ≤ hdrAbove h u.msg.seq)).map
    fun (u : Unacked) => u.msg.seq
  forAll lost s fun s q => s.retransmit n q true

/-- NACK with a code (R325, R328). -/
def State.nack (s : State) (n code ctx reqId : Nat) : State :=
  s.sendNow ⟨n, MC.ACK, 1, 3, (s.session n).txSeq, code, ctx, reqId, [], 0⟩

/-- A message in its SEQ order reaches HB or the port logic (R328). -/
def State.handOver (s : State) (n : Nat) (m : InMsg) : State :=
  if m.cls = 1 then (if m.kind = 0 then s.onParams n m else s.onPrompt n m)
  else if m.cls = 5 then
    (if m.kind = 0 then s.onImage n m else if m.kind = 1 then s.onManifest n m
     else if m.kind = 2 then s.onWeights n m else s.onAdapter n m)
  else if m.cls = 6 then (if m.kind = 0 then s.onPut n m else if m.kind = 1 then s.onExport n m else s.onImport n m)
  else if m.cls = 7 then s.onKvput n m
  else if m.cls = 8 then (s.onOd n m m.found).closeAll
  else if m.cls = 11 then s.endSession n none
  else s

/-- The messages that stand next in SEQ order are handed over; their buffers return to the pool (R328, R330). -/
def State.drain : Nat → Nat → State → State
  | 0, _, s => s
  | f + 1, n, s =>
    let t := s.session n
    match t.rxBuf.find? fun (m : InMsg) => m.seq == t.rxNext with
    | none => s
    | some m =>
      let s := if 2 ≤ (t.credit + 0x100000000 - t.rxNext) % 0x100000000 then
          s.setReg Od.CREDIT_POOL_FREE (s.reg Od.CREDIT_POOL_FREE + 1) else s
      let s := s.setSession n { t with
        rxNext := (t.rxNext + 1) % 0x100000000
        rxBuf := t.rxBuf.filter fun (x : InMsg) => x.seq != t.rxNext }
      let s := s.handOver n m
      if (s.session n).isOpen then State.drain f n s else s

/-- A sequenced message is a duplicate, out of the window, or accepted (R328). -/
def State.takeSeq (s : State) (n : Nat) (m : InMsg) : State :=
  let t := s.session n
  let due (s : State) : State := s.modSession n fun t => { t with ackDue := some (t.ackDue.getD s.now) }
  if serialBelow m.seq t.rxNext || t.rxBuf.any fun (x : InMsg) => x.seq == m.seq then due (s.bump Od.MBT_DUPLICATES 1)
  else if 32 ≤ (m.seq + 0x100000000 - t.rxNext) % 0x100000000 ∨ serialBelow m.seq t.credit = false then
    s.nack n Code.OUT_OF_WINDOW m.ctx m.reqId
  else State.drain 33 n ((due s).modSession n fun t => { t with rxBuf := t.rxBuf ++ [m] })

/-- TXN lets a message in: not accepted before and at most 1,024 below the largest (R324). -/
def Session.fresh (t : Session) (x : Nat) : Bool := !t.txns.contains x && decide (t.txnMax ≤ x + 1024)

/-- An authentic message: its TXN, address and time (R321, R324, R332). -/
def Session.heard (t : Session) (x peer now : Nat) : Session :=
  { t with
    txnMax := Nat.max t.txnMax x
    txns := x :: t.txns.filter fun (y : Nat) => decide (Nat.max t.txnMax x ≤ y + 1024)
    peer := peer
    lastRx := now }

/-- A MBT message of class `cls` and `kind` arrives (R324 to R329); `known`: VERSION, CLASS and KIND are. -/
def State.receive (s : State) (h : MbtHdr) (known : Bool) (cls kind : Nat) (payload : List Byte) (found : List Found) : State :=
  let n := h.session.toNat
  if s.silent || s.bring.rescue then s
  else
    let s := s.frame
    let t := s.session n
    if !t.isOpen then s
    else if !h.tagOk || !t.fresh h.txn.toNat then s.bump Od.TAG_FAILS 1
    else
      let s := s.setSession n (t.heard h.txn.toNat h.peer.toNat s.now)
      if !known || !h.lenOk || decide (8192 < payload.length) then s.nack n Code.BAD_MESSAGE h.ctx.toNat h.reqId.toNat
      else
        let s := s.takeAcks n h
        if !(s.session n).isOpen then s
        else if cls = 10 ∧ kind ≠ 2 ∨ cls = 11 ∧ kind ≠ 2 then s
        else s.takeSeq n ⟨cls, kind, h.flags.toNat, h.seq.toNat, h.ctx.toNat, h.reqId.toNat, payload, found⟩

/-- UNKNOWN_MESSAGE: bad VERSION, CLASS, KIND or LEN (R325). -/
def execUnknownMessage (h : MbtHdr) (s : State) : Out := .next (s.receive h false 0 0 [] [])

/-! ## Messages from the host (Table HP-3) -/

def execSubmitParams (h : MbtHdr) (payload : List Byte) (s : State) : Out := .next (s.receive h true 1 0 payload [])
def execSubmitPrompt (h : MbtHdr) (payload : List Byte) (s : State) : Out := .next (s.receive h true 1 1 payload [])
def execLoadImage (h : MbtHdr) (payload : List Byte) (s : State) : Out := .next (s.receive h true 5 0 payload [])
def execLoadManifest (h : MbtHdr) (payload : List Byte) (s : State) : Out := .next (s.receive h true 5 1 payload [])
def execLoadWeights (h : MbtHdr) (payload : List Byte) (s : State) : Out := .next (s.receive h true 5 2 payload [])
def execLoadAdapter (h : MbtHdr) (payload : List Byte) (s : State) : Out := .next (s.receive h true 5 3 payload [])
def execPrefixPut (h : MbtHdr) (payload : List Byte) (s : State) : Out := .next (s.receive h true 6 0 payload [])
def execPrefixExport (h : MbtHdr) (payload : List Byte) (s : State) : Out := .next (s.receive h true 6 1 payload [])
def execPrefixImport (h : MbtHdr) (payload : List Byte) (s : State) : Out := .next (s.receive h true 6 2 payload [])
def execKvput (h : MbtHdr) (payload : List Byte) (s : State) : Out := .next (s.receive h true 7 0 payload [])
/-- PH itself notes an authentic OD message of an operator session whose first entry writes 1 to RESET_MODULE, where firmware has stopped
(R398). -/
def State.phTakes (s : State) (h : MbtHdr) (b : List Byte) : Bool :=
  let t := s.session h.session.toNat
  s.fwStopped && !s.bring.latched && s.bring.mrstN && s.bring.pwrgd && s.bring.phReset.isNone && t.isOpen && t.tenant.isNone && h.tagOk &&
    t.fresh h.txn.toNat && (match parseOd b with
      | some (_, e :: _) => e.op == 1 && e.idx == 0x8001 && e.sub == 3 && e.val == [1]
      | _ => false)

/-- OD_MESSAGE; `found`: what the module finds at its entries, in order. -/
def execOdMessage (h : MbtHdr) (payload : List Byte) (found : List Found) (s : State) : Out :=
  if s.phTakes h payload then .next { s with bring := { s.bring with phReset := some (s.now + 212500) } }
  else .next (s.receive h true 8 0 payload found)
def execTransportAck (h : MbtHdr) (payload : List Byte) (s : State) : Out := .next (s.receive h true 10 0 payload [])
def execNack (h : MbtHdr) (payload : List Byte) (s : State) : Out := .next (s.receive h true 10 1 payload [])
def execDone (h : MbtHdr) (payload : List Byte) (s : State) : Out := .next (s.receive h true 10 2 payload [])
def execClose (h : MbtHdr) (payload : List Byte) (s : State) : Out := .next (s.receive h true 11 2 payload [])
def execKeepalive (h : MbtHdr) (payload : List Byte) (s : State) : Out := .next (s.receive h true 11 3 payload [])

/-! ## OPEN (R327, R434, R435, Table SE-2) -/

/-- Role · 1024 + tenant of an OPEN. -/
def openKey (b : List Byte) : Nat := be b 0 1 * 1024 + be b 2 2

/-- Check 2 of R434 passes. -/
def State.openOk (s : State) (b : List Byte) (mgmt authOk : Bool) : Bool :=
  let t := be b 2 2
  authOk && (if be b 0 1 = 0 then !mgmt && s.reg Od.THERMAL_STATE != 1 && decide (1 ≤ t) && decide (t ≤ 1023) &&
      s.reg (Od.TENANT_STATE t) == 1
    else be b 0 1 == 1 && mgmt && t == 0 && s.reg Od.OPERATOR_KEY_SET == 1)

/-- An OPEN refused: OPEN_ACK with the reason for session FFFFh; nothing else of it stays. -/
def State.refuseOpen (s : State) (h : MbtHdr) (mgmt : Bool) (code : Nat) : State :=
  s.putWire ⟨⟨0xFFFF, MC.SESSION, 1, 3, 0, code, 0, 0, [], 0⟩, 0, 0, 0, 0, short32 s.now, h.peer.toNat, mgmt, s.pcp mgmt 0⟩

/-- A failed OPEN is counted; the 16th within 1 s starts a lockout of 1 s (R435). -/
def State.openFailed (s : State) (k : Nat) : State :=
  let fs := s.now :: (Store.get [] s.security.failures k).filter fun (t : Nat) => decide (s.now ≤ t + 212500000)
  let s := s.bump Od.AUTH_FAILS 1
  if 16 ≤ fs.length then
    { s with security := { s.security with
        failures := Store.erase s.security.failures k
        lockouts := Store.set s.security.lockouts k (s.now + 212500000) } }
  else { s with security := { s.security with failures := Store.set s.security.failures k fs } }

/-- A role and tenant are locked out (R435). -/
def State.lockedOut (s : State) (k : Nat) : Bool :=
  match Store.get? s.security.lockouts k with
  | some t => decide (s.now ≤ t)
  | none => false

/-- The lowest session that is free. -/
def State.freeSession (s : State) : Option Nat := (List.range 4096).find? fun n => !(s.session n).isOpen

/-- An OPEN accepted: the session and its OPEN_ACK. First numbers, MODULE_NONCE and CONFIRM are free values (log entries 1, 32). -/
def State.openAs (s : State) (n : Nat) (h : MbtHdr) (b : List Byte) : State :=
  let f := s.freeN
  let rx := Config.freeNat f % 0x100000000
  let tx := Config.freeNat (f + 1) % 0x100000000
  let s := ({ s with freeN := f + 5 }.setSession n { Session.new with
    isOpen := true
    tenant := if be b 0 1 = 0 then some (be b 2 2) else none
    protect := be b 1 1 == 1
    key := Config.freeBytes (f + 4) 32
    peer := h.peer.toNat
    rxNext := rx
    credit := rx
    txSeq := tx
    hostCredit := tx
    lastRx := s.now
    lastTx := s.now }).grantCredit n
  let s := s.setReg Od.SESSIONS_OPEN (s.reg Od.SESSIONS_OPEN + 1)
  s.sendNow ⟨n, MC.SESSION, 1, 3, tx, 0, 0, 0, beBytes 4 rx ++ beBytes 4 tx ++ beBytes 4 (s.session n).credit ++
    beBytes 8 (s.reg Od.RESETS) ++ Config.freeBytes (f + 2) 32 ++ Config.freeBytes (f + 3) 32, 0⟩

/-- OPEN on MGMT_VLAN (`mgmt`) or SERVICE_VLAN; `authOk`: AUTH matches. Sessions open from step 7 of Table PK-5. -/
def execOpen (h : MbtHdr) (payload : List Byte) (mgmt authOk : Bool) (s : State) : Out :=
  if s.silent || s.bring.rescue then .next s
  else
    let s := s.frame
    let k := openKey payload
    if s.reg Od.BOOT_STAGE < 5 ∨ payload.length ≠ 1636 ∨ h.session.toNat ≠ 0xFFFF ∨ h.lenOk = false then .next s
    else if s.reg Od.MODULE_STATE = MS.LEAVING then .next (s.refuseOpen h mgmt Code.WRONG_STATE)
    else if s.lockedOut k then .next ((s.bump Od.AUTH_FAILS 1).refuseOpen h mgmt Code.AUTH_FAIL)
    else if s.openOk payload mgmt authOk = false then .next ((s.openFailed k).refuseOpen h mgmt Code.AUTH_FAIL)
    else match s.freeSession with
      | none => .next (s.refuseOpen h mgmt Code.SLOT_FULL)
      | some n => .next (s.openAs n h payload)

/-! ## Timers of a session (R329, R332, R333) -/

/-- RTO_EXPIRY of message `seq` of session `n`. -/
def execRtoExpiry (n : Nat) (seq : Word) (s : State) : Out :=
  match (s.session n).unacked.find? fun (u : Unacked) => u.msg.seq == seq.toNat with
  | some u => .next (if !s.silent && decide (u.sent + u.rto ≤ s.now) then s.retransmit n seq.toNat false else s)
  | none => .next s

/-- ACK_DELAY_EXPIRY: nothing else was sent; a TRANSPORT ACK goes. -/
def execAckDelayExpiry (n : Nat) (s : State) : Out :=
  match (s.session n).ackDue with
  | some t =>
    .next (if !s.silent && decide (t + s.reg Od.ACK_DELAY_TICKS ≤ s.now) then
      s.sendNow ⟨n, MC.ACK, 0, 3, (s.session n).txSeq, 0, 0, 0, [], 0⟩ else s)
  | none => .next s

/-- KEEPALIVE_TICKS: nothing sent on the session for so long (R332). -/
def execKeepaliveTicks (n : Nat) (s : State) : Out :=
  .next (if (s.session n).isOpen && !s.silent && decide ((s.session n).lastTx + s.reg Od.KEEPALIVE_TICKS ≤ s.now) then
    s.sendNow ⟨n, MC.SESSION, 3, 3, (s.session n).txSeq, 0, 0, 0, [], 0⟩ else s)

/-- SESSION_TIMEOUT: nothing received for so long; a message in the last tick is on time (Table HP-8). -/
def execSessionTimeout (n : Nat) (s : State) : Out :=
  .next (if (s.session n).isOpen && !s.silent && decide ((s.session n).lastRx + s.reg Od.SESSION_TIMEOUT < s.now) then
    s.endSession n (some Code.SESSION_LOST) else s)

/-! ## The protocol engine (R342) -/

/-- The place of the first message of class `c` that the host's credit allows (R330). -/
def Session.ready (t : Session) (c : Nat) : Option Nat :=
  t.txQueue.findIdx? fun (m : OutMsg) => m.eng == c && serialBelow m.seq t.hostCredit

/-- A KVPUT of an export can be made: none of the session waits in BULK, and the queue has room for it and DONE. -/
def Session.mayExport (t : Session) : Bool :=
  !t.exporting.isEmpty && decide (t.txQueue.length < 255) && !(t.txQueue.any fun (m : OutMsg) => m.cls == MC.KVPUT)

/-- The class of an export's messages: BULK, or STANDARD in an operator session (R343). -/
def Session.exportClass (t : Session) : Nat := if t.tenant.isNone then 1 else 2

/-- A session has something for class `c`. -/
def Session.waits (t : Session) (c : Nat) : Bool := (t.ready c).isSome || (t.exportClass == c && t.mayExport)

/-- The session whose turn it is in class `c`: the next one above the last that waits, else the lowest. -/
def State.turn (s : State) (c : Nat) : Option Nat :=
  let ns := (s.sessions.filter fun (e : Nat × Session) => e.2.waits c).map Prod.fst
  match Store.get? s.engineTurns c with
  | some k => match ns.find? fun n => decide (k < n) with
    | some n => some n
    | none => ns.head?
  | none => ns.head?

/-- One message of session `n` in class `c`. -/
def State.serve (s : State) (c n : Nat) : State :=
  let t := s.session n
  let s := { s with engineTurns := Store.set s.engineTurns c n }
  let s := match t.exporting with
    | x :: _ => if t.exportClass = c ∧ t.mayExport ∧ (t.ready c).isNone then s.exportNext n x else s
    | [] => s
  match (s.session n).ready c with
  | some k => s.transmit n k
  | none => s

/-- PROTOCOL_ENGINE_SLICE: LC before STANDARD before BULK; every 16th slice BULK where it waits. -/
def execProtocolEngineSlice (s : State) : Out :=
  if s.silent then .next s
  else
    let i := s.engineSlices + 1
    let s := { s with engineSlices := i }
    let order := if i % 16 = 0 then [2, 0, 1] else [0, 1, 2]
    match order.findSome? fun c => (s.turn c).map fun n => (c, n) with
    | some (c, n) => .next (s.serve c n)
    | none => .next s

end Sys2Proof.Machine
end

