-- ==== Sys2Proof/Machine/Tick.lean ====
section
/-!
DEFINITION. The sidereal tick (R206): what the module does as the count advances.
-/
namespace Sys2Proof.Machine

/-- A LOADING version whose blocks here are all ACTIVE is READY once those of the slice's other modules are (Table WT-1), whose reports no
row of the table carries: the tick in which they are is free (log entry 71). -/
def State.loadDone (s : State) (e : Nat) : State :=
  if s.verState e = VS.LOADING ∧ (s.version e).blocks.all (fun b => b.done) = true ∧ s.farBlocks e = true then
    if Config.freeBool s.freeN then (s.spend 1).versionReady e else s.spend 1
  else s

/-- SIDEREAL_TICK: the count advances by one in every block (R206), or as a slew makes it (R209). Breaches of the tick that ends are
reported (Table ST-6), source stops inject, and what is keyed to a count value that a backward slew repeats takes place once (R213). -/
def execSiderealTick (s : State) : Out :=
  let s := forAll s.ctxList s fun s x => s.breachNow x
  let s := forAll (s.strands.map Prod.fst) s fun s u => s.tickDeadline u
  let s := forAll (s.jobs.map Prod.fst) s fun s j => s.tickJob j
  let step := s.sync.step
  let s := { s with count := s.count + 1 + BitVec.ofInt 64 step, ticks := s.ticks + 1, sync := { s.sync with step := 0, skipped := decide (0 < step) } }
  let s := forAll (s.strands.map Prod.fst) s fun s u => s.tickStrand u
  let s := forAll (s.clusters.map Prod.fst) s fun s c => (s.tickCluster c).tickFragment c
  let s := forAll (s.jobs.map Prod.fst) s fun s j => ((s.askPeers j).peerDone j).tickLow j
  let s := forAll (List.range s.net.length) s.tickInject fun s k => s.tickPort k
  let s := forAll (s.prefixes.map Prod.fst) s fun s e => s.evictDue e
  let s := forAll (s.adapters.map Prod.fst) s fun s e => s.supersededDue e
  let s := forAll (s.versions.map Prod.fst) s fun s e => s.loadDone e
  let s := s.tickHoldover
  if step < 0 then .next s
  else
    let s := s.tickBeacon
    .next (if s.now % 0x10000 = 0 then s.windowEnd else s)

end Sys2Proof.Machine
end

