-- ==== Sys2Proof/Machine/Dispatch.lean ====
section
/-!
DEFINITION. One arm per command: each is one direct call of the command's meaning.
-/
namespace Sys2Proof.Machine

def exec (i : Instr) (s : State) : Host.Outcome State Fault Refusal :=
  match i with
  | .nop iss => Sys2Proof.Machine.execNop iss s
  | .add iss rd ra rb => Sys2Proof.Machine.execAdd iss rd ra rb s
  | .sub iss rd ra rb => Sys2Proof.Machine.execSub iss rd ra rb s
  | .and iss rd ra rb => Sys2Proof.Machine.execAnd iss rd ra rb s
  | .or iss rd ra rb => Sys2Proof.Machine.execOr iss rd ra rb s
  | .xor iss rd ra rb => Sys2Proof.Machine.execXor iss rd ra rb s
  | .shl iss rd ra rb => Sys2Proof.Machine.execShl iss rd ra rb s
  | .shr iss rd ra rb => Sys2Proof.Machine.execShr iss rd ra rb s
  | .sra iss rd ra rb => Sys2Proof.Machine.execSra iss rd ra rb s
  | .mul iss rd ra rb => Sys2Proof.Machine.execMul iss rd ra rb s
  | .slt iss rd ra rb => Sys2Proof.Machine.execSlt iss rd ra rb s
  | .sltu iss rd ra rb => Sys2Proof.Machine.execSltu iss rd ra rb s
  | .min iss rd ra rb => Sys2Proof.Machine.execMin iss rd ra rb s
  | .max iss rd ra rb => Sys2Proof.Machine.execMax iss rd ra rb s
  | .addi iss rd ra imm => Sys2Proof.Machine.execAddi iss rd ra imm s
  | .andi iss rd ra imm => Sys2Proof.Machine.execAndi iss rd ra imm s
  | .ori iss rd ra imm => Sys2Proof.Machine.execOri iss rd ra imm s
  | .xori iss rd ra imm => Sys2Proof.Machine.execXori iss rd ra imm s
  | .slti iss rd ra imm => Sys2Proof.Machine.execSlti iss rd ra imm s
  | .shiShl iss rd ra sh => Sys2Proof.Machine.execShiShl iss rd ra sh s
  | .shiShr iss rd ra sh => Sys2Proof.Machine.execShiShr iss rd ra sh s
  | .shiSra iss rd ra sh => Sys2Proof.Machine.execShiSra iss rd ra sh s
  | .lui iss rd imm => Sys2Proof.Machine.execLui iss rd imm s
  | .lds iss rd ra imm => Sys2Proof.Machine.execLds iss rd ra imm s
  | .sts iss rd ra imm => Sys2Proof.Machine.execSts iss rd ra imm s
  | .sysr iss rd imm => Sys2Proof.Machine.execSysr iss rd imm s
  | .beq iss ra rb off => Sys2Proof.Machine.execBeq iss ra rb off s
  | .bne iss ra rb off => Sys2Proof.Machine.execBne iss ra rb off s
  | .blt iss ra rb off => Sys2Proof.Machine.execBlt iss ra rb off s
  | .bge iss ra rb off => Sys2Proof.Machine.execBge iss ra rb off s
  | .bltu iss ra rb off => Sys2Proof.Machine.execBltu iss ra rb off s
  | .bgeu iss ra rb off => Sys2Proof.Machine.execBgeu iss ra rb off s
  | .jal iss off => Sys2Proof.Machine.execJal iss off s
  | .jr iss ra => Sys2Proof.Machine.execJr iss ra s
  | .bpany iss pn off => Sys2Proof.Machine.execBpany iss pn off s
  | .bpall iss pn off => Sys2Proof.Machine.execBpall iss pn off s
  | .vadd iss o => Sys2Proof.Machine.execVadd iss o s
  | .vsub iss o => Sys2Proof.Machine.execVsub iss o s
  | .vmul iss o => Sys2Proof.Machine.execVmul iss o s
  | .vmax iss o => Sys2Proof.Machine.execVmax iss o s
  | .vmin iss o => Sys2Proof.Machine.execVmin iss o s
  | .vfma iss o => Sys2Proof.Machine.execVfma iss o s
  | .vand iss o => Sys2Proof.Machine.execVand iss o s
  | .vor iss o => Sys2Proof.Machine.execVor iss o s
  | .vxor iss o => Sys2Proof.Machine.execVxor iss o s
  | .vshl iss o => Sys2Proof.Machine.execVshl iss o s
  | .vshr iss o => Sys2Proof.Machine.execVshr iss o s
  | .vabs iss o => Sys2Proof.Machine.execVabs iss o s
  | .vneg iss o => Sys2Proof.Machine.execVneg iss o s
  | .vsel iss o => Sys2Proof.Machine.execVsel iss o s
  | .vexp2 iss o => Sys2Proof.Machine.execVexp2 iss o s
  | .vexp iss o => Sys2Proof.Machine.execVexp iss o s
  | .vrcp iss o => Sys2Proof.Machine.execVrcp iss o s
  | .vrsqrt iss o => Sys2Proof.Machine.execVrsqrt iss o s
  | .vlog2 iss o => Sys2Proof.Machine.execVlog2 iss o s
  | .vsigm iss o => Sys2Proof.Machine.execVsigm iss o s
  | .vtanh iss o => Sys2Proof.Machine.execVtanh iss o s
  | .vsilu iss o => Sys2Proof.Machine.execVsilu iss o s
  | .vrsum iss o => Sys2Proof.Machine.execVrsum iss o s
  | .vrmax iss o => Sys2Proof.Machine.execVrmax iss o s
  | .vrmin iss o => Sys2Proof.Machine.execVrmin iss o s
  | .vrargmax iss o => Sys2Proof.Machine.execVrargmax iss o s
  | .vcmplt iss o => Sys2Proof.Machine.execVcmplt iss o s
  | .vcmple iss o => Sys2Proof.Machine.execVcmple iss o s
  | .vcmpeq iss o => Sys2Proof.Machine.execVcmpeq iss o s
  | .vcmpne iss o => Sys2Proof.Machine.execVcmpne iss o s
  | .vcvt iss vd va pr src dst sat => Sys2Proof.Machine.execVcvt iss vd va pr src dst sat s
  | .vbcast iss vd sa pr => Sys2Proof.Machine.execVbcast iss vd sa pr s
  | .viota iss vd pr => Sys2Proof.Machine.execViota iss vd pr s
  | .vcopy iss vd va pr => Sys2Proof.Machine.execVcopy iss vd va pr s
  | .vld iss vd ra len off => Sys2Proof.Machine.execVld iss vd ra len off s
  | .vst iss vd ra len off => Sys2Proof.Machine.execVst iss vd ra len off s
  | .pand iss pd pa pb pr => Sys2Proof.Machine.execPand iss pd pa pb pr s
  | .por iss pd pa pb pr => Sys2Proof.Machine.execPor iss pd pa pb pr s
  | .pxor iss pd pa pb pr => Sys2Proof.Machine.execPxor iss pd pa pb pr s
  | .pnot iss pd pa pr => Sys2Proof.Machine.execPnot iss pd pa pr s
  | .pcnt iss sd pa pr => Sys2Proof.Machine.execPcnt iss sd pa pr s
  | .qa iss va sd sp dst mode a4 rpl x => Sys2Proof.Machine.execQa iss va sd sp dst mode a4 rpl x s
  | .qkv4 iss va sd sp => Sys2Proof.Machine.execQkv4 iss va sd sp s
  | .qkv8 iss va sd sp => Sys2Proof.Machine.execQkv8 iss va sd sp s
  | .qmx4 iss va sd sp => Sys2Proof.Machine.execQmx4 iss va sd sp s
  | .qmx5 iss va sd sp => Sys2Proof.Machine.execQmx5 iss va sd sp s
  | .mxexp iss sd sp => Sys2Proof.Machine.execMxexp iss sd sp s
  | .mximp iss sd sp => Sys2Proof.Machine.execMximp iss sd sp s
  | .dqa8 iss va sd sp => Sys2Proof.Machine.execDqa8 iss va sd sp s
  | .dqa4 iss va sd sp => Sys2Proof.Machine.execDqa4 iss va sd sp s
  | .dqkv4 iss va sd sp => Sys2Proof.Machine.execDqkv4 iss va sd sp s
  | .dqkv8 iss va sd sp => Sys2Proof.Machine.execDqkv8 iss va sd sp s
  | .dqmx4 iss va sd sp => Sys2Proof.Machine.execDqmx4 iss va sd sp s
  | .dqmx5 iss va sd sp => Sys2Proof.Machine.execDqmx5 iss va sd sp s
  | .mvm iss o => Sys2Proof.Machine.execMvm iss o s
  | .tread iss o => Sys2Proof.Machine.execTread iss o s
  | .seq0 iss o => Sys2Proof.Machine.execSeq0 iss o s
  | .seq6 iss o => Sys2Proof.Machine.execSeq6 iss o s
  | .dma iss rd ra rb notify => Sys2Proof.Machine.execDma iss rd ra rb notify s
  | .rsend iss rd ra rb ring auto reduce pack => Sys2Proof.Machine.execRsend iss rd ra rb ring auto reduce pack s
  | .rrecv iss rd ra chan notify => Sys2Proof.Machine.execRrecv iss rd ra chan notify s
  | .sinc iss obj ra => Sys2Proof.Machine.execSinc iss obj ra s
  | .sset iss obj ra => Sys2Proof.Machine.execSset iss obj ra s
  | .swait iss obj ra => Sys2Proof.Machine.execSwait iss obj ra s
  | .swaiteq iss obj ra => Sys2Proof.Machine.execSwaiteq iss obj ra s
  | .sread iss obj rd => Sys2Proof.Machine.execSread iss obj rd s
  | .ssig iss obj ra rd => Sys2Proof.Machine.execSsig iss obj ra rd s
  | .sarrive iss obj => Sys2Proof.Machine.execSarrive iss obj s
  | .twait iss p => Sys2Proof.Machine.execTwait iss p s
  | .dln iss p => Sys2Proof.Machine.execDln iss p s
  | .tbase iss p => Sys2Proof.Machine.execTbase iss p s
  | .tnow iss rd => Sys2Proof.Machine.execTnow iss rd s
  | .tgap iss g => Sys2Proof.Machine.execTgap iss g s
  | .batch iss bank => Sys2Proof.Machine.execBatch iss bank s
  | .step iss => Sys2Proof.Machine.execStep iss s
  | .endJob iss => Sys2Proof.Machine.execEnd iss s
  | .trst iss => Sys2Proof.Machine.execTrst iss s
  | .pslot iss ra => Sys2Proof.Machine.execPslot iss ra s
  | .ptag iss ra rd => Sys2Proof.Machine.execPtag iss ra rd s
  | .pcsrr iss rd n => Sys2Proof.Machine.execPcsrr iss rd n s
  | .pcsrw iss ra n => Sys2Proof.Machine.execPcsrw iss ra n s
  | .pclr iss ra => Sys2Proof.Machine.execPclr iss ra s
  | .degenReplay u => Sys2Proof.Machine.execDegenReplay u s
  | .arrayQueueEntry x clk late => Sys2Proof.Machine.execArrayQueueEntry x clk late s
  | .arrayCommandStart x st clk => Sys2Proof.Machine.execArrayCommandStart x st clk s
  | .arrayPhaseStart x clk => Sys2Proof.Machine.execArrayPhaseStart x clk s
  | .arrayResultAvailable x => Sys2Proof.Machine.execArrayResultAvailable x s
  | .programRow x clk iters ok => Sys2Proof.Machine.execProgramRow x clk iters ok s
  | .seqStart n x v => Sys2Proof.Machine.execSeqStart n x v s
  | .seqAbort n x v => Sys2Proof.Machine.execSeqAbort n x v s
  | .seqEntry n x e v => Sys2Proof.Machine.execSeqEntry n x e v s
  | .seqResume x => Sys2Proof.Machine.execSeqResume x s
  | .seqNop x => Sys2Proof.Machine.execSeqNop x s
  | .senseCol x => Sys2Proof.Machine.execSenseCol x s
  | .senseRow x => Sys2Proof.Machine.execSenseRow x s
  | .zeroRef x => Sys2Proof.Machine.execZeroRef x s
  | .refCol x => Sys2Proof.Machine.execRefCol x s
  | .openWire x faults => Sys2Proof.Machine.execOpenWire x faults s
  | .biasMon x => Sys2Proof.Machine.execBiasMon x s
  | .monitorWindowEnd x => Sys2Proof.Machine.execMonitorWindowEnd x s
  | .strandStart j => Sys2Proof.Machine.execStrandStart j s
  | .holdStart j => Sys2Proof.Machine.execHoldStart j s
  | .holdEnd j => Sys2Proof.Machine.execHoldEnd j s
  | .strandClearDone v => Sys2Proof.Machine.execStrandClearDone v s
  | .dmaComplete v parity => Sys2Proof.Machine.execDmaComplete v parity s
  | .messageLand k conflicts => Sys2Proof.Machine.execMessageLand k conflicts s
  | .badHeaders d type => Sys2Proof.Machine.execBadHeaders d type s
  | .mergeForward j rgid iss => Sys2Proof.Machine.execMergeForward j rgid iss s
  | .mergeTimeout j rgid iss => Sys2Proof.Machine.execMergeTimeout j rgid iss s
  | .flitReplay d g link what again => Sys2Proof.Machine.execFlitReplay d g link what again s
  | .linkAckTimeout l => Sys2Proof.Machine.execLinkAckTimeout l s
  | .linkTrainingDone l ok => Sys2Proof.Machine.execLinkTrainingDone l ok s
  | .linkRetrain n l v => Sys2Proof.Machine.execLinkRetrain n l v s
  | .syncAdd k => Sys2Proof.Machine.execSyncAdd k s
  | .arrive k => Sys2Proof.Machine.execArrive k s
  | .release k => Sys2Proof.Machine.execRelease k s
  | .orphan k => Sys2Proof.Machine.execOrphan k s
  | .control k => Sys2Proof.Machine.execControl k s
  | .ballastFloorUpdate dst => Sys2Proof.Machine.execBallastFloorUpdate dst s
  | .allowanceLend c => Sys2Proof.Machine.execAllowanceLend c s
  | .syncValue n c b v => Sys2Proof.Machine.execSyncValue n c b v s
  | .nodeForce n c b v => Sys2Proof.Machine.execNodeForce n c b v s
  | .idleGap v => Sys2Proof.Machine.execIdleGap v s
  | .beaconSend ptp => Sys2Proof.Machine.execBeaconSend ptp s
  | .beacon p cnt root hops seq flags off => Sys2Proof.Machine.execBeacon p cnt root hops seq flags off s
  | .slew => Sys2Proof.Machine.execSlew s
  | .beaconTimeout => Sys2Proof.Machine.execBeaconTimeout s
  | .syncReacquire => Sys2Proof.Machine.execSyncReacquire s
  | .ptpTimeValid t => Sys2Proof.Machine.execPtpTimeValid t s
  | .holdRecord j m cause times => Sys2Proof.Machine.execHoldRecord j m cause times s
  | .peerHoldRequest j m off => Sys2Proof.Machine.execPeerHoldRequest j m off s
  | .elasticRelease j k => Sys2Proof.Machine.execElasticRelease j k s
  | .ceilingReport m d c => Sys2Proof.Machine.execCeilingReport m d c s
  | .unsupportedFrame => Sys2Proof.Machine.execUnsupportedFrame s
  | .pfcFrame enable quanta => Sys2Proof.Machine.execPfcFrame enable quanta s
  | .esmcFrame ql => Sys2Proof.Machine.execEsmcFrame ql s
  | .ptpFrame vlan domain announce => Sys2Proof.Machine.execPtpFrame vlan domain announce s
  | .arpRequest vlan target => Sys2Proof.Machine.execArpRequest vlan target s
  | .ipv6Nd vlan target => Sys2Proof.Machine.execIpv6Nd vlan target s
  | .hostLinkChange v => Sys2Proof.Machine.execHostLinkChange v s
  | .unknownMessage h => Sys2Proof.Machine.execUnknownMessage h s
  | .submitParams h payload => Sys2Proof.Machine.execSubmitParams h payload s
  | .submitPrompt h payload => Sys2Proof.Machine.execSubmitPrompt h payload s
  | .admissionRecord x => Sys2Proof.Machine.execAdmissionRecord x s
  | .stream k => Sys2Proof.Machine.execStream k s
  | .stepReport k => Sys2Proof.Machine.execStepReport k s
  | .kvReleased x => Sys2Proof.Machine.execKvReleased x s
  | .retainExpiry x => Sys2Proof.Machine.execRetainExpiry x s
  | .ctxCancel n x => Sys2Proof.Machine.execCtxCancel n x s
  | .trainResume j => Sys2Proof.Machine.execTrainResume j s
  | .prefixPut h payload => Sys2Proof.Machine.execPrefixPut h payload s
  | .prefixExport h payload => Sys2Proof.Machine.execPrefixExport h payload s
  | .prefixImport h payload => Sys2Proof.Machine.execPrefixImport h payload s
  | .kvput h payload => Sys2Proof.Machine.execKvput h payload s
  | .importDeadline e => Sys2Proof.Machine.execImportDeadline e s
  | .prefixDelete n h => Sys2Proof.Machine.execPrefixDelete n h s
  | .loadImage h payload => Sys2Proof.Machine.execLoadImage h payload s
  | .loadManifest h payload => Sys2Proof.Machine.execLoadManifest h payload s
  | .loadWeights h payload => Sys2Proof.Machine.execLoadWeights h payload s
  | .loadAdapter h payload => Sys2Proof.Machine.execLoadAdapter h payload s
  | .loadTreeFragment b poison => Sys2Proof.Machine.execLoadTreeFragment b poison s
  | .chunkDecode e d num k bad => Sys2Proof.Machine.execChunkDecode e d num k bad s
  | .blockProgram c => Sys2Proof.Machine.execBlockProgram c s
  | .odMessage h payload found => Sys2Proof.Machine.execOdMessage h payload found s
  | .odRead n idx sub => Sys2Proof.Machine.execOdRead n idx sub s
  | .odWrite n f idx sub val => Sys2Proof.Machine.execOdWrite n f idx sub val s
  | .odDescribe n idx sub => Sys2Proof.Machine.execOdDescribe n idx sub s
  | .odNext n idx sub => Sys2Proof.Machine.execOdNext n idx sub s
  | .transportAck h payload => Sys2Proof.Machine.execTransportAck h payload s
  | .nack h payload => Sys2Proof.Machine.execNack h payload s
  | .ackDone h payload => Sys2Proof.Machine.execDone h payload s
  | .openSession h payload mgmt authOk => Sys2Proof.Machine.execOpen h payload mgmt authOk s
  | .closeSession h payload => Sys2Proof.Machine.execClose h payload s
  | .keepalive h payload => Sys2Proof.Machine.execKeepalive h payload s
  | .rtoExpiry n seq => Sys2Proof.Machine.execRtoExpiry n seq s
  | .ackDelayExpiry n => Sys2Proof.Machine.execAckDelayExpiry n s
  | .keepaliveTicks n => Sys2Proof.Machine.execKeepaliveTicks n s
  | .sessionTimeout n => Sys2Proof.Machine.execSessionTimeout n s
  | .protocolEngineSlice => Sys2Proof.Machine.execProtocolEngineSlice s
  | .verCreate n e v => Sys2Proof.Machine.execVerCreate n e v s
  | .verCommit n e v peer => Sys2Proof.Machine.execVerCommit n e v peer s
  | .verSwitch n e v => Sys2Proof.Machine.execVerSwitch n e v s
  | .verDelete n e v => Sys2Proof.Machine.execVerDelete n e v s
  | .verFixed n e v => Sys2Proof.Machine.execVerFixed n e v s
  | .drainComplete e => Sys2Proof.Machine.execDrainComplete e s
  | .meridianReport e m c => Sys2Proof.Machine.execMeridianReport e m c s
  | .meridianPointerMove e => Sys2Proof.Machine.execMeridianPointerMove e s
  | .meridianTimeout e => Sys2Proof.Machine.execMeridianTimeout e s
  | .versionRelease e => Sys2Proof.Machine.execVersionRelease e s
  | .failedVersionExpiry e => Sys2Proof.Machine.execFailedVersionExpiry e s
  | .copyRead x use cells amb => Sys2Proof.Machine.execCopyRead x use cells amb s
  | .adapterDelete n h => Sys2Proof.Machine.execAdapterDelete n h s
  | .adapterIdleExpiry e => Sys2Proof.Machine.execAdapterIdleExpiry e s
  | .transitStart c => Sys2Proof.Machine.execTransitStart c s
  | .transitOverdue x => Sys2Proof.Machine.execTransitOverdue x s
  | .shadowWindowEnd c => Sys2Proof.Machine.execShadowWindowEnd c s
  | .transitSwap c => Sys2Proof.Machine.execTransitSwap c s
  | .transitCopyTimeout c => Sys2Proof.Machine.execTransitCopyTimeout c s
  | .transitPeriodS n v => Sys2Proof.Machine.execTransitPeriodS n v s
  | .restCalibration x fit faults => Sys2Proof.Machine.execRestCalibration x fit faults s
  | .correctionTargetUpdate x => Sys2Proof.Machine.execCorrectionTargetUpdate x s
  | .rampStep => Sys2Proof.Machine.execRampStep s
  | .portLight p => Sys2Proof.Machine.execPortLight p s
  | .portTrainingDone p n epoch delay => Sys2Proof.Machine.execPortTrainingDone p n epoch delay s
  | .portLossOfLight p => Sys2Proof.Machine.execPortLossOfLight p s
  | .fabricFlitReplay p flit => Sys2Proof.Machine.execFabricFlitReplay p flit s
  | .portRetrain n p v => Sys2Proof.Machine.execPortRetrain n p v s
  | .linkDelayMeasure p delay => Sys2Proof.Machine.execLinkDelayMeasure p delay s
  | .losDebounceExpiry p => Sys2Proof.Machine.execLosDebounceExpiry p s
  | .probeTimeout p => Sys2Proof.Machine.execProbeTimeout p s
  | .departure p m epoch => Sys2Proof.Machine.execDeparture p m epoch s
  | .lost p m epoch cause port => Sys2Proof.Machine.execLost p m epoch cause port s
  | .probe m port => Sys2Proof.Machine.execProbe m port s
  | .probeAck m => Sys2Proof.Machine.execProbeAck m s
  | .beaconReq p => Sys2Proof.Machine.execBeaconReq p s
  | .beaconRel p => Sys2Proof.Machine.execBeaconRel p s
  | .fabricMessageArrival p fs => Sys2Proof.Machine.execFabricMessageArrival p fs s
  | .e2eAck m f => Sys2Proof.Machine.execE2eAck m f s
  | .e2eAckSend m => Sys2Proof.Machine.execE2eAckSend m s
  | .fabricResendTimeout k => Sys2Proof.Machine.execFabricResendTimeout k s
  | .sliceReshape n k f v => Sys2Proof.Machine.execSliceReshape n k f v s
  | .enableQuery j m => Sys2Proof.Machine.execEnableQuery j m s
  | .enableQueryReply j m r => Sys2Proof.Machine.execEnableQueryReply j m r s
  | .enableQueryTimeout j => Sys2Proof.Machine.execEnableQueryTimeout j s
  | .enableStart j mask delay start => Sys2Proof.Machine.execEnableStart j mask delay start s
  | .rejoin n mask => Sys2Proof.Machine.execRejoin n mask s
  | .expectUntilExpiry => Sys2Proof.Machine.execExpectUntilExpiry s
  | .moduleEnable n v f => Sys2Proof.Machine.execModuleEnable n v f s
  | .checkOnly n v f => Sys2Proof.Machine.execCheckOnly n v f s
  | .restoreDefaults n v => Sys2Proof.Machine.execRestoreDefaults n v s
  | .jobBind n j v => Sys2Proof.Machine.execJobBind n j v s
  | .jobEnable n j v => Sys2Proof.Machine.execJobEnable n j v s
  | .jobUnload n j v => Sys2Proof.Machine.execJobUnload n j v s
  | .imageDelete n iss v => Sys2Proof.Machine.execImageDelete n iss v s
  | .poisonReport c w bank => Sys2Proof.Machine.execPoisonReport c w bank s
  | .fragmentStart c a => Sys2Proof.Machine.execFragmentStart c a s
  | .fragmentEnd c sig bad rows => Sys2Proof.Machine.execFragmentEnd c sig bad rows s
  | .holdStuck j => Sys2Proof.Machine.execHoldStuck j s
  | .heartbeat n v => Sys2Proof.Machine.execHeartbeat n v s
  | .serviceLoopDone core => Sys2Proof.Machine.execServiceLoopDone core s
  | .resetCluster n c => Sys2Proof.Machine.execResetCluster n c s
  | .clusterResetDone c => Sys2Proof.Machine.execClusterResetDone c s
  | .resetDie n d => Sys2Proof.Machine.execResetDie n d s
  | .dieResetDone d => Sys2Proof.Machine.execDieResetDone d s
  | .resetModule n v => Sys2Proof.Machine.execResetModule n v s
  | .departureWaitExpiry => Sys2Proof.Machine.execDepartureWaitExpiry s
  | .phResetTimeout => Sys2Proof.Machine.execPhResetTimeout s
  | .mrstN v => Sys2Proof.Machine.execMrstN v s
  | .pwrgd v => Sys2Proof.Machine.execPwrgd v s
  | .dumpClear n v => Sys2Proof.Machine.execDumpClear n v s
  | .hostSignal => Sys2Proof.Machine.execHostSignal s
  | .cdrLock => Sys2Proof.Machine.execCdrLock s
  | .cdrLockTimeout => Sys2Proof.Machine.execCdrLockTimeout s
  | .pllStable die => Sys2Proof.Machine.execPllStable die s
  | .hbBoot a b newest => Sys2Proof.Machine.execHbBoot a b newest s
  | .trimsReloaded => Sys2Proof.Machine.execTrimsReloaded s
  | .arraySweep x te zero refErr ambig => Sys2Proof.Machine.execArraySweep x te zero refErr ambig s
  | .refLoss lock => Sys2Proof.Machine.execRefLoss lock s
  | .refHoldoverExpiry => Sys2Proof.Machine.execRefHoldoverExpiry s
  | .oppChange d => Sys2Proof.Machine.execOppChange d s
  | .clusterRetention c => Sys2Proof.Machine.execClusterRetention c s
  | .clusterWake c => Sys2Proof.Machine.execClusterWake c s
  | .retainWakeExpiry c => Sys2Proof.Machine.execRetainWakeExpiry c s
  | .biasIdle x => Sys2Proof.Machine.execBiasIdle x s
  | .clPwrReq n c v => Sys2Proof.Machine.execClPwrReq n c v s
  | .fabPortPwr n p v => Sys2Proof.Machine.execFabPortPwr n p v s
  | .sensorWindow readings => Sys2Proof.Machine.execSensorWindow readings s
  | .thermalRestart n v => Sys2Proof.Machine.execThermalRestart n v s
  | .operatorKey n key => Sys2Proof.Machine.execOperatorKey n key s
  | .tenantKey n t key => Sys2Proof.Machine.execTenantKey n t key s
  | .tenantDelete n t v => Sys2Proof.Machine.execTenantDelete n t v s
  | .updateData n b => Sys2Proof.Machine.execUpdateData n b s
  | .updateCommit n v sigOk pack => Sys2Proof.Machine.execUpdateCommit n v sigOk pack s
  | .kemRotate n v => Sys2Proof.Machine.execKemRotate n v s
  | .attestSign n v => Sys2Proof.Machine.execAttestSign n v s
  | .keyInstall n b tagOk => Sys2Proof.Machine.execKeyInstall n b tagOk s
  | .keyDelete n h => Sys2Proof.Machine.execKeyDelete n h s
  | .i2cRead off len => Sys2Proof.Machine.execI2cRead off len s
  | .i2cWrite b => Sys2Proof.Machine.execI2cWrite b s
  | .timingRoot v => Sys2Proof.Machine.execTimingRoot v s
  | .dbgStop n v => Sys2Proof.Machine.execDbgStop n v s
  | .debugEntry j stop => Sys2Proof.Machine.execDebugEntry j stop s
  | .dbgStep n v ph x => Sys2Proof.Machine.execDbgStep n v ph x s
  | .dbgResume n v => Sys2Proof.Machine.execDbgResume n v s
  | .dbgRegisterAccess n r x => Sys2Proof.Machine.execDbgRegisterAccess n r x s
  | .eclNow n => Sys2Proof.Machine.execEclNow n s
  | .eclAtTick n => Sys2Proof.Machine.execEclAtTick n s
  | .eclExternal n => Sys2Proof.Machine.execEclExternal n s
  | .eclOff n => Sys2Proof.Machine.execEclOff n s
  | .eclRemoteArm tick => Sys2Proof.Machine.execEclRemoteArm tick s
  | .ecIn v => Sys2Proof.Machine.execEcIn v s
  | .eclipse => Sys2Proof.Machine.execEclipse s
  | .snapshotCollected => Sys2Proof.Machine.execSnapshotCollected s
  | .zenithId => Sys2Proof.Machine.execZenithId s
  | .zenithBaud rate => Sys2Proof.Machine.execZenithBaud rate s
  | .zenithRd idx sub => Sys2Proof.Machine.execZenithRd idx sub s
  | .zenithDs idx sub => Sys2Proof.Machine.execZenithDs idx sub s
  | .zenithNx idx sub => Sys2Proof.Machine.execZenithNx idx sub s
  | .zenithLog k => Sys2Proof.Machine.execZenithLog k s
  | .zenithSnap off len => Sys2Proof.Machine.execZenithSnap off len s
  | .zenithWr idx sub val f => Sys2Proof.Machine.execZenithWr idx sub val f s
  | .zenithStop j => Sys2Proof.Machine.execZenithStop j s
  | .zenithGo j => Sys2Proof.Machine.execZenithGo j s
  | .zenithStep u phs => Sys2Proof.Machine.execZenithStep u phs s
  | .zenithSync c b v => Sys2Proof.Machine.execZenithSync c b v s
  | .zenithEcl e => Sys2Proof.Machine.execZenithEcl e s
  | .zenithKey key => Sys2Proof.Machine.execZenithKey key s
  | .zenithUpd u => Sys2Proof.Machine.execZenithUpd u s
  | .siderealTick => Sys2Proof.Machine.execSiderealTick s
  | .crashDumpCommitted => Sys2Proof.Machine.execCrashDumpCommitted s
  | .firmwareFault core kind pc addr => Sys2Proof.Machine.execFirmwareFault core kind pc addr s
  | .esmcTimeout => Sys2Proof.Machine.execEsmcTimeout s
  | .esmcQlDnuSend => Sys2Proof.Machine.execEsmcQlDnuSend s
  | .pfcPauseExpiry p => Sys2Proof.Machine.execPfcPauseExpiry p s

end Sys2Proof.Machine
end

