-- ==== Sys2Proof/Safety.lean ====
section
/-!
DEFINITION. The terms that the statements use: when an instruction issues, what its issue leaves unchanged, when a write of
an object is accepted, and the invariant that every step keeps.
-/
namespace Sys2Proof.Machine

/-! ## The issue of an instruction -/

/-- The strand may issue the instruction (R116, R132, R160), its word is fetched (R146), and no deadline of its DLN is missed (R159). -/
abbrev Ready (i : Issue) (s : State) : Prop := s.mayIssue i.u.num = true ∧ i.ph.fetch ≠ .failed ∧ s.onTime i.u.num i.ph.clk.val = true

/-- A strand that has issued an instruction and goes on at word `pc`: the deadline is spent and no stall is left (R116, R159). -/
def Strand.past (t : Strand) (pc : Nat) : Strand :=
  { t with pc := pc % 8192, deadline := none, late := false, stall := none, idleOffered := false, stepping := false }

/-- A cluster in which an instruction has issued at tick `n` of the module: its allowance is its own again (R237), and the ticks of R236
and R414 start again. -/
def Cluster.issued (k : Cluster) (n : Nat) : Cluster := { k with lent := false, idleFrom := n, restFrom := n }

/-- An object with an index of 16 bits and a subindex of 8 (R369). -/
abbrev Obj.addressed (o : Obj) : Prop := o.idx < 0x10000 ∧ o.sub < 0x100

/-- The cluster and instruction counters of the die of cluster `c` (D+42h and D+43h). -/
abbrev Od.issueCounter (c : Nat) (o : Obj) : Prop := o.idx = 0x3042 + 0x100 * dieOf c ∨ o.idx = 0x3043 + 0x100 * dieOf c

/-- What an instruction leaves unchanged besides its own strand: every other strand and cluster, every object but the issue
counters, every job but the hold requests on its line (R159), every byte of SRAM with its tags, the arrays, the network,
the sessions, and every other field of the state. -/
def Kept (i : Issue) (s t : State) : Prop :=
  t = { s with regs := t.regs, strands := t.strands, clusters := t.clusters, jobs := t.jobs, freeN := t.freeN } ∧
  (∀ v, v ≠ i.u.num → t.strand v = s.strand v) ∧
  (∀ c, c ≠ i.u.cl.num → t.cluster c = s.cluster c) ∧
  t.cluster i.u.cl.num = (s.cluster i.u.cl.num).issued s.ticks ∧
  (∀ o, o.addressed → ¬ Od.issueCounter i.u.cl.num o → t.reg o = s.reg o) ∧
  (∀ j, t.job j = { s.job j with reqs := (t.job j).reqs }) ∧
  (∀ a, Mem.read t.sram a = Mem.read s.sram a)

/-- The instruction issues, its strand becomes `k`, the effect outside the strand is that of `r`, and nothing else changes but
what `Kept` names. -/
def Effects (c : Instr) (i : Issue) (s r : State) (k : Strand) : Prop :=
  ∃ t, exec c s = .next t ∧ t.strand i.u.num = k ∧ Kept i r t

/-- The instruction issues, its strand becomes `k`, and nothing else changes but what `Kept` names. -/
abbrev Issues (c : Instr) (i : Issue) (s : State) (k : Strand) : Prop := Effects c i s s k

/-- A byte range of SRAM or of the buffers that strand `u` may access (R125, R143). -/
abbrev State.allows (s : State) (u a n : Nat) : Prop := ∀ x, a ≤ x → x < a + n → s.mayAccess u x = true

/-- The words of a range load with good parity (R123). -/
abbrev State.sound (s : State) (i : Issue) (a n : Nat) : Prop :=
  i.ph.parity = [] ∧ ∀ x o, a ≤ x → x < a + n → locate x = .sram o → s.sramParity.mem (wordAt i.u.cl.num o) = false

/-- The `n` bytes of SRAM of cluster `c` from offset `a`, each with its word's tag. -/
def State.run (s : State) (c a n : Nat) : List (Byte × Bool) :=
  (List.range n).map fun j => (Mem.read s.sram (sramAt c (a + j)), s.sramTag c (a + j))

/-- The whole words that `n` bytes from offset `a` touch: first offset and bytes. -/
abbrev spanOf (a n : Nat) : Nat × Nat := (a / 4 * 4, 4 * wordSpan a n)

/-- The instruction issues, its strand goes on at the next word, and SRAM holds the bytes `bs` from offset `a`, with a word that
holds a tagged byte tagged; every other byte of SRAM and every array is unchanged. -/
def Lays (c : Instr) (i : Issue) (s : State) (a : Nat) (bs : List (Byte × Bool)) : Prop :=
  ∃ t, exec c s = .next t ∧ t.strand i.u.num = (s.strand i.u.num).past ((s.strand i.u.num).pc + 1) ∧
    (∀ j, j < bs.length → Mem.read t.sram (sramAt i.u.cl.num a + j) = (bs.getD j (0, false)).1) ∧
    (∀ j, j < bs.length → (bs.getD j (0, false)).2 = true → t.sramTag i.u.cl.num (a + j) = true) ∧
    (∀ x, (x < sramAt i.u.cl.num a ∨ sramAt i.u.cl.num a + bs.length ≤ x) → Mem.read t.sram x = Mem.read s.sram x) ∧
    t.arrays = s.arrays

/-! ## Commands of the module -/

/-- The command answers a next state with the property `P`. -/
abbrev Does (c : Instr) (s : State) (P : State → Prop) : Prop := ∃ t, exec c s = .next t ∧ P t

/-- Every strand, every array and every byte of SRAM is unchanged. -/
abbrev SameDies (s t : State) : Prop := t.strands = s.strands ∧ t.arrays = s.arrays ∧ t.sram = s.sram

/-! ## Objects -/

/-- A write of an object by session `n` reaches the object: the session is heard, has the right (R373, R460), and the module is
neither TRIPPED (R424) nor LEAVING (Table OD-8) nor has a CLOSE left to send (R334). -/
abbrev Writes (s : State) (n : Nat) (right : Bool) : Prop :=
  s.hears n = true ∧ s.zenithBars n 2 = false ∧ right = true ∧ s.reg Od.THERMAL_STATE ≠ 1 ∧
    s.reg Od.MODULE_STATE ≠ MS.LEAVING ∧ s.bring.closing = none

/-- The state with the answer `a` to an object entry. -/
def State.answers (s : State) (a : Answer) : State := { s with answer := a }

/-- The state after a write that succeeds: STATUS 0000h (R378). -/
abbrev State.ok (s : State) : State := s.answers ⟨0, 0xFF, []⟩

/-- What a command of the module leaves unchanged: every byte of SRAM, every strand and every array. -/
def KeepsUnits (s t : State) : Prop :=
  (∀ a, Mem.read t.sram a = Mem.read s.sram a) ∧ (∀ u, t.strand u = s.strand u) ∧ (∀ x, t.array x = s.array x)

/-! ## Messages of the host -/

/-- The state after an authentic message of an open session has been heard and its acknowledgement fields taken (R324, R326). -/
def State.acked (s : State) (h : MbtHdr) : State :=
  let n := h.session.toNat
  let s := s.frame
  (s.setSession n ((s.session n).heard h.txn.toNat h.peer.toNat s.now)).takeAcks n h

/-- A message is authentic, fresh and well formed, of an open session (R324, R325). -/
abbrev State.authentic (s : State) (h : MbtHdr) (payload : List Byte) : Prop :=
  s.silent = false ∧ s.bring.rescue = false ∧ (s.session h.session.toNat).isOpen = true ∧ h.tagOk = true ∧
    (s.session h.session.toNat).fresh h.txn.toNat = true ∧ h.lenOk = true ∧ payload.length ≤ 8192

/-- The message stands next in the order of its session, within the credit granted (R328, R330). -/
abbrev State.nextIn (s : State) (h : MbtHdr) (payload : List Byte) : Prop :=
  s.authentic h payload ∧ ((s.acked h).session h.session.toNat).isOpen = true ∧
    h.seq.toNat = ((s.acked h).session h.session.toNat).rxNext ∧
    (((s.acked h).session h.session.toNat).rxBuf.any fun (x : InMsg) => x.seq == h.seq.toNat) = false ∧
    serialBelow h.seq.toNat ((s.acked h).session h.session.toNat).credit = true

/-- The state in which HB takes the message that stood next: an acknowledgement is due and the next SEQ is awaited. -/
def State.arrived (s : State) (h : MbtHdr) : State :=
  let n := h.session.toNat
  let s := s.acked h
  let t := s.session n
  let s := if 2 ≤ (t.credit + 0x100000000 - t.rxNext) % 0x100000000 then
      s.setReg Od.CREDIT_POOL_FREE (s.reg Od.CREDIT_POOL_FREE + 1) else s
  s.setSession n { t with ackDue := some (t.ackDue.getD s.now), rxNext := (t.rxNext + 1) % 0x100000000 }

/-- The messages that wait behind a message of session `n` and now stand next follow it (R328). -/
def State.follow (s : State) (n : Nat) : State := if (s.session n).isOpen then State.drain 32 n s else s

/-- The message of class `cls` and kind `kind` as HB takes it. -/
abbrev inMsg (h : MbtHdr) (cls kind : Nat) (payload : List Byte) (found : List Found) : InMsg :=
  ⟨cls, kind, h.flags.toNat, h.seq.toNat, h.ctx.toNat, h.reqId.toNat, payload, found⟩

/-! ## The invariant -/

/-- The SRAM of every cluster is in its canonical form. -/
abbrev SramCanonical (s : State) : Prop := Memory.wf s.sram = true

end Sys2Proof.Machine

namespace Sys2Proof

/-! ## Instruction words -/

/-- The strand and the physical findings that a cluster instruction (Tables IS-5, IS-7, IS-8) issues with; none for a command
that is no instruction. -/
def Instr.issue? : Instr → Option Issue
  | .nop i | .add i _ _ _ | .sub i _ _ _ | .and i _ _ _ | .or i _ _ _ | .xor i _ _ _ | .shl i _ _ _ | .shr i _ _ _
  | .sra i _ _ _ | .mul i _ _ _ | .slt i _ _ _ | .sltu i _ _ _ | .min i _ _ _ | .max i _ _ _ | .addi i _ _ _
  | .andi i _ _ _ | .ori i _ _ _ | .xori i _ _ _ | .slti i _ _ _ | .shiShl i _ _ _ | .shiShr i _ _ _
  | .shiSra i _ _ _ | .lui i _ _ | .lds i _ _ _ | .sts i _ _ _ | .sysr i _ _ | .beq i _ _ _ | .bne i _ _ _
  | .blt i _ _ _ | .bge i _ _ _ | .bltu i _ _ _ | .bgeu i _ _ _ | .jal i _ | .jr i _ | .bpany i _ _ | .bpall i _ _
  | .vadd i _ | .vsub i _ | .vmul i _ | .vmax i _ | .vmin i _ | .vfma i _ | .vand i _ | .vor i _ | .vxor i _
  | .vshl i _ | .vshr i _ | .vabs i _ | .vneg i _ | .vsel i _ | .vexp2 i _ | .vexp i _ | .vrcp i _ | .vrsqrt i _
  | .vlog2 i _ | .vsigm i _ | .vtanh i _ | .vsilu i _ | .vrsum i _ | .vrmax i _ | .vrmin i _ | .vrargmax i _
  | .vcmplt i _ | .vcmple i _ | .vcmpeq i _ | .vcmpne i _ | .vcvt i _ _ _ _ _ _ | .vbcast i _ _ _ | .viota i _ _
  | .vcopy i _ _ _ | .vld i _ _ _ _ | .vst i _ _ _ _ | .pand i _ _ _ _ | .por i _ _ _ _ | .pxor i _ _ _ _
  | .pnot i _ _ _ | .pcnt i _ _ _ | .qa i _ _ _ _ _ _ _ _ | .qkv4 i _ _ _ | .qkv8 i _ _ _ | .qmx4 i _ _ _
  | .qmx5 i _ _ _ | .mxexp i _ _ | .mximp i _ _ | .dqa8 i _ _ _ | .dqa4 i _ _ _ | .dqkv4 i _ _ _ | .dqkv8 i _ _ _
  | .dqmx4 i _ _ _ | .dqmx5 i _ _ _ | .mvm i _ | .tread i _ | .seq0 i _ | .seq6 i _ | .dma i _ _ _ _
  | .rsend i _ _ _ _ _ _ _ | .rrecv i _ _ _ _ | .sinc i _ _ | .sset i _ _ | .swait i _ _ | .swaiteq i _ _
  | .sread i _ _ | .ssig i _ _ _ | .sarrive i _ | .twait i _ | .dln i _ | .tbase i _ | .tnow i _ | .tgap i _
  | .batch i _ | .step i | .endJob i | .trst i | .pslot i _ | .ptag i _ _ | .pcsrr i _ _ | .pcsrw i _ _ | .pclr i _ => some i
  | _ => none

/-- The context of a QA or an ARR, which no bit of its word gives (R152, R154); 0 for every other instruction. -/
def Instr.qaCtx : Instr → Nat
  | .qa _ _ _ _ _ _ _ _ x => x
  | .mvm _ o | .tread _ o | .seq0 _ o | .seq6 _ o => o.ctx
  | _ => 0

end Sys2Proof
end

