-- ==== Sys2Proof/Certificates/Slice0/Obligations.lean ====
section
/-!
DEFINITION. The statements about the module. Each docstring says what is claimed and the rules of spec/ that it rests on.
-/
open Sys2Proof Sys2Proof.Machine

/-- For every command and state, a step of the state with the command at the front of its queue is the command's execution
on the state with the queue's rest. On an empty queue a step changes nothing, which is the model's choice (log entry
31). (spec/opcode_table.json; spec/95_what_each_step_holds.md) -/
def Obligations.StepTakesFront : Prop :=
  (∀ (c : Instr) (rest : List Instr) (s : State), step { s with pending := c :: rest } = exec c { s with pending := rest }) ∧
  (∀ s : State, s.pending = [] → step s = .next s)

/-- After reset no command waits, no job, session, strand, network message or SRAM byte is listed; MODULE_STATE is
DISABLED; every strand is EMPTY; arrays 32 and 33 of every cluster are SPARE and the others FREE; the defaults of the
persistent objects hold, of which a few are named; and SRAM is in its canonical form. (spec/02_arrays.md;
spec/13_calibration.md; spec/16_object_dictionary.md) -/
def Obligations.ResetState : Prop :=
  let s := State.reset
  s.pending = [] ∧ s.jobs = [] ∧ s.sessions = [] ∧ s.strands = [] ∧ s.sram = [] ∧ s.net = [] ∧ SramCanonical s ∧
  s.reg Od.MODULE_STATE = MS.DISABLED ∧ s.reg Od.MODULE_ENABLE = 0 ∧ s.reg Od.HOLD_ALARM_TICKS = 212500 ∧
  (∀ u, u < 3072 → s.strandState u = SS.EMPTY) ∧
  (∀ c a, c < 1536 → a < 34 → s.reg (asObj c a) = if 32 ≤ a then AS.SPARE else AS.FREE)

/-- From every state whose SRAM is in canonical form (addresses strictly rising, no listed byte equal to 0, what an
unlisted byte reads as), a step that answers a next state leaves SRAM in canonical form, so that equal contents are
equal data. That an unlisted byte reads as 0 before anything is written is the model's choice (log entry 4).
(spec/05_clusters.md) -/
def Obligations.SramStaysCanonical : Prop :=
  ∀ s t : State, SramCanonical s → step s = .next t → SramCanonical t

/-- For every well-formed cluster instruction of Tables IS-5, IS-7 and IS-8, with every operand at every value that its
fields admit, the instruction has a word of 32 bits, and the decoder reads from it the same instruction, for the same
strand (with a QA's context, which no bit gives); every word that the decoder accepts decodes to a well-formed
instruction that has a word of its own. (spec/06_cluster_isa.md) -/
def Obligations.EncodeDecode : Prop :=
  (∀ (c : Instr) (i : Issue), c.wf = true → c.issue? = some i →
    ∃ w, encodeWord c = some w ∧ w < 2 ^ 32 ∧ decodeWord i c.qaCtx w = some c) ∧
  (∀ (i : Issue) (x w : Nat) (c : Instr), decodeWord i x w = some c →
    c.wf = true ∧ c.issue? = some i ∧ ∃ v, encodeWord c = some v ∧ decodeWord i x v = some c)

/-- The words of DLN 7 (F0400007h), SWAIT 5, s4 (E8522000h), ARR MVM of slot 5 with IB 1, RB 1, EXT 31, FP32 and LC
(D0A3FE00h), SARRIVE 9 (E8960000h) and SWAITEQ 9, s5 (E8932800h) decode to them on strand 0; an all-ones word decodes
to nothing. (spec/06_cluster_isa.md) -/
def Obligations.DecodedWords : Prop :=
  ∀ (ph : Phys) (cl : ClusterId) (x : Nat),
    let i : Issue := ⟨⟨cl, 0⟩, ph⟩
    decodeWord i x 0 = some (.nop i) ∧
    decodeWord i x 0xF0400007 = some (.dln i 7) ∧
    decodeWord i x 0xE8522000 = some (.swait i 5 4) ∧
    decodeWord i x 0xD0A3FE00 = some (.mvm i ⟨5, 1, 1, 31, true, true, false, 0, x⟩) ∧
    decodeWord i x 0xE8960000 = some (.sarrive i 9) ∧
    decodeWord i x 0xE8932800 = some (.swaiteq i 9 5) ∧
    decodeWord i x 0xFFFFFFFF = none

/-- With entries 0400h and 0401h in clocks, the replay span of a site of GROUPS groups is ⌈(entry 0400h + GROUPS × entry
0401h) ÷ 8⌉ ticks; with the factory tables and GROUPS = 4 it is 6 ticks at every stepping. (R196) -/
def Obligations.ReplaySpan : Prop :=
  (∀ (s : State) (mask groups : Nat) (a b : LatEntry), s.effEntry mask 0x0400 = some a → s.effEntry mask 0x0401 = some b →
    a.unit = 0 → b.unit = 0 → s.replaySpan mask groups = (a.value + groups * b.value + 7) / 8) ∧
  (∀ s : State, s.tables = [] → s.replaySpan 1 4 = 6 ∧ s.replaySpan 2 4 = 6 ∧ s.replaySpan 4 4 = 6)

/-- For every strand that may issue, each scalar register instruction (ADD, SUB, AND, OR, XOR, SHL, SHR, SRA, MUL, SLT,
SLTU, MIN, MAX) answers a next state: sRD holds the result of Table IS-5, poisoned where a source is; a write of s0 is
discarded; the strand goes on at the next word; no other register, strand, cluster, object (but the issue counters),
array or byte of SRAM changes. (spec/06_cluster_isa.md) -/
def Obligations.ScalarRegisterInstructions : Prop :=
  ∀ (i : Issue) (rd ra rb : Reg) (s : State), Ready i s →
    let k := s.strand i.u.num
    let a := k.s ra
    let b := k.s rb
    let put (w : Word) := (k.setS rd ⟨w, a.poison || b.poison⟩).past (k.pc + 1)
    Issues (.add i rd ra rb) i s (put (a.val + b.val)) ∧
    Issues (.sub i rd ra rb) i s (put (a.val - b.val)) ∧
    Issues (.and i rd ra rb) i s (put (a.val &&& b.val)) ∧
    Issues (.or i rd ra rb) i s (put (a.val ||| b.val)) ∧
    Issues (.xor i rd ra rb) i s (put (a.val ^^^ b.val)) ∧
    Issues (.shl i rd ra rb) i s (put (a.val <<< (b.val.toNat % 32))) ∧
    Issues (.shr i rd ra rb) i s (put (a.val >>> (b.val.toNat % 32))) ∧
    Issues (.sra i rd ra rb) i s (put (a.val.sshiftRight (b.val.toNat % 32))) ∧
    Issues (.mul i rd ra rb) i s (put (a.val * b.val)) ∧
    Issues (.slt i rd ra rb) i s (put (if a.val.slt b.val then 1 else 0)) ∧
    Issues (.sltu i rd ra rb) i s (put (if a.val.ult b.val then 1 else 0)) ∧
    Issues (.min i rd ra rb) i s (put (if a.val.slt b.val then a.val else b.val)) ∧
    Issues (.max i rd ra rb) i s (put (if a.val.slt b.val then b.val else a.val))

/-- For every strand that may issue, ADDI, SLTI with the sign-extended immediate, ANDI, ORI, XORI with the zero-extended
one, the immediate shifts, LUI, SYSR of a number of Table IS-6, and NOP answer a next state with that result and the
frame of ScalarRegisterInstructions. (spec/06_cluster_isa.md) -/
def Obligations.ScalarImmediateInstructions : Prop :=
  ∀ (i : Issue) (rd ra : Reg) (imm : BitVec 16) (sh : BitVec 5) (s : State), Ready i s →
    let k := s.strand i.u.num
    let a := k.s ra
    let put (w : Word) (p : Bool) := (k.setS rd ⟨w, p⟩).past (k.pc + 1)
    Issues (.addi i rd ra imm) i s (put (a.val + imm.signExtend 32) a.poison) ∧
    Issues (.andi i rd ra imm) i s (put (a.val &&& imm.zeroExtend 32) a.poison) ∧
    Issues (.ori i rd ra imm) i s (put (a.val ||| imm.zeroExtend 32) a.poison) ∧
    Issues (.xori i rd ra imm) i s (put (a.val ^^^ imm.zeroExtend 32) a.poison) ∧
    Issues (.slti i rd ra imm) i s (put (if a.val.slt (imm.signExtend 32) then 1 else 0) a.poison) ∧
    Issues (.shiShl i rd ra sh) i s (put (a.val <<< sh.toNat) a.poison) ∧
    Issues (.shiShr i rd ra sh) i s (put (a.val >>> sh.toNat) a.poison) ∧
    Issues (.shiSra i rd ra sh) i s (put (a.val.sshiftRight sh.toNat) a.poison) ∧
    Issues (.lui i rd imm) i s (put (imm.zeroExtend 32 <<< 16) false) ∧
    (∀ v, s.sysValue i.u imm.toNat = some v → Issues (.sysr i rd imm) i s (put v false)) ∧
    Issues (.nop i) i s (k.past (k.pc + 1))

/-- For every strand that may issue, with clean control operands and a target inside the instruction store, each branch
goes to PC + OFF where its condition holds of the operands and to the next word otherwise, JAL writes PC + 1 to s31
and goes to PC + OFF, and JR goes to sRA[12:0]; no register but s31, and nothing outside the strand but what an issue
always touches, changes. (spec/06_cluster_isa.md) -/
def Obligations.BranchesAndJumps : Prop :=
  ∀ (i : Issue) (ra rb : Reg) (pn : PReg) (off : BitVec 16) (far : BitVec 26) (s : State), Ready i s →
    let k := s.strand i.u.num
    let a := k.s ra
    let b := k.s rb
    let p := k.p pn
    let goto (c : Bool) (n : Nat) := k.past (if c then n else k.pc + 1)
    (∀ n, target k.pc off.toInt = some n → a.poison = false → b.poison = false →
      Issues (.beq i ra rb off) i s (goto (a.val == b.val) n) ∧
      Issues (.bne i ra rb off) i s (goto (a.val != b.val) n) ∧
      Issues (.blt i ra rb off) i s (goto (a.val.slt b.val) n) ∧
      Issues (.bge i ra rb off) i s (goto (b.val.sle a.val) n) ∧
      Issues (.bltu i ra rb off) i s (goto (a.val.ult b.val) n) ∧
      Issues (.bgeu i ra rb off) i s (goto (b.val.ule a.val) n)) ∧
    (∀ n, target k.pc off.toInt = some n → p.poison = 0 →
      Issues (.bpany i pn off) i s (goto ((List.range 256).any p.bit) n) ∧
      Issues (.bpall i pn off) i s (goto ((List.range 256).all p.bit) n)) ∧
    (∀ n, target k.pc far.toInt = some n →
      Issues (.jal i far) i s ((k.setS 31 ⟨BitVec.ofNat 32 (k.pc + 1), false⟩).past n)) ∧
    (a.poison = false → Issues (.jr i ra) i s (k.past (a.val.toNat % 8192)))

/-- For every strand that may issue with a clean address: where the access check passes and no buffer must be waited for,
LDS of a word of good parity answers a next state in which sRD is that word with its tag and nothing else changes; STS
stores sRD with its tag at exactly that offset. Where the check fails, LDS returns a poisoned word, STS stores
nothing, and every byte of SRAM and every array is unchanged. (spec/06_cluster_isa.md; spec/05_clusters.md) -/
def Obligations.ScalarLoadsAndStores : Prop :=
  ∀ (i : Issue) (rd ra : Reg) (imm : BitVec 16) (s : State), Ready i s →
    let u := i.u.num
    let k := s.strand u
    let a := (((k.s ra).val + imm.signExtend 32).toNat / 4) * 4
    (k.s ra).poison = false →
    (s.mayAccess u a = true → s.bufferWait u a false = none → s.sound i a 1 →
      Issues (.lds i rd ra imm) i s ((k.setS rd (s.peek u a)).past (k.pc + 1))) ∧
    (s.mayAccess u a = true → s.bufferWait u a true = none →
      Effects (.sts i rd ra imm) i s (s.storeAt u a (k.s rd)) (k.past (k.pc + 1))) ∧
    (s.mayAccess u a = false → s.bufferWait u a false = none →
      ∃ w t, exec (.lds i rd ra imm) s = .next t ∧ t.strand u = (k.setS rd ⟨w, true⟩).past (k.pc + 1) ∧
        (∀ x, Mem.read t.sram x = Mem.read s.sram x) ∧ ∀ x, t.array x = s.array x) ∧
    (s.mayAccess u a = false → s.bufferWait u a true = none →
      ∃ t, exec (.sts i rd ra imm) s = .next t ∧ t.strand u = k.past (k.pc + 1) ∧
        (∀ x, Mem.read t.sram x = Mem.read s.sram x) ∧ ∀ x, t.array x = s.array x)

/-- A store of one aligned word at an offset of SRAM writes the four bytes of the word, least significant first, and its
poison tag, and clears the bad parity of the word; every other byte, tag and array stays. A store at an aligned offset
of a buffer changes that array only, and the word reads back as stored. A checked store of a run of words to an open,
aligned range of SRAM writes every word with its tag; every byte of SRAM outside the range, every other tag, and every
array is unchanged. (spec/05_clusters.md; spec/06_cluster_isa.md; spec/00_scope.md) -/
def Obligations.StoredBytes : Prop :=
  (∀ (s : State) (u a : Nat) (w : PWord), SramCanonical s → a % 4 = 0 →
    let t := s.storeAt u a w
    (∀ o, locate a = .sram o →
      (∀ j, j < 4 → Mem.read t.sram (sramAt (clOf u) a + j) = w.val.extractLsb' (8 * j) 8) ∧
      (∀ x, (x < sramAt (clOf u) a ∨ sramAt (clOf u) a + 4 ≤ x) → Mem.read t.sram x = Mem.read s.sram x) ∧
      (∀ x, t.sramPoison.mem x = if x = wordAt (clOf u) a then w.poison else s.sramPoison.mem x) ∧
      (∀ x, t.sramParity.mem x = (s.sramParity.mem x && x != wordAt (clOf u) a)) ∧
      ∀ x, t.array x = s.array x) ∧
    (∀ k b o, locate a = .buf k b o →
      t.peek u a = w ∧ t.sram = s.sram ∧ t.sramPoison = s.sramPoison ∧
      ∀ x, x ≠ s.slotArray u k → t.array x = s.array x)) ∧
  (∀ (s : State) (u a : Nat) (ws : List PWord), SramCanonical s → a % 4 = 0 → a + 4 * ws.length ≤ 0x280000 →
    s.allows u a (4 * ws.length) →
    let t := s.storeWords u a ws
    (∀ j, j < ws.length → t.peek u (a + 4 * j) = ws.getD j PWord.zero) ∧
    (∀ x, (x < sramAt (clOf u) a ∨ sramAt (clOf u) a + 4 * ws.length ≤ x) → Mem.read t.sram x = Mem.read s.sram x) ∧
    (∀ x, (x < wordAt (clOf u) a ∨ wordAt (clOf u) a + ws.length ≤ x) → t.sramPoison.mem x = s.sramPoison.mem x) ∧
    t.arrays = s.arrays)

/-- For every strand that may issue, with no residue failure: each two-operand lane instruction writes, on every lane
whose predicate bit is 1, the result of Table IS-5 in the format named, tagged where a source word is, leaves the
other lanes, tags the lanes that a poisoned predicate word governs, and changes nothing else. VFMA adds the old lane.
(spec/06_cluster_isa.md) -/
def Obligations.VectorLaneInstructions : Prop :=
  ∀ (i : Issue) (o : VOps) (s : State), Ready i s → i.ph.residue = [] →
    let k := s.strand i.u.num
    let a (l : Nat) := lane (k.v o.va.val) l
    let b (l : Nat) := lane (k.v o.vb.val) l
    let d (l : Nat) := lane (k.v o.vd.val) l
    let put (f : Nat → PWord) := (k.setV o.vd.val (mergeV (k.v o.vd.val) (k.p o.pr) f)).past (k.pc + 1)
    let two (f : Word → Word → Word) := put fun l => ⟨f (a l).val (b l).val, (a l).poison || (b l).poison⟩
    (o.fmt.is8 = false →
      Issues (.vadd i o) i s (two (addLane o.fmt)) ∧ Issues (.vsub i o) i s (two (subLane o.fmt)) ∧
      Issues (.vmax i o) i s (two (maxLane o.fmt)) ∧ Issues (.vmin i o) i s (two (minLane o.fmt))) ∧
    Issues (.vmul i o) i s (two (mulLane o.fmt)) ∧
    Issues (.vfma i o) i s (put fun l =>
      ⟨fmaLane o.fmt (a l).val (b l).val (d l).val, (a l).poison || (b l).poison || (d l).poison⟩) ∧
    (o.fmt = .int32 →
      Issues (.vadd i o) i s (two fun x y => x + y) ∧ Issues (.vsub i o) i s (two fun x y => x - y) ∧
      Issues (.vmul i o) i s (two fun x y => x * y) ∧
      Issues (.vmax i o) i s (two fun x y => if x.slt y then y else x) ∧
      Issues (.vmin i o) i s (two fun x y => if x.slt y then x else y) ∧
      Issues (.vand i o) i s (two fun x y => x &&& y) ∧ Issues (.vor i o) i s (two fun x y => x ||| y) ∧
      Issues (.vxor i o) i s (two fun x y => x ^^^ y) ∧
      Issues (.vshl i o) i s (two fun x y => x <<< (y.toNat % 32)) ∧
      Issues (.vshr i o) i s (two fun x y => x >>> (y.toNat % 32)))

/-- For every strand that may issue, each of these instructions, in every format that Table IS-5 lists for it, answers a
next state: it writes the lanes that its predicate names (VSEL every lane, from vVA or vVB by the stored bit) with the
result of Table IS-5 and its tag, and changes nothing else. The absolute value of the INT32 number -2^31, which the
spec does not state, is a free value of the lane (log entry 13): the statement holds whatever it is. VCVT converts
between every two formats, INT32 to a narrow float by way of FP32 (log entry 109). (spec/06_cluster_isa.md;
spec/04_formats.md) -/
def Obligations.VectorMovesAndUnary : Prop :=
  ∀ (i : Issue) (o : VOps) (vd va sa : Reg) (pr : PReg) (src dst : VFmt) (sat : Bool) (s : State), Ready i s →
    i.ph.residue = [] →
    let k := s.strand i.u.num
    let a (l : Nat) := lane (k.v o.va.val) l
    let b (l : Nat) := lane (k.v o.vb.val) l
    let put (d : Reg) (p : PReg) (f : Nat → PWord) := (k.setV d.val (mergeV (k.v d.val) (k.p p) f)).past (k.pc + 1)
    (o.fmt = .int32 → o.vb = 0 →
      Issues (.vneg i o) i s (put o.vd o.pr fun l => ⟨0 - (a l).val, (a l).poison⟩) ∧
      Issues (.vabs i o) i s (put o.vd o.pr fun l =>
        ⟨if (a l).val = 0x80000000 then Config.freeWord (s.freeN + l) else if (a l).val.msb then 0 - (a l).val else (a l).val,
          (a l).poison⟩)) ∧
    (o.fmt.is8 = false → o.fmt ≠ .int32 → o.vb = 0 →
      Issues (.vneg i o) i s (put o.vd o.pr fun l => ⟨(lane1 o.fmt (a l).val).neg.to32, (a l).poison⟩) ∧
      Issues (.vabs i o) i s (put o.vd o.pr fun l => ⟨(lane1 o.fmt (a l).val).abs.to32, (a l).poison⟩)) ∧
    Issues (.vsel i o) i s (put o.vd 0 fun l =>
      let w := if (k.p o.pr).bit l then a l else b l
      ⟨w.val, w.poison || (k.p o.pr).tag l⟩) ∧
    Issues (.vcvt i vd va pr src dst sat) i s (put vd pr fun l =>
      let x := lane (k.v va.val) l
      let d := lane (k.v vd.val) l
      let r := cvtLane src dst sat x.val d.val
      ⟨r.val, r.poison || x.poison || (d.poison && (dst.is8 || dst.is16))⟩) ∧
    Issues (.vbcast i vd sa pr) i s (put vd pr fun _ => k.s sa) ∧
    Issues (.viota i vd pr) i s (put vd pr fun l => ⟨BitVec.ofNat 32 l, false⟩) ∧
    Issues (.vcopy i vd va pr) i s (put vd pr fun l => lane (k.v va.val) l)

/-- For every strand that may issue, with no residue failure, in FP32 and the 16-bit formats with VB = 0, each function
instruction answers a next state; a lane whose predicate bit is 1 holds the value of Table NF-9 (exact on the special
operands; elsewhere a value the spec bounds and does not state), and nothing else changes. On FP32, the reciprocal of
+0 is +inf, of -inf is -0, and a NaN operand gives the canonical NaN. (spec/06_cluster_isa.md; spec/04_formats.md) -/
def Obligations.VectorFunctions : Prop :=
  ∀ (i : Issue) (o : VOps) (s : State), Ready i s → i.ph.residue = [] → o.vb = 0 → (o.fmt = .fp32 ∨ o.fmt.is16 = true) →
    let k := s.strand i.u.num
    let fn (f : Fn) := (k.setV o.vd.val (mergeV (k.v o.vd.val) (k.p o.pr) fun l =>
      let a := lane (k.v o.va.val) l
      let d := lane (k.v o.vd.val) l
      ⟨f.lane o.fmt a.val d.val, a.poison || (d.poison && o.fmt.is16)⟩)).past (k.pc + 1)
    (Issues (.vexp2 i o) i s (fn .exp2) ∧ Issues (.vexp i o) i s (fn .exp) ∧ Issues (.vrcp i o) i s (fn .rcp) ∧
      Issues (.vrsqrt i o) i s (fn .rsqrt) ∧ Issues (.vlog2 i o) i s (fn .log2) ∧ Issues (.vsigm i o) i s (fn .sigm) ∧
      Issues (.vtanh i o) i s (fn .tanh) ∧ Issues (.vsilu i o) i s (fn .silu)) ∧
    (∀ d, Fn.rcp.lane .fp32 0 d = 0x7F800000 ∧ Fn.rcp.lane .fp32 0xFF800000 d = 0x80000000) ∧
    (∀ (f : Fn) (d : Word), f.lane .fp32 0x7FC00000 d = 0x7FC00000)

/-- For every strand that may issue, in FP32 and INT32: VRSUM, VRMAX, VRMIN and VRARGMAX write the reduction of the active
lanes of vVA to every lane of vVD, tagged where an active lane or a word of the predicate is poisoned, and change
nothing else. INT32 results are exact; with no active lane they are 0, -2^31, 2^31 - 1 and FFFFFFFFh. The FP32 sum of
three lanes or more is a value that the spec leaves open. (spec/06_cluster_isa.md) -/
def Obligations.VectorReductions : Prop :=
  ∀ (i : Issue) (o : VOps) (s : State), Ready i s → (o.fmt = .fp32 ∨ o.fmt = .int32) →
    let k := s.strand i.u.num
    let ls := (List.range 256).filter fun l => (k.p o.pr).bit l
    let ws := ls.map fun l => (l, (lane (k.v o.va.val) l).val)
    let bad := (k.p o.pr).poison != 0 || ls.any fun l => (lane (k.v o.va.val) l).poison
    let put (w : Word) := (k.setV o.vd.val (Vector.replicate 256 ⟨w, bad⟩)).past (k.pc + 1)
    (Issues (.vrsum i o) i s (put (redSum o.fmt ws)) ∧ Issues (.vrmax i o) i s (put (redMax o.fmt ws)) ∧
      Issues (.vrmin i o) i s (put (redMin o.fmt ws)) ∧ Issues (.vrargmax i o) i s (put (redArg o.fmt ws))) ∧
    (o.fmt = .int32 → redSum o.fmt ws = BitVec.ofNat 32 (ws.map fun e => e.2.toNat).sum) ∧
    (ls = [] → redSum o.fmt ws = 0 ∧ redArg o.fmt ws = 0xFFFFFFFF ∧
      (o.fmt = .int32 → redMax o.fmt ws = 0x80000000 ∧ redMin o.fmt ws = 0x7FFFFFFF) ∧
      (o.fmt = .fp32 → redMax o.fmt ws = 0xFF800000 ∧ redMin o.fmt ws = 0x7F800000))

/-- For every strand that may issue: VCMP in INT32 and FP32, the formats that Table IS-5 lists for it, with VD below 8,
writes 1 to the lanes of pVD whose predicate bit is 1 and whose compare holds and 0 to the others, and tags the words
that a poisoned lane or predicate word reaches; PAND, POR, PXOR and PNOT change only the bits that pPR names, and tag
a word where a source word or pPR's is, or a kept bit of a tagged word stays in it; PCNT counts the bits set in both
pVA and pPR; p0 ignores writes; and nothing else changes. (spec/06_cluster_isa.md) -/
def Obligations.PredicateInstructions : Prop :=
  ∀ (i : Issue) (o : VOps) (pd pa pb pr : PReg) (sd : Reg) (s : State), Ready i s →
    let k := s.strand i.u.num
    let a (l : Nat) := (lane (k.v o.va.val) l).val
    let b (l : Nat) := (lane (k.v o.vb.val) l).val
    let cmp (c : Instr) (f : Word → Word → Bool) := ∃ p : PredReg,
      Issues c i s ((k.setP (Fin.ofNat 8 o.vd.val) p).past (k.pc + 1)) ∧
      (∀ l, l < 256 → p.bit l = ((k.p o.pr).bit l && f (a l) (b l))) ∧
      ∀ w, w < 8 → p.poison.getLsbD w = ((k.p o.pr).poison.getLsbD w ||
        (List.range 32).any fun j => (k.p o.pr).bit (32 * w + j) &&
          ((lane (k.v o.va.val) (32 * w + j)).poison || (lane (k.v o.vb.val) (32 * w + j)).poison))
    let logic (c : Instr) (q : PReg) (f : Bool → Bool → Bool) := ∃ p : PredReg,
      Issues c i s ((k.setP pd p).past (k.pc + 1)) ∧
      (∀ l, l < 256 → p.bit l = if (k.p pr).bit l then f ((k.p pa).bit l) ((k.p q).bit l) else (k.p pd).bit l) ∧
      ∀ w, w < 8 → p.poison.getLsbD w = ((k.p pa).poison.getLsbD w || (k.p q).poison.getLsbD w || (k.p pr).poison.getLsbD w ||
        ((k.p pd).poison.getLsbD w && (List.range 32).any fun j => !(k.p pr).bit (32 * w + j)))
    (o.fmt = .int32 → o.vd.val < 8 →
      cmp (.vcmplt i o) (fun x y => x.slt y) ∧ cmp (.vcmple i o) (fun x y => x.sle y) ∧
      cmp (.vcmpeq i o) (fun x y => x == y) ∧ cmp (.vcmpne i o) (fun x y => x != y)) ∧
    (o.fmt = .fp32 → o.vd.val < 8 →
      cmp (.vcmplt i o) (fun x y => (ofFp32 x).lt (ofFp32 y)) ∧
      cmp (.vcmpeq i o) (fun x y => (ofFp32 x).eq (ofFp32 y)) ∧
      cmp (.vcmpne i o) (fun x y => !(ofFp32 x).eq (ofFp32 y)) ∧
      cmp (.vcmple i o) (fun x y => (ofFp32 x).lt (ofFp32 y) || (ofFp32 x).eq (ofFp32 y))) ∧
    logic (.pand i pd pa pb pr) pb (fun x y => x && y) ∧ logic (.por i pd pa pb pr) pb (fun x y => x || y) ∧
    logic (.pxor i pd pa pb pr) pb (fun x y => x != y) ∧ logic (.pnot i pd pa pr) pa (fun x _ => !x) ∧
    Issues (.pcnt i sd pa pr) i s ((k.setS sd
      ⟨BitVec.ofNat 32 ((List.range 256).filter fun l => (k.p pa).bit l && (k.p pr).bit l).length,
        (k.p pa).poison != 0 || (k.p pr).poison != 0⟩).past (k.pc + 1))

/-- For every strand that may issue with a clean address, where no buffer must be waited for: VLD answers a next state in
which the words of the lines stand in lanes 0 up, zero in the lanes past the last line, and no other register of the
strand, no array and no byte of SRAM changes; where the check passes on every line and the parity is good the words
are those of memory with their tags and nothing else changes; a word that the check refuses comes poisoned. VST
answers a next state with the registers as they were; where the check passes it stores the first words of vVD with
their tags to exactly those lines. (spec/06_cluster_isa.md; spec/05_clusters.md) -/
def Obligations.VectorLoadsAndStores : Prop :=
  ∀ (i : Issue) (vd ra : Reg) (len : Fin 32) (off : BitVec 11) (s : State), Ready i s →
    let u := i.u.num
    let k := s.strand u
    let n := 8 * (len.val + 1)
    let a := ((k.s ra).val.toNat + 32 * off.toNat) % 0x100000000 / 32 * 32
    (k.s ra).poison = false →
    (s.rangeWait u a (4 * n) false = none →
      (s.allows u a (4 * n) → s.sound i a (4 * n) →
        Issues (.vld i vd ra len off) i s ((k.setV vd.val (Vector.ofFn fun l =>
          if l.val < n then s.peek u (a + 4 * l.val) else PWord.zero)).past (k.pc + 1))) ∧
      ∃ (w : Nat → PWord) (t : State), exec (.vld i vd ra len off) s = .next t ∧
        t.strand u = (k.setV vd.val (Vector.ofFn fun l => if l.val < n then w l.val else PWord.zero)).past (k.pc + 1) ∧
        (∀ l, l < n → s.mayAccess u (a + 4 * l) = false → (w l).poison = true) ∧
        (∀ x, Mem.read t.sram x = Mem.read s.sram x) ∧ t.arrays = s.arrays) ∧
    (s.rangeWait u a (4 * n) true = none →
      (s.allows u a (4 * n) → Effects (.vst i vd ra len off) i s
        (s.storeWords u a ((List.range n).map fun l => lane (k.v vd.val) l)) (k.past (k.pc + 1))) ∧
      ∃ t, exec (.vst i vd ra len off) s = .next t ∧ t.strand u = k.past (k.pc + 1))

/-- For every strand that may issue with clean control operands, where the coded blocks lie in SRAM pages that the strand
may access: each instruction answers a next state in which SRAM holds, from the offset in sSD, the blocks of Tables
NF-3 and NF-6 coded from the operand in order, a block with a NaN or a poisoned value tagged (for MXFP8 a poisoned
one), no other byte changes, and the strand goes on at the next word. Wherever else the offset leads (a buffer, or
pages that the access check refuses), the instruction answers a next state as well, with every register of the strand
as it was. (spec/06_cluster_isa.md; spec/04_formats.md) -/
def Obligations.QuantiserStores : Prop :=
  ∀ (i : Issue) (va sd sp : Reg) (s : State), Ready i s → SramCanonical s →
    let k := s.strand i.u.num
    let a := (k.s sd).val.toNat
    let p := QParam.of (k.s sp).val
    let bs (f : Word → FV) (j : Nat) := ((k.blocks s.freeN va.val p.nblk).getD j []).map fun w => f w.val
    let bad (j : Nat) := ((k.blocks s.freeN va.val p.nblk).getD j []).any fun w => w.poison
    let all (f : Nat → List (Byte × Bool)) := (List.range p.nblk).flatMap f
    let kv (q : Nat) := all fun j => (kvBytes q (kvBlock q (bs ofFp32 j))).map fun b => (b, bad j || (bs ofFp32 j).any FV.isNan)
    let mx (f : FFmt) (emax : Nat) := all fun j =>
      let m := mxBlock f emax (bs ofFp32 j)
      ((m.2.1.map (BitVec.ofNat 8)) ++ [BitVec.ofNat 8 m.1]).map fun b => (b, bad j)
    let fits (l : List (Byte × Bool)) := a + l.length ≤ 0x280000 ∧ s.allows i.u.num (spanOf a l.length).1 (spanOf a l.length).2
    (k.s sd).poison = false → (k.s sp).poison = false →
    (fits (kv 15) → Lays (.qkv4 i va sd sp) i s a (kv 15)) ∧ (fits (kv 255) → Lays (.qkv8 i va sd sp) i s a (kv 255)) ∧
    (fits (mx FFmt.e4m3 8) → Lays (.qmx4 i va sd sp) i s a (mx FFmt.e4m3 8)) ∧
    (fits (mx FFmt.e5m2 15) → Lays (.qmx5 i va sd sp) i s a (mx FFmt.e5m2 15)) ∧
    (∀ c ∈ ([.qkv4 i va sd sp, .qkv8 i va sd sp, .qmx4 i va sd sp, .qmx5 i va sd sp] : List Instr),
      ∃ t, exec c s = .next t ∧ t.strand i.u.num = k.past (k.pc + 1))

/-- For every strand that may issue with clean control operands, over sound and accessible blocks of 33 bytes in SRAM:
MXEXP makes the exponent byte E of each A8 block E + 6, or FFh where E exceeds 248, and leaves the elements; MXIMP
makes X - 6 of it where X is at least 6, keeps FFh, and below 6 realigns the elements to exponent 0; a poisoned
element or exponent tags its whole block, and no other byte changes. Over other offsets the instructions answer a next
state as well, with every register of the strand as it was. (spec/06_cluster_isa.md; spec/04_formats.md) -/
def Obligations.MxExchange : Prop :=
  ∀ (i : Issue) (sd sp : Reg) (s : State), Ready i s → SramCanonical s →
    let k := s.strand i.u.num
    let a := (k.s sd).val.toNat
    let n := (QParam.of (k.s sp).val).nblk
    let old := s.run i.u.cl.num a (33 * n)
    let out (f : List Byte → List Byte) := (List.range n).flatMap fun j =>
      let b := (old.drop (33 * j)).take 33
      (f (b.map Prod.fst)).map fun v => (v, b.any Prod.snd)
    (k.s sd).poison = false → (k.s sp).poison = false →
    (a + 33 * n ≤ 0x280000 →
      s.sound i (spanOf a (33 * n)).1 (spanOf a (33 * n)).2 → s.allows i.u.num (spanOf a (33 * n)).1 (spanOf a (33 * n)).2 →
      Lays (.mxexp i sd sp) i s a (out fun b =>
        b.take 32 ++ [if 248 < (b.getD 32 0).toNat then 0xFF else b.getD 32 0 + 6]) ∧
      Lays (.mximp i sd sp) i s a (out fun b =>
        let x := (b.getD 32 0).toNat
        if x = 0xFF then b
        else if x < 6 then (b.take 32).map (fun v => intByte (rneDivInt v.toInt (2 ^ (6 - x)))) ++ [0]
        else b.take 32 ++ [b.getD 32 0 - 6])) ∧
    (∀ c ∈ ([.mxexp i sd sp, .mximp i sd sp] : List Instr), ∃ t, exec c s = .next t ∧ t.strand i.u.num = k.past (k.pc + 1))

/-- For every strand that may issue with clean control operands, over sound and accessible blocks in SRAM: each DQ
instruction answers a next state in which value j of the blocks, decoded as Tables NF-1, NF-3 and NF-6 state and
rounded to FP32, stands in lane j mod 256 of register vVA + j div 256 (up to v31), tagged where a byte that codes it
is; no scalar or predicate register and nothing outside the strand changes. Over other offsets the instructions answer
a next state as well, with the scalar and predicate registers and the registers below vVA as they were.
(spec/06_cluster_isa.md; spec/04_formats.md) -/
def Obligations.Dequantise : Prop :=
  ∀ (i : Issue) (va sd sp : Reg) (s : State), Ready i s →
    let u := i.u.num
    let k := s.strand u
    let a := (k.s sd).val.toNat
    let n := (QParam.of (k.s sp).val).nblk
    let decodes (c : Instr) (len head per : Nat) (f : List Byte → Nat → FV) := 
      a + len * n ≤ 0x280000 → s.sound i (spanOf a (len * n)).1 (spanOf a (len * n)).2 →
      s.allows u (spanOf a (len * n)).1 (spanOf a (len * n)).2 →
      ∃ t, exec c s = .next t ∧ Kept i s t ∧ (t.strand u).pc = (k.pc + 1) % 8192 ∧
        (t.strand u).sreg = k.sreg ∧ (t.strand u).preg = k.preg ∧
        (∀ j, j < 32 * n → va.val + j / 256 < 32 → lane ((t.strand u).v (va.val + j / 256)) (j % 256) =
          let b := ((s.run i.u.cl.num a (len * n)).drop (len * (j / 32))).take len
          ⟨(f (b.map Prod.fst) (j % 32)).to32, (b.getD (j % 32 / per) (0, false)).2 || (b.drop head).any Prod.snd⟩) ∧
        (∀ r, r < va.val → (t.strand u).v r = k.v r)
    (k.s sd).poison = false → (k.s sp).poison = false →
    decodes (.dqa8 i va sd sp) 33 32 1 (fun b j => scaled (FV.int (b.getD j 0).toInt) (b.getD 32 0).toNat) ∧
    decodes (.dqa4 i va sd sp) 17 16 2 (fun b j => scaled (FV.int ((elemVals true (b.take 16)).getD j 0)) (b.getD 16 0).toNat) ∧
    decodes (.dqkv4 i va sd sp) 20 16 2 (kvVal 15) ∧ decodes (.dqkv8 i va sd sp) 36 32 1 (kvVal 255) ∧
    decodes (.dqmx4 i va sd sp) 33 32 1 (fun b j => scaled (FFmt.e4m3.decode (b.getD j 0).toNat) (b.getD 32 0).toNat) ∧
    decodes (.dqmx5 i va sd sp) 33 32 1 (fun b j => scaled (FFmt.e5m2.decode (b.getD j 0).toNat) (b.getD 32 0).toNat) ∧
    (∀ c ∈ ([.dqa8 i va sd sp, .dqa4 i va sd sp, .dqkv4 i va sd sp, .dqkv8 i va sd sp, .dqmx4 i va sd sp, .dqmx5 i va sd sp] : List Instr),
      ∃ t, exec c s = .next t ∧ (t.strand u).pc = (k.pc + 1) % 8192 ∧ (t.strand u).sreg = k.sreg ∧ (t.strand u).preg = k.preg ∧
        (∀ r, r < va.val → (t.strand u).v r = k.v r) ∧ ∀ x, Mem.read t.sram x = Mem.read s.sram x)

/-- For every strand that may issue with clean control operands, in every form that R152 lists, where no named input
buffer of the strand must be waited for: QA answers a next state, with every register of the strand as it was. Where
no block is degenerate or one is poisoned, QA to SRAM pages that the strand may access lays the element bytes and the
exponent byte of each block from the offset in sSD and changes no other byte; QA to input buffers that the strand owns
puts the blocks into that buffer of every array that the mask names, and changes no SRAM but the staging area that the
RPL form fills with the operand in FP16. A degenerate operand of the form without RPL flags PRECISION: the context
that the schedule names, where it runs, or the step of a TRAIN strand; with RPL, replays allowed, recomputed exponents
that differ and a floor that covers the span, the one replay falls due. (spec/04_formats.md; spec/06_cluster_isa.md) -/
def Obligations.QuantiseActivations : Prop :=
  ∀ (i : Issue) (va sd sp : Reg) (dst : QDst) (mode : QMode) (a4 rpl : Bool) (x : Nat) (s : State), Ready i s → SramCanonical s →
    let u := i.u.num
    let k := s.strand u
    let a := (k.s sd).val.toNat
    let p := QParam.of (k.s sp).val
    let ws := k.widths p
    let bs := k.blocks s.freeN va.val p.nblk
    let vs := bs.map fun b => b.map fun w => ofFp32 w.val
    let es := exponents mode p.exp a4 (ws.map Prod.fst) vs
    let qs := (List.range p.nblk).map fun j => quantBlock a4 ((ws.getD j (0, false)).1) (es.getD j 0) (vs.getD j [])
    let tags := (List.range p.nblk).map fun j => (ws.getD j (0, false)).2 || (bs.getD j []).any (·.poison)
    let bytes := (qs.zip tags).flatMap fun o => o.1.bytes a4 o.2
    let ib := if dst = .input1 then 1 else 0
    let slots := if dst = .sram then [] else (List.range 32).filter fun l => (k.s sd).val.getLsbD l
    let calm := tags.any id = true ∨ qs.all (fun q => !q.degen) = true
    let stg := (k.s (sp + 1)).val.toNat / 4 * 4
    let stage := bs.flatMap fun b => b.flatMap fun w =>
      (leBytes 2 (FFmt.fp16.encode true (ofFp32 w.val))).map fun y => (y, w.poison)
    let put := (slots.foldl (fun s l => s.modArray (s.slotArray u l) fun y => y.putBlocks ib a4 (qs.zip tags)) s).arrays
    let c : Instr := .qa i va sd sp dst mode a4 rpl x
    c.wf = true → (k.s sd).poison = false → (k.s sp).poison = false → (rpl = true → (k.s (sp + 1)).poison = false) →
    (∀ l ∈ slots, k.owns l ib = true → (s.array (s.slotArray u l)).inputPending ib = false) →
    (∃ t, exec c s = .next t ∧ (t.strand u).pc = (k.pc + 1) % 8192 ∧ (t.strand u).sreg = k.sreg ∧ (t.strand u).vreg = k.vreg ∧
      (t.strand u).preg = k.preg ∧
      (calm → (t.strand u) = k.past (k.pc + 1)) ∧
      (dst ≠ .sram → (∀ l ∈ slots, k.owns l ib = true) →
        (rpl = false → t.sram = s.sram ∧ t.arrays = put) ∧
        (rpl = true → stg + stage.length ≤ 0x280000 → s.allows u (spanOf stg stage.length).1 (spanOf stg stage.length).2 →
          t.arrays = put ∧
          (∀ j, j < stage.length → Mem.read t.sram (sramAt i.u.cl.num stg + j) = (stage.getD j (0, false)).1) ∧
          ∀ y, (y < sramAt i.u.cl.num stg ∨ sramAt i.u.cl.num stg + stage.length ≤ y) → Mem.read t.sram y = Mem.read s.sram y))) ∧
    (dst = .sram → calm → a + bytes.length ≤ 0x280000 → s.allows u (spanOf a bytes.length).1 (spanOf a bytes.length).2 →
      Lays c i s a bytes) ∧
    (¬ calm → rpl = false → (∀ l ∈ slots, k.owns l ib = true) →
      (dst = .sram → a + bytes.length ≤ 0x280000 ∧ s.allows u (spanOf a bytes.length).1 (spanOf a bytes.length).2) →
      ∃ t, exec c s = .next t ∧ (t.strand u).stepPrecision = (k.stepPrecision || i.u.st == 1) ∧
        (i.u.st = 0 → x < 4096 → 1 ≤ s.reg (Od.CTX_STATE x) → s.reg (Od.CTX_STATE x) ≤ 3 →
          t.reg (Od.CTX_FLAGS x) = s.reg (Od.CTX_FLAGS x) ||| 1)) ∧
    (¬ calm → rpl = true → s.replayOn u = true → (∀ l ∈ slots, k.owns l ib = true) →
      stg + stage.length ≤ 0x280000 → s.allows u (spanOf stg stage.length).1 (spanOf stg stage.length).2 →
      let eNew := exponents (if mode = .block then .block else .group) 0 a4 (ws.map Prod.fst)
        ((bs.map fun b => b.map fun w => FFmt.fp16.decode (FFmt.fp16.encode true (ofFp32 w.val))))
      eNew ≠ es → (i.u.st = 1 ∨ (k.spanHere : Int) ≤ k.floor) →
      ∃ t, exec c s = .next t ∧
        (t.strand u).replay = some ⟨stg, ws.map Prod.fst, mode != .block, a4, ib, slots, k.spanHere, x⟩)

/-- For every strand that may issue a legal ARR with a clean mask, where no queue of a slot served is full, no reader of
the result buffer is pending and the ceiling leaves room: the instruction answers a next state in which one command
for each slot served, in ascending order and four to a clock, is on its way to the queue of the array that the slot
binds. A slot is served where it and the buffers that the kind uses are the image's. Where every named slot is,
nothing else outside the strand changes; a named slot that is not served gets no command and counts a tag fault.
(spec/06_cluster_isa.md; spec/02_arrays.md; spec/05_clusters.md) -/
def Obligations.ArrayCommands : Prop :=
  ∀ (i : Issue) (o : ArrOps) (s : State), Ready i s →
    let u := i.u.num
    let k := s.strand u
    let r := s.circuit i
    let clk := s.clock i.ph.clk.val
    let named := if o.ms then (List.range 32).filter fun l => (k.s o.sm).val.getLsbD l else [o.slot.val]
    let serves (kind : Nat) (l : Nat) : Bool :=
      k.hasSlot l && (kind == 3 || k.owns l o.ib.val) && (2 ≤ kind || k.owns l (2 + o.rb.val))
    let slots (kind : Nat) := named.filter (serves kind)
    let new (kind : Nat) := (((slots kind).map (r.slotArray u)).filter fun x => !r.arrBusy x clk).length
    let time (kind : Nat) := ((slots kind).map (r.slotArray u)).foldl (fun a x => Nat.max a (r.cmdBusy x kind o.ib.val o.ext.val)) 0
    let ready (kind : Nat) : Prop := arrLegal kind i.u.st o = true ∧ (o.ms = true → (k.s o.sm).poison = false) ∧
      (∀ l ∈ slots kind, (s.array (s.slotArray u l)).queued i.u.st.val < 4 ∧ (kind ≤ 1 → s.readerPending u l o.rb.val = false)) ∧
      (new kind = 0 ∨
        ((k.ceilClass = none ∨ r.yieldsTo u (arrClass i.u.st o.lc) (r.issueDeadline (s.strandJob u) o.ctx) = false) ∧
          r.fits i.u.cl.num i.u.st.val clk (new kind) (time kind) = true))
    let sent (kind : Nat) := ((slots kind).foldl (fun (p : State × Nat) l => (p.1.modArray (p.1.slotArray u l) (fun a =>
      { a with cmds := a.cmds ++ [ArrCmd.mk u kind o.ib.val o.rb.val o.ext.val o.fp32 o.lc
        (8 * s.now + i.ph.clk.val + 2 + p.2 / 4)] }), p.2 + 1)) (s, 0)).1
    let goes (c : Instr) (kind : Nat) : Prop := ready kind →
      ((∀ l ∈ named, serves kind l = true) → Effects c i s (sent kind) (k.past (k.pc + 1))) ∧
      ∃ t, exec c s = .next t ∧ t.strand u = k.past (k.pc + 1) ∧ t.arrays = (sent kind).arrays ∧
        (∀ v, v ≠ u → t.strand v = s.strand v) ∧ ∀ a, Mem.read t.sram a = Mem.read s.sram a
    goes (.mvm i o) 0 ∧ goes (.tread i o) 1 ∧ goes (.seq0 i o) 2 ∧ goes (.seq6 i o) 3

/-- For every strand that may issue with clean operands: DMA of at most 2,621,440 bytes, with room in the queue and no
result to wait for, appends one descriptor to the strand's queue and changes nothing else; with a full queue it stalls
at its instruction, the program counter stays, and a strand that is not being debugged raises one hold request with
cause 2, besides the one of a deadline that has passed; a larger count stops the strand. RRECV gives its declared
channel the window and notify object and changes nothing else. For every strand that may issue a legal RSEND with
clean operands and no result to wait for, whose source stop has fewer than 16 messages in injection: with a length of
4 to 65,536 bytes that is a multiple of 4, over sound and accessible bytes of SRAM, it sends a DATA message of those
words, packed where PACK asks for it, to a rank of its job, a STREAM message to HB of the entry module of the context
that it names (TRAIN: of the lead module), or the contribution to the group that it names, and the strand goes on at
the next word; over other bytes it goes on as well. With another length, another kind of target, a rank outside the
job or no such group, the strand stops and its job ends with POISONED. (spec/06_cluster_isa.md;
spec/09_sidereal_time.md; spec/07_die_network.md; spec/01_architecture.md) -/
def Obligations.DmaAndRing : Prop :=
  (∀ (i : Issue) (rd ra rb : Reg) (notify : Fin 64) (chan : Fin 16) (s : State), Ready i s →
    let u := i.u.num
    let k := s.strand u
    let n := (k.s rd).val.toNat
    let src := (k.s ra).val.toNat
    (k.s rd).poison = false → (k.s ra).poison = false →
    ((k.s rb).poison = false → n ≤ 2621440 → s.buffersWait u src n false = [] →
      ((s.dmaQueue u).length < 8 →
        Effects (.dma i rd ra rb notify) i s
          (s.setDma u (s.dmaQueue u ++ [⟨i.u.st.val, src, (k.s rb).val.toNat, n, notify.val⟩])) (k.past (k.pc + 1))) ∧
      (8 ≤ (s.dmaQueue u).length → s.strandState u ≠ SS.DEBUG → k.stall = none →
        ∃ t, exec (.dma i rd ra rb notify) s = .next t ∧ (t.strand u).pc = k.pc ∧ (t.strand u).stall = some .dmaFull ∧
          (t.job (s.strandJob u)).reqs = (s.job (s.strandJob u)).reqs ++ [⟨some u, 2, none, s.now, none, false⟩] ++
            (if s.overdue u = true then [⟨some u, 1, none, s.now, none, false⟩] else []) ∧ t.sram = s.sram)) ∧
    ((k.s rb).poison = false → 2621440 < n →
      exec (.dma i rd ra rb notify) s = .next ((s.circuit i).strandStop u)) ∧
    ((Store.get? k.chans chan.val).isSome = true → (notify = 63 ∨ s.owned i.u.cl.num notify.val i.u.st.val = true) →
      Issues (.rrecv i rd ra chan notify) i s
        ({ k with chans := Store.set k.chans chan.val ⟨src, n, notify.val⟩ }.past (k.pc + 1)))) ∧
  (∀ (i : Issue) (rd ra rb : Reg) (ring : Fin 4) (auto : Bool) (red pack : Fin 3) (s : State), Ready i s →
    let u := i.u.num
    let k := s.strand u
    let n := (k.s rd).val.toNat
    let a := (k.s ra).val.toNat
    let d := (k.s rb).val.toNat
    let rank := d % 0x1000000
    let chan := d / 0x1000000 % 16
    let kind := d / 0x20000000
    let r := s.circuit i
    let j := r.strandJob u
    let ws := wordsOf (s.run i.u.cl.num a n)
    let w := packPayload auto pack.val ws
    let c : Instr := .rsend i rd ra rb ring auto red pack
    let member (g : Group) : Prop := r.sendGroup u rank chan = some g ∧ n = g.len ∧ g.fp = (red.val == 2)
    (auto = true → ring = 0) → (k.s rd).poison = false → (k.s ra).poison = false → (k.s rb).poison = false →
    (n < 4 ∨ 65536 < n ∨ n % 4 ≠ 0 → exec c s = .next (r.strandStop u)) ∧
    (4 ≤ n → n ≤ 65536 → n % 4 = 0 → s.buffersWait u a n false = [] → s.injecting (stopOf i.u.cl.num) < 16 →
      (a + n ≤ 0x280000 → s.sound i (spanOf a n).1 (spanOf a n).2 → s.allows u (spanOf a n).1 (spanOf a n).2 →
        (kind = 0 → red = 0 → rank < (r.job j).ranks.length →
          exec c s = .next ((r.netSend 0 (r.place j rank).coord ⟨0, s.coord, u, (r.job j).strandOf (r.place j rank), ring.val, chan,
            0, 0, k.tenant, j, 0, 0, BitVec.ofNat 32 rank, w.1, w.2⟩).retire i)) ∧
        (kind = 1 → red = 0 →
          exec c s = .next ((r.netSend 0 (if (r.job j).train then r.leadOf j else r.entryOf j ((ws.headD PWord.zero).val.toNat % 0x10000))
            ⟨7, s.coord, u, 0x10000 + HB, ring.val, 0, 0, 0, k.tenant, j, 0, 0, 0, w.1, w.2⟩).retire i)) ∧
        (∀ g, kind = 0 → red ≠ 0 → rank < (r.job j).ranks.length → member g →
          exec c s = .next ((r.netSend 0 (r.place j g.dst).coord
            { r.reduceMsg j g k.rank ws with srcMod := s.coord, src := u }).retire i)) ∧
        (2 ≤ kind ∨ (kind = 1 ∧ red ≠ 0) ∨ (kind = 0 ∧ (r.job j).ranks.length ≤ rank) ∨ (kind = 0 ∧ red ≠ 0 ∧ ∀ g, ¬ member g) →
          exec c s = .next (r.strandStop u))) ∧
      (red = 0 → (kind = 1 ∨ (kind = 0 ∧ rank < (r.job j).ranks.length)) →
        ∃ t, exec c s = .next t ∧ t.strand u = k.past (k.pc + 1))))

/-- For every strand that may issue and an object that it declares: SINC adds sRA to the object and SSET stores it, each
evaluating the waits on it; SREAD writes the value to sRD; SWAIT issues where the value is at least sRA and SWAITEQ
where it equals sRA, and otherwise the strand stalls with its program counter unchanged; SSIG sends one SYNC_ADD to
the named rank, or serves its own rank at its own stop, and an illegal target stops the strand; SARRIVE makes one
arrival at the member's node, or stalls while its previous arrival is not released. A strand that stalled at one of
the waits goes on once its result is latched. An update of object b of a cluster with a value leaves the object at
that value, latches the wait of a strand of the cluster that waits on b exactly where the new value meets its
condition (or a latched result is there already), and changes no other object, no strand of another cluster, no byte
of SRAM and no array. (spec/10_synchronization.md; spec/06_cluster_isa.md) -/
def Obligations.SyncInstructions : Prop :=
  (∀ (i : Issue) (obj : Fin 64) (ra rd : Reg) (s : State),
    let u := i.u.num
    let c := i.u.cl.num
    let k := s.strand u
    let r := s.circuit i
    let e := s.endLend c
    let v := s.syncVal c obj.val
    let a := (k.s ra).val
    let j := s.strandJob u
    let rank := (k.s rd).val.toNat % 0x1000000
    let m : NetMsg := ⟨3, s.coord, u, (s.job j).strandOf (s.place j rank), 0, 0, obj.val, 0, k.tenant, j, 0, 0, a, [], Carried.plain 1⟩
    let waits (w : Stall) : State := (if s.strandState u ≠ SS.DEBUG ∧ s.overdue u = true then r.missed u else r).modStrand u fun t =>
      { t with stall := some w, stallSince := s.now }
    (Ready i s → s.owned c obj.val i.u.st.val = true →
      exec (.sread i obj rd) s = .next (((r.bump (syCnt c 1) 1).modStrand u fun t => t.setS rd ⟨v, false⟩).retire i) ∧
      ((k.s ra).poison = false →
        exec (.sinc i obj ra) s = .next (((r.bump (syCnt c 1) 1).syncUpdate c obj.val (v + a)).retire i) ∧
        exec (.sset i obj ra) s = .next (((r.bump (syCnt c 1) 1).syncUpdate c obj.val a).retire i) ∧
        (k.stall = none →
          exec (.swait i obj ra) s = .next (if a.toNat ≤ v.toNat then (r.bump (syCnt c 1) 1).retire i
            else waits (.sync obj.val false a false)) ∧
          exec (.swaiteq i obj ra) s = .next (if v = a then (r.bump (syCnt c 1) 1).retire i
            else waits (.sync obj.val true a false))))) ∧
    (Ready i s → (k.s ra).poison = false → (k.s rd).poison = false →
      ((k.s rd).val.toNat / 0x20000000 = 0 → rank < (s.job j).ranks.length →
        exec (.ssig i obj ra rd) s = .next ((if rank = k.rank then (r.bump (syCnt c 2) 1).syncAdd m
          else (r.bump (syCnt c 2) 1).netSend 1 (s.place j rank).coord m).retire i)) ∧
      ((k.s rd).val.toNat / 0x20000000 ≠ 0 ∨ (s.job j).ranks.length ≤ rank →
        exec (.ssig i obj ra rd) s = .next (r.strandStop u))) ∧
    (∀ n, s.node c obj.val = some n → s.owned c obj.val i.u.st.val = true → n.strand = i.u.st.val →
      let arrive (x : State) : State := ((x.modCluster c fun q => { q with nodes := Store.set q.nodes obj.val { n with waiting := true }
        }).arriveAt u obj.val).retire i
      (Ready i s → k.stall = none → n.waiting = false → exec (.sarrive i obj) s = .next (arrive r)) ∧
      (Ready i s → k.stall = none → n.waiting = true → exec (.sarrive i obj) s = .next (waits (.arrive obj.val false))) ∧
      (s.mayResume u = true → s.onTime u i.ph.clk.val = true → k.stall = some (.arrive obj.val true) →
        exec (.sarrive i obj) s = .next (arrive e))) ∧
    (s.owned c obj.val i.u.st.val = true → s.mayResume u = true → s.onTime u i.ph.clk.val = true →
      (∀ tgt, k.stall = some (.sync obj.val false tgt true) → exec (.swait i obj ra) s = .next ((e.bump (syCnt c 1) 1).retire i)) ∧
      ∀ tgt, k.stall = some (.sync obj.val true tgt true) → exec (.swaiteq i obj ra) s = .next ((e.bump (syCnt c 1) 1).retire i))) ∧
  (∀ (s : State) (c b : Nat) (v : Word), c < 1536 → b < 48 →
    let t := s.syncUpdate c b v
    t.reg (syObj c b 3) = v.toNat ∧
    (∀ o, o.addressed → o ≠ syObj c b 3 → t.reg o = s.reg o) ∧
    (∀ u, clOf u ≠ c → t.strand u = s.strand u) ∧
    (∀ u eq tgt met, clOf u = c → (s.strand u).stall = some (.sync b eq tgt met) →
      (t.strand u).stall = some (.sync b eq tgt (met || (if eq then v == tgt else decide (tgt.toNat ≤ v.toNat))))) ∧
    (∀ u, clOf u = c → (∀ eq tgt met, (s.strand u).stall ≠ some (.sync b eq tgt met)) → t.strand u = s.strand u) ∧
    t.sram = s.sram ∧ t.arrays = s.arrays ∧ t.clusters = s.clusters)

/-- For every strand that may issue and a schedule point or gap that its role declares: TWAIT issues where job time is at
least base + point and otherwise stalls with the program counter unchanged, and a strand that stalled at it goes on
once job time is there; DLN sets the deadline base + point of the next instruction; TBASE adds the point to base; TRST
makes base the job time; TNOW writes the low 32 bits of job time minus base; TGAP opens the gap for its length in job
time; nothing else changes. For every strand that may issue: BATCH on strand 0 selects the bank and lets pending
bindings take effect; STEP on strand 1 notes the step, takes the bank of the CURRENT version, counts a step at rank 0,
and freezes a RUNNING strand where a freeze is pending and nothing is outstanding, for which it waits; END makes the
strand RELEASING, and the job ends complete once every strand of it has ended. (spec/06_cluster_isa.md;
spec/05_clusters.md; spec/09_sidereal_time.md; spec/12_weights.md) -/
def Obligations.TimeInstructions : Prop :=
  (∀ (i : Issue) (p : BitVec 12) (rd : Reg) (g : BitVec 12) (s : State),
    let u := i.u.num
    let k := s.strand u
    let now := s.jobTime u
    let go (t : Strand) := t.past (k.pc + 1)
    (Ready i s →
      (∀ v, Store.get? k.points p.toNat = some v →
        (k.base + v ≤ now → k.stall = none → Issues (.twait i p) i s (go k)) ∧
        (now < k.base + v → k.stall = none →
          ∃ t, exec (.twait i p) s = .next t ∧ t.strand u = { k with
            stall := some (.tick (k.base + v)), stallSince := s.now, late := k.late || (s.strandState u != SS.DEBUG && s.overdue u) }) ∧
        Issues (.dln i p) i s { go k with deadline := some (k.base + v), dlnAt := (s.now, i.ph.clk.val) } ∧
        Issues (.tbase i p) i s (go { k with base := (k.base + v) % 2 ^ 64 })) ∧
      Issues (.trst i) i s (go { k with base := now }) ∧
      Issues (.tnow i rd) i s (go (k.setS rd ⟨BitVec.ofNat 32 now - BitVec.ofNat 32 k.base, false⟩)) ∧
      (∀ n, Store.get? k.gaps g.toNat = some n → Issues (.tgap i g) i s { go k with gap := some (g.toNat, now + n) })) ∧
    (∀ v, Store.get? k.points p.toNat = some v → k.stall = some (.tick (k.base + v)) → k.base + v ≤ now → s.mayResume u = true →
      s.onTime u i.ph.clk.val = true → exec (.twait i p) s = .next ((s.endLend i.u.cl.num).retire i))) ∧
  (∀ (i : Issue) (bank : Fin 2) (s : State), Ready i s →
    let u := i.u.num
    let c := i.u.cl.num
    let k := s.strand u
    let r := s.circuit i
    let e := (r.retire i).releaseStrand u
    let q := (r.retire i).modStrand u fun t => { t with lastStep := s.jobTime u, bank := r.servingBank c }
    let steps := Od.TRAIN_STEPS (s.strandJob u)
    let freezes := k.freezeReq = true ∧ s.strandState u = SS.RUNNING
    (i.u.st = 0 → exec (.batch i bank) s = .next (((r.modStrand u fun t => { t with bank := bank.val }).atBatch u).retire i)) ∧
    (i.u.st = 1 →
      (¬ freezes → k.rank ≠ 0 → exec (.step i) s = .next q) ∧
      (¬ freezes → k.rank = 0 → exec (.step i) s = .next (q.setReg steps ((q.reg steps + 1) % 2 ^ 64))) ∧
      (freezes → r.outstanding u = false → k.rank ≠ 0 → exec (.step i) s = .next
        ((q.modStrand u fun t => { t with freezeReq := false, frozenAt := s.now }).setReg (ssObj u) SS.FROZEN)) ∧
      (freezes → r.outstanding u = false → ∃ t, exec (.step i) s = .next t ∧
        t.strand u = { k.past (k.pc + 1) with
          lastStep := s.jobTime u, bank := r.servingBank c, freezeReq := false, frozenAt := s.now }) ∧
      (freezes → r.outstanding u = true → ∃ t, exec (.step i) s = .next t ∧ (t.strand u).pc = k.pc ∧
        (t.strand u).stall = some .boundary)) ∧
    exec (.endJob i) s = .next (if (e.jobStrands (s.strandJob u)).all (fun v => e.strandState v == SS.RELEASING ||
      e.strandState v == SS.EMPTY) then e.endJob (s.strandJob u) Code.OK 0 0 else e))

/-- For every strand that may issue with clean operands: PTAG gives the page its tag; PCSRR and PCSRW read and write the
control register; PSLOT notes the binding of the slot to the array of the cluster, for the bank of the strand's batch,
to take effect at the BATCH at which the slot map may change; PCLR zeroes every page of the named strand, invalidates
its tags and clears its register files and instruction store, as the release of a strand does. The places of the tag's
bits are the model's (log entry 25), and the array of a number from 34 on, which the spec does not name, is free (log
entry 26). (spec/06_cluster_isa.md; spec/05_clusters.md; spec/02_arrays.md) -/
def Obligations.PrivilegedInstructions : Prop :=
  ∀ (i : Issue) (ra rd : Reg) (n : BitVec 12) (s : State), Ready i s →
    let u := i.u.num
    let c := i.u.cl.num
    let k := s.strand u
    let a := (k.s ra).val.toNat
    let b := k.bank
    (∀ w, Store.get 0 (s.cluster c).pcsr n.toNat = w → Issues (.pcsrr i rd n) i s ((k.setS rd ⟨w, false⟩).past (k.pc + 1))) ∧
    ((k.s ra).poison = false →
      Effects (.pcsrw i ra n) i s (s.modCluster c fun q => { q with pcsr := Store.set q.pcsr n.toNat (k.s ra).val })
        (k.past (k.pc + 1)) ∧
      ((k.s rd).poison = false →
        let w := (k.s rd).val.toNat
        let tag : PageTag := ⟨w / 2048 % 2 == 1, w / 1024 % 2, w % 1024⟩
        Effects (.ptag i ra rd) i s { s with pages := Store.set s.pages (1024 * c + a % 1024) tag } (k.past (k.pc + 1))) ∧
      Effects (.pslot i ra) i s (s.modCluster c fun q => { q with 
          pendingSlots := Store.set q.pendingSlots (64 + 32 * b + a % 32) (if a / 32 % 64 < 34 then a / 32 % 64 else Config.freeNat s.freeN % 34) }) (k.past (k.pc + 1)) ∧
      (Store.wf s.pages = true → ∃ t, exec (.pclr i ra) s = .next t ∧
        let v := 2 * c + a % 2
        (v ≠ u → t.strand u = k.past (k.pc + 1)) ∧
        (t.strand v).sreg = [] ∧ (t.strand v).vreg = [] ∧ (t.strand v).preg = [] ∧ (t.strand v).imem = [] ∧
        (∀ x p, (s.page c p).valid = true → (s.page c p).strand = stOf v → p < 1024 →
          (t.page c p).valid = false ∧ (x < 4096 → Mem.read t.sram (sramAt c (4096 * p + x)) = 0)) ∧
        (∀ x, x / 0x400000 ≠ c → Mem.read t.sram x = Mem.read s.sram x)))

/-- For every strand that may issue an instruction whose control operand is poisoned (a branch on sRA, JR, a load or store
address, a wait target, a DMA or send operand, a quantiser operand): nothing of the instruction takes place, the
strand stops, and a job that is BOUND or ENABLED goes to ENDING. (spec/05_clusters.md; spec/06_cluster_isa.md) -/
def Obligations.PoisonedControlOperand : Prop :=
  ∀ (i : Issue) (ra rb rd vd : Reg) (imm off : BitVec 16) (obj notify : Fin 64) (len : Fin 32) (vo : BitVec 11) (ring : Fin 4)
      (red pack : Fin 3) (s : State),
    Ready i s → ((s.strand i.u.num).s ra).poison = true →
    let u := i.u.num
    let stop (c : Instr) : Prop := exec c s = .next ((s.circuit i).strandStop u)
    ((∃ n, target (s.strand u).pc off.toInt = some n) →
      stop (.beq i ra rb off) ∧ stop (.bne i rb ra off) ∧ stop (.blt i ra rb off) ∧ stop (.bgeu i ra rb off)) ∧
    stop (.jr i ra) ∧ stop (.lds i rd ra imm) ∧ stop (.sts i rd ra imm) ∧
    stop (.vld i vd ra len vo) ∧ stop (.vst i vd ra len vo) ∧ stop (.dma i rd ra rb notify) ∧
    stop (.rsend i rd ra rb ring false red pack) ∧ stop (.ssig i obj ra rd) ∧
    stop (.qkv4 i vd ra rb) ∧ stop (.dqa8 i vd ra rb) ∧
    (s.owned i.u.cl.num obj.val i.u.st.val = true → stop (.sinc i obj ra) ∧ stop (.sset i obj ra) ∧
      ((s.strand u).stall = none → stop (.swait i obj ra) ∧ stop (.swaiteq i obj ra))) ∧
    (let j := s.strandJob u
     (s.jobState j = JS.BOUND ∨ s.jobState j = JS.ENABLED) → j < 256 →
      ((s.circuit i).strandStop u).jobState j = JS.ENDING)

/-- Where a strand may issue and its instruction word fails parity and the refetch fails too, the instruction records its
fault and stops the strand (ADD, NOP, LDS and TNOW stand for the forms). Where the deadline of the instruction has
passed, it does not issue: the strand raises a hold request, withdrawn at once where the instruction could issue.
Where the strand may not issue and no missed deadline holds it, the instruction changes nothing (the model's choice:
the command is then no event); where its own missed deadline holds it, the request is withdrawn. An instruction whose
operands spell an illegal encoding is refused in every state: a branch whose target lies outside the instruction
store, SYSR of a reserved number, an integer-only vector operation in another format, a unary one with VB other than
0, a compare or reduction in a format besides FP32 and INT32, an RSEND that names a ring beside AUTO, BATCH on strand
1 and STEP on strand 0, an ARR with a field that its KIND does not use, and QA with RPL to SRAM. So is one that names
a sync object, channel or schedule point that the strand's image does not declare. (spec/06_cluster_isa.md;
spec/05_clusters.md; spec/09_sidereal_time.md) -/
def Obligations.InstructionStops : Prop :=
  (∀ (i : Issue) (rd ra rb : Reg) (imm : BitVec 16) (s : State),
    let u := i.u.num
    let k := s.strand u
    let j := s.strandJob u
    (s.mayIssue u = true → i.ph.fetch = .failed →
      let t := ((s.circuit i).clFault 0xB i.u.cl.num k.pc i.u.st.val []).strandStop u
      exec (.add i rd ra rb) s = .next t ∧ exec (.nop i) s = .next t ∧ exec (.tnow i rd) s = .next t ∧
      ((k.s ra).poison = false → exec (.lds i rd ra imm) s = .next t)) ∧
    (s.mayIssue u = true → i.ph.fetch ≠ .failed → s.onTime u i.ph.clk.val = false →
      ∀ c ∈ ([.add i rd ra rb, .nop i, .tnow i rd] : List Instr), ∃ t, exec c s = .next t ∧ t.strand u = { k with late := true } ∧
        ⟨some u, 1, none, s.now, some s.now, false⟩ ∈ (t.job j).reqs) ∧
    (s.mayIssue u = false → k.late = false →
      exec (.add i rd ra rb) s = .next s ∧ exec (.nop i) s = .next s ∧ exec (.lds i rd ra imm) s = .next s ∧
      exec (.tnow i rd) s = .next s) ∧
    (s.mayIssue u = false → k.late = true → k.stall = none → k.gap = none → k.replay = none →
      exec (.add i rd ra rb) s = .next (s.withdraw j (some u)) ∧ exec (.nop i) s = .next (s.withdraw j (some u)))) ∧
  (∀ (i : Issue) (ra rb rd : Reg) (o : VOps) (ao : ArrOps) (off imm : BitVec 16) (bank : Fin 2) (ring : Fin 4)
      (red pack : Fin 3) (mode : QMode) (a4 : Bool) (x : Nat) (obj notify : Fin 64) (chan : Fin 16) (p : BitVec 12) (s : State),
    let no (c : Instr) : Prop := exec c s = .refused .illegalEncoding
    let undeclared (c : Instr) : Prop := exec c s = .refused .undeclared
    (target (s.strand i.u.num).pc off.toInt = none → no (.beq i ra rb off) ∧ no (.bltu i ra rb off)) ∧
    (5 < imm.toNat → (imm.toNat < 16 ∨ 32 ≤ imm.toNat) → no (.sysr i rd imm)) ∧
    (o.fmt ≠ .int32 → no (.vand i o) ∧ no (.vshl i o)) ∧
    (o.vb ≠ 0 → no (.vabs i o) ∧ no (.vexp i o)) ∧
    (o.fmt ≠ .int32 → o.fmt ≠ .fp32 → no (.vcmplt i o) ∧ no (.vrsum i o)) ∧
    (ring ≠ 0 → no (.rsend i rd ra rb ring true red pack)) ∧
    (i.u.st = 1 → no (.batch i bank)) ∧ (i.u.st = 0 → no (.step i)) ∧
    (ao.rb ≠ 0 → no (.seq0 i ao) ∧ no (.seq6 i ao)) ∧ (ao.ib ≠ 0 → no (.seq6 i ao)) ∧
    (i.u.st = 1 → ao.lc = true → no (.mvm i ao) ∧ no (.tread i ao)) ∧
    no (.qa i ra rb rd .sram mode a4 true x) ∧
    (s.owned i.u.cl.num obj.val i.u.st.val = false →
      undeclared (.sinc i obj ra) ∧ undeclared (.sread i obj rd) ∧ undeclared (.swait i obj ra)) ∧
    (Store.get? (s.strand i.u.num).chans chan.val = none → undeclared (.rrecv i rd ra chan notify)) ∧
    (Store.get? (s.strand i.u.num).points p.toNat = none → undeclared (.twait i p) ∧ undeclared (.dln i p) ∧ undeclared (.tbase i p)))

/-- A command that has reached its array leaves the way there and joins the queue of its strand, and suspends a running
calibration sequence; the head of a queue that may start leaves it and starts a read with its captured operands, or
starts or drops the sequence that it asks for; the phase of the next read, the serving strand's first, advances that
read by one phase; a finished read leaves the array and its result words become visible in its result buffer: the
combined sums, 7FC00000h for an FP32 result of a NaN exponent, and poisoned words for an array that is not ACTIVE and
for an INT32 result of a NaN exponent; no strand and no byte of SRAM changes. In an array that is PROGRAMMING and has
room under the ceiling, a row whose levels are ready is written and verified: its 1,024 cells hold those levels and
its reference cells their targets, every cell of another row is unchanged, and the next row is due, up to the last
row; the replay of a staged degenerate block clears the site, adds one hold request of the strand's job with cause 4,
and changes no byte of SRAM. (spec/02_arrays.md; spec/03_converters.md; spec/01_architecture.md; spec/04_formats.md;
spec/12_weights.md) -/
def Obligations.ArrayEvents : Prop :=
  (∀ (x : ArrayId) (st : Fin 2) (clk : Fin 8) (late : Nat) (s : State),
    let a := s.array x.num
    let n := s.clock clk.val
    let head (st : Nat) : Option ArrRun := a.runs.find? fun r => stOf r.cmd.strand == st && decide (r.next < r.phases)
    let q (t : State) := if st = 0 then (t.array x.num).q0 else (t.array x.num).q1
    (∀ c, a.cmds.find? (fun c => decide (c.clock ≤ n)) = some c →
      Does (.arrayQueueEntry x clk late) s fun t =>
        (t.array x.num).cmds = a.cmds.erase c ∧
        (t.array x.num).q0 = (if stOf c.strand = 0 then a.q0 ++ [c] else a.q0) ∧
        (t.array x.num).q1 = (if stOf c.strand = 0 then a.q1 else a.q1 ++ [c]) ∧
        (s.seqState x.num = 1 → t.seqState x.num = 2) ∧
        (∀ y, y ≠ x.num → t.array y = s.array y) ∧ t.strands = s.strands ∧ t.sram = s.sram) ∧
    (∀ c rest, q s = c :: rest → c.clock ≤ n → (if st = 0 then a.free0 else a.free1) ≤ n →
      (a.runs.any fun r => stOf r.cmd.strand == st.val && decide (r.next < r.phases)) = false →
      Does (.arrayCommandStart x st clk) s fun t =>
        q t = rest ∧ t.strands = s.strands ∧ t.sram = s.sram ∧
        (c.kind ≤ 1 → ∃ r, (t.array x.num).runs = a.runs ++ [r] ∧ r.cmd = c ∧ r.next = 0 ∧ n ≤ r.start ∧
          (r.inactive = false ↔ s.arrState x.num = AS.ACTIVE)) ∧
        (2 ≤ c.kind → (t.array x.num).runs = a.runs ∧
          (s.seqRefused x.num = true → t.seqState x.num = s.seqState x.num) ∧
          (s.seqRefused x.num = false → seqOp (s.seqEntry x.num (if c.kind = 2 then 0 else 6)) < 7 →
            t.seqState x.num = 1 ∨ t.seqState x.num = 2))) ∧
    (∀ r, a.phaseEnd ≤ n → (head 0 = some r ∨ (head 0 = none ∧ head 1 = some r)) →
      Does (.arrayPhaseStart x clk) s fun t =>
        (∃ r', r' ∈ (t.array x.num).runs ∧ r'.cmd = r.cmd ∧ r'.next = r.next + 1) ∧
        (t.array x.num).runs.length = a.runs.length ∧
        (t.array x.num).phaseTrain = (stOf r.cmd.strand == 1) ∧ t.strands = s.strands ∧ t.sram = s.sram) ∧
    (∀ r, a.runs.find? (fun r => decide (r.phases ≤ r.next ∧ r.visible ≤ s.now)) = some r →
      let tread := r.cmd.kind == 1
      let vs := combine tread (5 ≤ s.wfmt x.num : Bool) r.acc
      let word (t : State) (j : Nat) : PWord := (t.array x.num).result r.cmd.rb j
      Does (.arrayResultAvailable x) s fun t =>
        (t.array x.num).runs = a.runs.erase r ∧
        (r.inactive = false → r.nan = false → ∀ j, j < vs.length → word t j =
          ⟨resultWord r.cmd.fp32 tread r.emax (Store.get 0 a.scales j) (clamp24 (vs.getD j 0)), r.poison⟩) ∧
        (r.inactive = false → r.nan = true → ∀ j, j < vs.length →
          (r.cmd.fp32 = true → word t j = ⟨0x7FC00000, r.poison⟩) ∧ (r.cmd.fp32 = false → (word t j).poison = true)) ∧
        (r.inactive = true → ∀ j, j < vs.length → (word t j).poison = true) ∧
        (∀ y, y ≠ x.num → t.array y = s.array y) ∧ t.strands = s.strands ∧ t.sram = s.sram)) ∧
  (∀ (x : ArrayId) (clk iters : Fin 8) (u : StrandId) (r : Nat) (l : List (BitVec 4)) (rep : Replay) (s : State),
    ((s.array x.num).progRow = some r → s.arrState x.num = AS.PROGRAMMING → s.roomForRow x.num (s.clock clk.val) = true →
      s.rowsRun = true → s.reg (Od.DIE_OPP (dieOf (acl x.num))) ≠ 0xFF → s.rowLevels x.num r = some l → r < 1023 →
      ((s.array x.num).progBlock = none ∨ ∃ e k b, (s.array x.num).progBlock = some (e, k) ∧ s.blockOf e k = some b) →
      Does (.programRow x clk iters true) s fun t =>
        (t.array x.num).progRow = some (r + 1) ∧ t.arrState x.num = AS.PROGRAMMING ∧
        (∀ c, c < 1024 → Store.get 0 (t.array x.num).cells (1024 * r + c) = l.getD c 0) ∧
        (∀ k, k < 32 → Store.get 0 (t.array x.num).refs (32 * r + k) = if k % 2 = 0 then 8 else 0) ∧
        (∀ k, k < 1024 * r ∨ 1024 * (r + 1) ≤ k →
          Store.get 0 (t.array x.num).cells k = Store.get 0 (s.array x.num).cells k) ∧
        (∀ y, y ≠ x.num → t.array y = s.array y) ∧ t.strands = s.strands ∧ t.sram = s.sram) ∧
    ((s.strand u.num).replay = some rep →
      Does (.degenReplay u) s fun t =>
        (t.strand u.num).replay = none ∧ t.sram = s.sram ∧
        (t.job (s.strandJob u.num)).reqs = (s.job (s.strandJob u.num)).reqs ++
          [⟨some u.num, 4, some rep.span, s.now, none, (s.job (s.strandJob u.num)).holdStart.isSome⟩]))

/-- A write that reaches the object starts an idle sequencer at an entry up to 31 (RUNNING on a free array, SUSPENDED
otherwise), with input buffer 0 and the whole row extent for entries that drive, ends the sequence, or writes an entry
of an idle sequencer, whose reserved bits stay 0; a start above entry 31 is refused with RANGE_CONFLICT, one of an
array in PROGRAMMING or RETIRED or with a busy sequencer with WRONG_STATE, one of an array of a sealed version with
LOCKED, and none of them changes anything but the answer; a suspended sequence resumes once its array is free.
(spec/03_converters.md; spec/19_security.md) -/
def Obligations.SequencerWrites : Prop :=
  ∀ (n : Nat) (x : ArrayId) (e : Fin 32) (v : BitVec 8) (w : BitVec 64) (s : State),
    let only (t : State) : Prop := t = { s with regs := t.regs, arrays := t.arrays, answer := t.answer } ∧
      t.answer = ⟨0, 0xFF, []⟩ ∧ ∀ y, y ≠ x.num → t.array y = s.array y
    (Writes s n (s.isOp n) →
      (31 < v.toNat → exec (.seqStart n x v) s = .next (s.answers ⟨Code.RANGE_CONFLICT, 0xFF, []⟩)) ∧
      (v.toNat ≤ 31 → s.sealedArray x.num = true → exec (.seqStart n x v) s = .next (s.answers ⟨Code.LOCKED, 0xFF, []⟩)) ∧
      (v.toNat ≤ 31 → s.sealedArray x.num = false →
        (s.seqRefused x.num = true → exec (.seqStart n x v) s = .next (s.answers ⟨Code.WRONG_STATE, s.seqState x.num, []⟩)) ∧
        (s.seqRefused x.num = false → seqOp (s.seqEntry x.num v.toNat) < 7 →
          Does (.seqStart n x v) s fun t => only t ∧ t.ar 0x27 2 x.num = v.toNat ∧ (t.array x.num).seqRep = 0 ∧
            (t.array x.num).seqIb = 0 ∧ (t.array x.num).seqExt = 31 ∧
            t.seqState x.num = if s.seqFree x.num then 1 else 2)) ∧
      Does (.seqAbort n x true) s (fun t => only t ∧ t.arrays = s.arrays ∧ t.seqState x.num = 0) ∧
      exec (.seqAbort n x false) s = .next s.ok ∧
      (s.sealedArray x.num = false → s.seqState x.num ≠ 0 →
        exec (.seqEntry n x e w) s = .next (s.answers ⟨Code.WRONG_STATE, s.seqState x.num, []⟩)) ∧
      (s.sealedArray x.num = false → s.seqState x.num = 0 →
        Does (.seqEntry n x e w) s fun t => only t ∧ t.seqEntry x.num e.val = w &&& 0x00FFFFFFFFFFF7FF ∧ t.regs = s.regs ∧
          ∀ k, k ≠ e.val → t.seqEntry x.num k = s.seqEntry x.num k)) ∧
    (s.seqState x.num = 2 → s.seqFree x.num = true → seqOp (s.seqEntry x.num (s.ar 0x27 2 x.num)) < 7 →
      Does (.seqResume x) s fun t => t = { s with regs := t.regs } ∧ t.seqState x.num = 1)

/-- A running sequence whose entry has the operation of the command performs one repetition of it, also in a drain where
the entry has begun: a repetition short of the entry's count leaves the entry in force with one more repetition done;
the last repetition goes on to the next entry, or ends the sequence where the entry has LAST or is entry 31; every
line that the entry does not select keeps its sum, NOP and an entry with DISCARD keep every sum, and no strand and no
byte of SRAM changes. OPEN_WIRE counts each faulty column and row line once in a sequence, and is skipped with status
SKIPPED_STATE on an array that is neither SPARE nor FREE. At a multiple of 65,536 ticks a window ends: RANGE_BIN_0 to
RANGE_BIN_7 of the array read the counts of the samples delivered in the window modulo 2^32, and those of later
windows stay; in a window with fewer than 16,384 samples nothing else changes; at another tick nothing changes at all.
(spec/03_converters.md; spec/18_power_clocks_thermal.md) -/
def Obligations.SequencerRepetitions : Prop :=
  (∀ (x : ArrayId) (ms : List WireMeas) (s : State),
    let a := s.array x.num
    let pc := s.ar 0x27 2 x.num
    let e := s.seqEntry x.num pc
    let wire := s.arrState x.num = AS.SPARE ∨ s.arrState x.num = AS.FREE
    let known := if a.seqOw then a.owLines else []
    let found := (ms.filter fun m => wireSelected e m.line && s.wireFaulty x.num e m).map WireMeas.line
    let new := (found.filter fun l => !known.contains l).eraseDups
    let advanced (t : State) : Prop :=
      (a.seqRep + 1 < seqRepeat e → (t.array x.num).seqRep = a.seqRep + 1 ∧ t.ar 0x27 2 x.num = pc ∧ t.seqState x.num = 1) ∧
      (seqRepeat e ≤ a.seqRep + 1 → seqLast e = true ∨ pc = 31 → t.seqState x.num = 0) ∧
      (seqRepeat e ≤ a.seqRep + 1 → seqLast e = false → pc ≠ 31 → seqOp (s.seqEntry x.num (pc + 1)) < 7 →
        t.ar 0x27 2 x.num = pc + 1 ∧ t.seqState x.num = 1 ∧ (t.array x.num).seqRep = 0)
    let sums (lines : List Nat) (t : State) : Prop := advanced t ∧ t.strands = s.strands ∧ t.sram = s.sram ∧
      (seqDiscard e = true → (t.array x.num).calAcc = a.calAcc) ∧
      ∀ l, l ∉ lines → Store.get 0 (t.array x.num).calAcc l = Store.get 0 a.calAcc l
    let cols (pos : Nat) : List Nat := (colLines e pos (Config.freeBool s.freeN)).map accLine
    s.seqState x.num = 1 →
    (s.gated (acl x.num) = false ∨ 0 < a.seqRep →
      (a.seqFound = 0 →
        (seqOp e = 0 → Does (.seqNop x) s (sums [])) ∧
        (seqOp e = 1 → Does (.senseCol x) s (sums (cols (seqPos e)))) ∧
        (seqOp e = 2 → Does (.senseRow x) s (sums ((rowLines e).map (2112 + ·)))) ∧
        (seqOp e = 3 → Does (.zeroRef x) s (sums (cols (seqPos e)))) ∧
        (seqOp e = 4 → Does (.refCol x) s (sums (cols 0x10000))) ∧
        (seqOp e = 6 → Does (.biasMon x) s (sums ((List.range 8).map (3136 + ·))))) ∧
      (seqOp e = 5 → wire → Does (.openWire x ms) s fun t => advanced t ∧ t.sram = s.sram ∧
        t.ar 0x28 2 x.num = (if a.seqOw then s.ar 0x28 2 x.num else 0) + (new.filter (· < 2048)).length ∧
        t.ar 0x28 3 x.num = (if a.seqOw then s.ar 0x28 3 x.num else 0) + (new.filter (2048 ≤ ·)).length)) ∧
    (seqOp e = 5 → ¬ wire → a.seqFound = 0 → Does (.openWire x ms) s fun t => (t.array x.num).calAcc = a.calAcc ∧
      t.strands = s.strands ∧ t.sram = s.sram ∧ (seqLast e = true ∨ pc = 31 → t.seqState x.num = 0 ∧ t.ar 0x27 3 x.num = 3))) ∧
  (∀ (x : ArrayId) (s : State),
    let w := s.now / 0x10000 - 1
    let cnt (b : Nat) : Nat := Store.get 0 (s.array x.num).bins (8 * w + b)
    let total := (List.range 8).foldl (fun t b => t + cnt b) 0
    let later := Store.keep (s.array x.num).bins fun k => w < k / 8
    (s.now % 0x10000 = 0 → Does (.monitorWindowEnd x) s fun t =>
      (∀ b, b < 8 → t.ar 0x25 (b + 1) x.num = cnt b % 0x100000000) ∧ (t.array x.num).bins = later ∧
      t = { s with regs := t.regs, arrays := t.arrays, excursionEvents := t.excursionEvents } ∧
      (∀ y, y ≠ x.num → t.array y = s.array y) ∧
      (total < 16384 → t.array x.num = { s.array x.num with bins := later } ∧ t.excursionEvents = s.excursionEvents ∧
        ∀ o, o.addressed → (∀ b, b < 8 → o ≠ arObj 0x25 (b + 1) x.num) → t.reg o = s.reg o)) ∧
    (s.now % 0x10000 ≠ 0 → exec (.monitorWindowEnd x) s = .next s))

/-- At the start tick of a job each of its LOADED strands becomes RUNNING at its entry with base at the start tick and the
hold offset 0; from the tick after its first request a hold holds every RUNNING strand of the job, the ticks since
that request enter the HOLD_OFFSET of each held strand, the job's is the largest of them, and the cause is recorded; a
hold whose end has come counts its length, sets every HELD strand RUNNING and clears the requests, unless a replay
raised in it follows: then its hold starts at once with cause 4. None of them changes a byte of SRAM or an array. A
strand whose release is complete is EMPTY and as new, its pages read 0 and are invalid. Before the start tick or the
end nothing changes. The strands of the job are strands of the module (a premise that the binding establishes). That
the job's offset on a module is the largest of its strands' is the model's choice (log entry 117).
(spec/09_sidereal_time.md; spec/08_program_contract.md; spec/05_clusters.md; spec/04_formats.md) -/
def Obligations.JobStartAndHolds : Prop :=
  ∀ (j : Nat) (v : StrandId) (s : State),
    ((∀ u, u ∈ s.jobStrands j → u < 3072) →
      (∀ b, (s.job j).startTick = some b →
        (b ≤ s.now → Does (.strandStart j) s fun t =>
          (t.job j).startTick = none ∧ t.reg (Od.JOB_ENABLE j) = 1 ∧ t.reg (Od.JOB_HOLD_OFFSET j) = 0 ∧
          t.reg (Od.JOB_LAG j) = 0 ∧ t.sram = s.sram ∧ t.arrays = s.arrays ∧
          (∀ u, u ∈ s.jobStrands j → s.reg (ssObj u) = SS.LOADED → t.reg (ssObj u) = SS.RUNNING ∧
            (t.strand u).base = b ∧ (t.strand u).pc = (s.strand u).entry ∧ (t.strand u).lastStep = b) ∧
          ∀ u, u ∉ s.jobStrands j → t.strand u = s.strand u) ∧
        (s.now < b → exec (.strandStart j) s = .next s)) ∧
      (∀ r l, (s.job j).reqs = r :: l → (s.job j).holdStart = none → s.jobState j = JS.ENABLED →
        (r.raised < s.now → Does (.holdStart j) s fun t =>
          (t.job j).holdStart = some r.raised ∧ t.reg (Od.LAST_HOLD_CAUSE j) = r.cause ∧ SameDies s t ∧
          t.reg (Od.JOB_HOLD_OFFSET j) =
            (s.jobStrands j).foldl (fun a u => Nat.max a (t.reg (hoObj u))) (s.reg (Od.JOB_HOLD_OFFSET j)) ∧
          ∀ u, u ∈ s.jobStrands j → s.strandState u = SS.RUNNING → t.strandState u = SS.HELD ∧
            ((s.jobStrands j).count u = 1 →
              t.reg (hoObj u) = (s.reg (hoObj u) + (s.now - r.raised)) % 0x10000000000000000)) ∧
        (s.now ≤ r.raised → exec (.holdStart j) s = .next s)) ∧
      (∀ b e, (s.job j).holdStart = some b → holdEnd (s.job j).reqs = some e →
        let next := (s.job j).reqs.filter fun r => r.after
        (e ≤ s.now → Does (.holdEnd j) s fun t => t.arrays = s.arrays ∧ t.sram = s.sram ∧
          (next = [] → (t.job j).holdStart = none ∧ (t.job j).reqs = [] ∧
            ∀ u, u ∈ s.jobStrands j → s.strandState u = SS.HELD → t.strandState u = SS.RUNNING) ∧
          (next ≠ [] → (t.job j).holdStart = some e ∧ t.reg (Od.LAST_HOLD_CAUSE j) = 4 ∧
            (t.job j).reqs = next.map (fun r => { r with raised := e, after := false }) ∧
            ∀ u, u < 3072 → t.strandState u = s.strandState u)) ∧
        (s.now < e → exec (.holdEnd j) s = .next s))) ∧
    (s.reg (ssObj v.num) = SS.RELEASING → Store.wf s.pages = true →
      Does (.strandClearDone v) s fun t =>
        t.strand v.num = Strand.new ∧ t.reg (ssObj v.num) = SS.EMPTY ∧ t.reg (sjObj v.num) = 0 ∧
        t.reg (hoObj v.num) = 0 ∧ t.arrays = s.arrays ∧ (∀ u, u ≠ v.num → t.strand u = s.strand u) ∧
        ∀ p x, p < 1024 → (s.page v.cl.num p).valid = true → (s.page v.cl.num p).strand = stOf v.num →
          (t.page v.cl.num p).valid = false ∧ (x < 4096 → Mem.read t.sram (sramAt v.cl.num (4096 * p + x)) = 0))

/-- A DMA between accessible ranges of SRAM with good parity leaves the queue, its bytes stand at the destination and its
notify object counts one; a DATA or REDUCE message that may land leaves the network, and in a declared window with
room its unpacked bytes stand at the window's offset plus 65,536 times its part; one for an undeclared channel only
counts; a header of an unknown type counts and is discarded; a replay counts at its segment or link and poisons
exactly the words that failed again, of a message in flight or of a flit that waits at a merge point; a segment beyond
its threshold or that fails persistently is bypassed, a link beyond its threshold retired. (spec/06_cluster_isa.md;
spec/07_die_network.md; spec/05_clusters.md) -/
def Obligations.DataOnTheDieNetwork : Prop :=
  ∀ (v : StrandId) (k waits : Nat) (d type : Fin 16) (g : Fin 400) (l : Fin 33) (what : ReplayOf) (bad : List Nat) (resent : Fin 257)
      (persists : Bool) (s : State),
    let u := v.num
    let c := v.cl.num
    (∀ q rest, s.dmaQueue u = q :: rest → SramCanonical s → 0 < q.len → q.src + q.len ≤ 0x280000 → q.dst + q.len ≤ 0x280000 →
      s.allows u (spanOf q.src q.len).1 (spanOf q.src q.len).2 → s.allows u (spanOf q.dst q.len).1 (spanOf q.dst q.len).2 →
      (∀ x, (spanOf q.src q.len).1 ≤ x → x < (spanOf q.src q.len).1 + (spanOf q.src q.len).2 →
        s.sramParity.mem (wordAt c x) = false) →
      Does (.dmaComplete v []) s fun t =>
        t.dmaQueue u = rest ∧ t.arrays = s.arrays ∧
        (∀ j, j < q.len → Mem.read t.sram (sramAt c q.dst + j) = Mem.read s.sram (sramAt c q.src + j)) ∧
        (∀ x, (x < sramAt c q.dst ∨ sramAt c q.dst + q.len ≤ x) → Mem.read t.sram x = Mem.read s.sram x) ∧
        (q.notify < 48 → s.owned c q.notify (stOf u) = true → t.syncVal c q.notify = s.syncVal c q.notify + 1)) ∧
    (∀ m : NetMsg, s.net[k]? = some m → m.type ≤ 2 → m.dst < 3072 → s.mayLand k m = true →
      (Store.get? (s.strand m.dst).chans m.chan = none →
        exec (.messageLand k 0) s = .next ((s.take k).bump (isaCnt (clOf m.dst) 2) 1)) ∧
      (∀ w, Store.get? (s.strand m.dst).chans m.chan = some w →
        let a := w.off + 0x10000 * m.part
        let n := 4 * m.unpacked.length
        0x10000 * m.part + n ≤ w.len → 0 < n → a + n ≤ 0x280000 → SramCanonical s →
        (∀ x, (spanOf a n).1 ≤ x → x < (spanOf a n).1 + (spanOf a n).2 → s.landOk m.dst m.tenant x = true) →
        Does (.messageLand k waits) s fun t =>
          t.net = s.net.eraseIdx k ∧ t.arrays = s.arrays ∧
          (∀ j, j < n → Mem.read t.sram (sramAt (clOf m.dst) a + j) =
            ((m.unpacked.flatMap PWord.bytes).getD j (0, false)).1) ∧
          (w.notify < 48 → s.owned (clOf m.dst) w.notify (stOf m.dst) = true →
            t.syncVal (clOf m.dst) w.notify = s.syncVal (clOf m.dst) w.notify + 1))) ∧
    (11 ≤ type.val → exec (.badHeaders d type) s = .next (s.bump ⟨0x3052 + 0x100 * d.val, 9, 0⟩ 1)) ∧
    (let again (old new : List PWord) : Prop := new.length = old.length ∧ ∀ i, i < old.length →
       new.getD i PWord.zero = ⟨(old.getD i PWord.zero).val, (old.getD i PWord.zero).poison || bad.contains i⟩
     let words (t : State) : Prop := SameDies s t ∧
       (∀ k, what = .message k → ∀ m, s.net[k]? = some m → ∃ m' : NetMsg, t.net[k]? = some m' ∧ again m.payload m'.payload) ∧
       (∀ j r i x f, what = .part j r i x f → ∀ h, (s.merge j r i).held x f = some h →
         ∃ h', (t.merge j r i).held x f = some h' ∧ again h.2 h'.2)
     let seg := Store.get 0 s.segReplays (400 * d.val + g.val) + 1
     let lnk := Store.get 0 s.linkReplays l.val + 1
     let away := persists = true ∨ s.reg ⟨0x3053 + 0x100 * d.val, 2, 0⟩ < seg
     (¬ away → Does (.flitReplay d g none what ⟨bad, resent, persists⟩) s fun t =>
       words t ∧ Store.get 0 t.segReplays (400 * d.val + g.val) = seg) ∧
     (away → s.bypassed d.val (g.val / 100) (g.val % 100) = false →
       Does (.flitReplay d g none what ⟨bad, resent, persists⟩) s fun t => t.reg ⟨0x3051 + 0x100 * d.val, 1, g.val⟩ = 1) ∧
     (lnk ≤ s.reg Od.LINK_RETIRE_THRESHOLD → Does (.flitReplay d g (some l) what ⟨bad, resent, persists⟩) s fun t =>
       words t ∧ Store.get 0 t.linkReplays l.val = lnk ∧ t.reg (Od.LINK_STATE l.val) = s.reg (Od.LINK_STATE l.val)) ∧
     (s.reg Od.LINK_RETIRE_THRESHOLD < lnk → s.linkUp l.val = true →
       Does (.flitReplay d g (some l) what ⟨bad, resent, persists⟩) s fun t => t.reg (Od.LINK_STATE l.val) = 3))

/-- An UP link without an acknowledgement for its time trains again, and at the third time in a window retires; every
BOUND or ENABLED job whose routes cross it goes to ENDING; a link whose training ends well in time is UP and otherwise
RETIRED; a write of 1 to LINK_RETRAIN of a link that is DOWN or RETIRED starts its training, a write of 0 changes
nothing, and one for a link in TRAINING or UP is refused with WRONG_STATE. At a merge point of this module where every
input has the flit due, the forward adds the inputs' words of the flit left to right in the fixed order and counts one
merge, and short of the message's last flit the sum joins what has been forwarded; with the last flit the message goes
on; where an input's flit is missing past the merge timeout, the point forwards the sum of what it holds with every
word poisoned, counts the timeout, and so does every later flit of the message. sumWords, reduceFlit and mergeDone are
the model's operations of R177 and R178. (spec/07_die_network.md; spec/20_package_bringup.md) -/
def Obligations.LinksAndMergePoints : Prop :=
  (∀ (l : Fin 33) (ok : Bool) (n : Nat) (s : State),
    let st := s.reg (Od.LINK_STATE l.val)
    (s.linkUp l.val = true →
      Does (.linkAckTimeout l) s fun t =>
        t.reg (Od.LINK_STATE l.val) = (if Store.get 0 s.linkDowns l.val < 2 then 1 else 3) ∧
        (Store.get 0 s.linkDowns l.val < 2 → Store.get 0 t.linkTrainAt l.val = s.now) ∧
        ∀ j, j ∈ linkJobs s l.val → t.jobState j = JS.ENDING) ∧
    (s.linkUp l.val = false → exec (.linkAckTimeout l) s = .next s) ∧
    (st = 1 → Does (.linkTrainingDone l ok) s fun t =>
      t.reg (Od.LINK_STATE l.val) = if ok && (s.reg Od.RECOVERY_STATE == 1 ||
        decide (s.now ≤ Store.get 0 s.linkTrainAt l.val + 212500)) then 2 else 3) ∧
    (Writes s n (s.isOp n) →
      (st = 1 ∨ st = 2 → exec (.linkRetrain n l true) s = .next (s.answers ⟨Code.WRONG_STATE, st, []⟩)) ∧
      (st ≠ 1 → st ≠ 2 → exec (.linkRetrain n l true) s = .next
        { s.setReg (Od.LINK_STATE l.val) 1 with linkTrainAt := Store.set s.linkTrainAt l.val s.now }.ok) ∧
      exec (.linkRetrain n l false) s = .next s.ok)) ∧
  (∀ (j rgid i : Nat) (g : Group) (p : MergePt) (s : State), s.group j rgid = some g → g.points[i]? = some p →
    p.mod = s.coord →
    let r := s.merge j rgid i
    let held := p.inputs.filterMap fun x => r.held x.src r.flit
    let ins := held.map Prod.snd
    let sum := sumWords g.fp ins
    let dark := sum.1.map fun w => PWord.mk w.val true
    let counted := (let s := s.bump (p.cnt 5) 1
      if sum.2 = 0 then s else s.bump (p.cnt 7) sum.2)
    (r.late = false → ins.length = p.inputs.length → ins ≠ [] →
      ((r.out ++ sum.1).length < g.len / 4 → Does (.mergeForward j rgid i) s fun t =>
        t.merge j rgid i = { r with flit := r.flit + 1, out := r.out ++ sum.1 } ∧ t.net = s.net ∧ t.regs = counted.regs ∧
          SameDies s t) ∧
      (g.len / 4 ≤ (r.out ++ sum.1).length → exec (.mergeForward j rgid i) s = .next
        ((counted.reduceFlit j g (0x1000000 + i) r.flit sum.1).mergeDone j g i
          { r with flit := r.flit + 1, out := r.out ++ sum.1 }))) ∧
    (r.late = true → ins ≠ [] → (r.out ++ dark).length < g.len / 4 → Does (.mergeForward j rgid i) s fun t =>
      t.merge j rgid i = { r with flit := r.flit + 1, out := r.out ++ dark } ∧ t.net = s.net ∧ SameDies s t) ∧
    (r.late = false → held ≠ [] → held.length < p.inputs.length →
      held.foldl (fun a h => Nat.min a h.1) 0xFFFFFFFFFFFFFFFF + s.reg ⟨0x3053 + 0x100 * (p.node / 128), 1, 0⟩ + s.grace <
        s.jobNow j →
      Does (.mergeTimeout j rgid i) s fun t => SameDies s t ∧ t.jobs = s.jobs ∧
        (∃ f ∈ t.faults, f.kind = 0xC ∧ f.die = p.node / 128 ∧ f.unit = p.node % 128) ∧
        ((r.out ++ dark).length < g.len / 4 →
          t.merge j rgid i = { r with late := true, flit := r.flit + 1, out := r.out ++ dark })))

/-- A SYNC_ADD, ARRIVE, RELEASE, ORPHAN or CONTROL message on the network reaches its sync block in turn: an addition to
an object that its strand owns and its tenant matches updates the object; an arrival or a release at a node takes
effect at the node, a release is forwarded with its GEN, and at no node, or of an operation that has no name, it is
dropped and counted; an orphan from HB for the strand's job ends the job, another one is dropped and counted; a freeze
is noted, a resume sets a FROZEN strand RUNNING, a cancel waits for the tokens in flight. The ballast floor, the lent
allowance, the forced value and node of a strand in DEBUG, and the idle-gap offer do what the file of synchronization
states. (spec/10_synchronization.md; spec/05_clusters.md; spec/08_program_contract.md; spec/04_formats.md;
spec/11_serving.md) -/
def Obligations.SyncMessages : Prop :=
  ∀ (k n : Nat) (u : StrandId) (c : ClusterId) (b : Fin 48) (w : Word) (s : State),
    (∀ m, s.control? k 3 0 = some m →
      (s.inOrder k m = true → exec (.syncAdd k) s = .next (
        if s.syncAccepts m then (s.take k).syncUpdate (clOf m.dst) m.obj (s.syncVal (clOf m.dst) m.obj + m.value)
        else (s.take k).syncDiscard m)) ∧
      (s.inOrder k m = false → exec (.syncAdd k) s = .next s)) ∧
    (∀ m, s.control? k 4 0 = some m → exec (.arrive k) s = .next (
      if s.syncAccepts m && (s.node (clOf m.dst) m.obj).isSome then (s.take k).arriveAt m.dst m.obj
      else (s.take k).bump (syCnt (clOf m.dst) 3) 1)) ∧
    (∀ m, s.strayOp k = some m → exec (.arrive k) s = .next ((s.take k).bump (syCnt (clOf m.dst) 3) 1)) ∧
    (∀ m, s.control? k 4 1 = some m → exec (.release k) s = .next (
      match s.node (clOf m.dst) m.obj with
      | some d => if s.syncAccepts m then (s.take k).release m.dst m.obj d.children m.value
        else (s.take k).bump (syCnt (clOf m.dst) 3) 1
      | none => (s.take k).bump (syCnt (clOf m.dst) 3) 1)) ∧
    (∀ m, s.control? k 4 2 = some m →
      let mine := m.src = 0x10000 + HB ∧ s.strandJob m.dst = m.job ∧ (s.strand m.dst).tenant = m.tenant
      (mine → Does (.orphan k) s fun t =>
        (s.jobState m.job = JS.BOUND ∨ s.jobState m.job = JS.ENABLED → t.jobState m.job = JS.ENDING)) ∧
      (¬ mine → exec (.orphan k) s = .next ((s.take k).bump (syCnt (clOf m.dst) 3) 1))) ∧
    (∀ m, s.control? k 6 0 = some m →
      (m.op = 1 → (s.strandState m.dst = SS.RUNNING ∨ s.strandState m.dst = SS.HELD) →
        exec (.control k) s = .next ((s.take k).modStrand m.dst fun t => { t with freezeReq := true })) ∧
      (m.op = 2 → s.strandState m.dst = SS.FROZEN → Does (.control k) s fun t =>
        t.reg (ssObj m.dst) = SS.RUNNING ∧ SameDies s t ∧ t.net = s.net.eraseIdx k) ∧
      (m.op = 6 → s.tokensInFlight m.value.toNat = true → exec (.control k) s = .next s) ∧
      (m.op = 7 → Does (.control k) s fun t => t.net = s.net.eraseIdx k ∧
        t.strand m.dst = { s.strand m.dst with floors := Store.set (s.strand m.dst).floors m.srcMod m.value.toInt })) ∧
    (s.strandJob u.num ≠ 0 → exec (.ballastFloorUpdate (.here u)) s = .next (s.modStrand u.num fun t =>
      { t with floors := Store.set t.floors s.coord (s.floorOf (s.strandJob u.num)) })) ∧
    (∀ j r, s.jobState j = JS.ENABLED → r < (s.job j).ranks.length → (s.place j r).coord ≠ s.coord →
      exec (.ballastFloorUpdate (.far j r)) s = .next (s.sendFloor j r none)) ∧
    (s.reg (Od.ALLOW_LEND_EN c.die.val) = 1 → (s.cluster c.num).lent = false → 425 ≤ s.ticks - (s.cluster c.num).idleFrom →
      s.arraysQuiet c.num = true → s.lendIdle (2 * c.num) = true → s.lendIdle (2 * c.num + 1) = true →
      Does (.allowanceLend c) s fun t => (t.cluster c.num).lent = true ∧ SameDies s t) ∧
    (∀ o, Writes s n (s.mayForce n c.num b.val) → s.ownerOf c.num b.val = some o → s.strandState o = SS.DEBUG →
      exec (.syncValue n c b w) s = .next (s.syncUpdate c.num b.val w).ok ∧
      (∀ d, s.node c.num b.val = some d →
        exec (.nodeForce n c b true) s = .next (s.nodeComplete o b.val d).ok) ∧
      exec (.nodeForce n c b false) s = .next s.ok) ∧
    ((∃ b, (s.strand u.num).stall = some (.tick b)) ∨ (∃ o e g, (s.strand u.num).stall = some (.sync o e g false)) →
      (s.strand u.num).deadline = none → (s.strand u.num).idleOffered = false →
      (s.strand u.num).stallSince + 213 ≤ s.now → s.strandState u.num ≠ SS.EMPTY →
      exec (.idleGap u) s = .next (s.modStrand u.num fun t => { t with idleOffered := true }))

/-- A tick adds 1 to the sidereal count, and one more or one less where a slew was made in the tick before; while the
reference is present no array changes with it, and no byte of SRAM unless an adapter generation is over or a version
is LOADING; a slew that is due is made once, at the half of a beacon interval; a root in FREE takes its count from
PTP, 17 ticks in 80 ns, and is LOCKED; a root whose count is set sends it, itself as the root and hop 1 out of every
UP port at each multiple of 2^16, with ROOT_HOLDOVER while it is in HOLDOVER, and holds PTP's difference; another
module that receives a beacon at its upstream port takes root, hops and error, and in LOCKED leaves the count alone:
with an error of at most 1 tick nothing is slewed, with one up to 64 ticks a slew of one tick is due; four missing
intervals take LOCKED to HOLDOVER; LOST returns to ACQUIRING once no job that spans modules is left. That a root sends
from the setting of its count on is the model's choice (log entry 119). A HOLD record of another module of the job
sets what this module holds of its offset, expanded from the short form, and the start and end of its hold; a PEER
request sets the offset where no hold of the peer is held, and raises one open hold request with cause 5 where none is
held, while the peer stays behind; an elastic buffer releases a message once the job time has reached its stamp, and
the message enters the die network; the ceiling of another module's die is noted, and a report of the module's own
goes to the other leads. What a peer's offset is while its hold is open is the model's choice (log entry 118).
(spec/09_sidereal_time.md; spec/14_host_port.md; spec/10_synchronization.md; spec/15_fabric.md) -/
def Obligations.SiderealCount : Prop :=
  (∀ (p : Fin 6) (cnt : BitVec 64) (root : Fin 0x1000000) (hops : Fin 256) (seq : Word) (flags : Byte) (off : BitVec 16)
      (s : State),
    Does .siderealTick s (fun t => t.count = s.count + 1 + BitVec.ofInt 64 s.sync.step ∧ t.ticks = s.ticks + 1 ∧
      t.sync.step = 0 ∧ (s.refHold = none → t.arrays = s.arrays) ∧
      ((∀ e, (Store.get Adapter.new s.adapters e).gens.any AdGen.over = false) → (∀ e, s.verState e ≠ VS.LOADING) →
        t.sram = s.sram)) ∧
    (s.now % 0x10000 = 0x8000 → s.sync.slew ≠ 0 → Does .slew s fun t =>
      t.count = s.count ∧ t.sync.step = s.sync.slew ∧ t.sync.slew = 0 ∧ SameDies s t) ∧
    (s.isRoot = true → s.syncState = SY.FREE → ∀ b : BitVec 64, Does (.ptpTimeValid b) s fun t =>
      t.count = BitVec.ofNat 64 (b.toNat * 17 / 80) ∧ t.syncState = SY.LOCKED ∧ SameDies s t) ∧
    (s.isRoot = true → s.syncState ≠ SY.FREE → s.now % 0x10000 = 0 →
      (Does (.beaconSend none) s fun t => t.count = s.count ∧ SameDies s t ∧
        t.notices = s.notices ++ s.upPorts.map fun q => ⟨s.reg (Od.NEIGHBOUR_COORD q), 9,
          [q, s.now, s.coord, 1, s.now / 0x10000 % 0x100000000, if s.syncState = SY.HOLDOVER then 2 else 0, 0]⟩) ∧
      ∀ b : BitVec 64, Does (.beaconSend (some b)) s fun t => t.count = s.count ∧ SameDies s t ∧
        t.reg Od.PTP_OFFSET_NS = unsigned32 ((s.now * 80 / 17 : Nat) - (b.toNat : Int))) ∧
    (let e : Int := (cnt.toNat : Int) * 256 + off.toInt + s.delay256 p.val - (s.now : Int) * 256
     s.isRoot = false → (upstreamPort s.coord root.val = some p.val) → s.sync.alt = none → s.reg (Od.PORT_STATE p.val) = 2 →
      s.syncState = SY.LOCKED → e.natAbs ≤ 64 * 256 → Does (.beacon p cnt root hops seq flags off) s fun t =>
        t.count = s.count ∧ t.reg Od.ROOT_COORD = root.val ∧ t.reg Od.BEACON_HOPS = hops.val ∧
        t.reg Od.BEACON_OFFSET = unsigned32 e ∧ t.sync.lastBeacon = s.now ∧ t.syncState = SY.LOCKED ∧ SameDies s t ∧
        t.sync.slew = if e.natAbs ≤ 256 then s.sync.slew else if 0 < e then 1 else -1) ∧
    (s.isRoot = false → 1 ≤ s.syncState → s.syncState ≤ 3 → s.sync.lastBeacon + 0x40000 ≤ s.now →
      Does .beaconTimeout s fun t => t.sync.good = 0 ∧ SameDies s t ∧
        t.syncState = if s.syncState = SY.LOCKED then SY.HOLDOVER else s.syncState) ∧
    (s.syncState = SY.LOST → (s.jobs.any fun (e : Nat × Job) => s.spans e.1 && s.jobState e.1 != JS.NONE) = false →
      Does .syncReacquire s fun t => t.syncState = SY.ACQUIRING ∧ t.sync.reload = true ∧ t.count = s.count ∧ SameDies s t)) ∧
  (∀ (j m cause k c : Nat) (b e off : Word) (d : Fin 16) (s : State),
    let peer := expand32 (Store.get 0 (s.job j).peers m) off.toNat
    ((s.jobModules j).contains m = true → m ≠ s.coord →
      Does (.holdRecord j m cause ⟨b, e, off⟩) s (fun t => Store.get 0 (t.job j).peers m = peer ∧ SameDies s t ∧ t.count = s.count ∧
        t.reg (Od.JOB_HOLD_OFFSET j) = s.reg (Od.JOB_HOLD_OFFSET j) ∧
        t.reg (Od.JOB_LAG j) = Nat.max (s.reg (Od.JOB_LAG j)) peer ∧
        (e = 0 → Store.get? (t.job j).peerHolds m = some (expand32 s.now b.toNat, 0)) ∧
        (e ≠ 0 → s.now < expand32 s.now e.toNat →
          Store.get? (t.job j).peerHolds m = some (expand32 s.now b.toNat, expand32 s.now e.toNat))) ∧
      (s.jobState j = JS.ENABLED → (s.job j).peerHold = none → Store.get? (s.job j).peerHolds m = none →
        s.reg (Od.JOB_HOLD_OFFSET j) + s.reg Od.PEER_THRESHOLD < peer → Does (.peerHoldRequest j m off) s fun t =>
          Store.get 0 (t.job j).peers m = peer ∧ (t.job j).peerHold = some m ∧
          (t.job j).reqs = (s.job j).reqs ++ [⟨none, 5, none, s.now, none, false⟩] ∧ SameDies s t)) ∧
    (∀ e, (s.job j).elastic[k]? = some e → e.release ≤ s.jobNow j →
      (¬ (e.msg.msg.type = 1 ∨ e.msg.msg.type = 2) → e.msg.msg.type < 11 → Does (.elasticRelease j k) s fun t =>
        (∃ h, t.net = s.net ++ [{ e.msg.msg with how := h }] ∧ h.left = 0 ∧ h.len = e.msg.msg.how.len) ∧
        (t.job j).elastic = (s.job j).elastic.eraseIdx k ∧ SameDies s t) ∧
      Does (.elasticRelease j k) s fun t => (t.job j).elastic = (s.job j).elastic.eraseIdx k ∧ SameDies s t) ∧
    (∀ e, (s.job j).elastic[k]? = some e → s.jobNow j < e.release → exec (.elasticRelease j k) s = .next s) ∧
    (m ≠ s.coord → exec (.ceilingReport m d c) s = .next { s with peerCeil := Store.set s.peerCeil (16 * m + d.val) c }) ∧
    Does (.ceilingReport s.coord d c) s (fun t => t = { s with notices := t.notices, regs := t.regs, ports := t.ports } ∧
      ∀ i, s.spans i = true → (∃ e ∈ s.jobs, e.1 = i) → s.leadOf i ≠ s.coord →
        (⟨s.leadOf i, 11, [d.val, s.reg (Od.CEILING_NOW d.val)]⟩ : Notice) ∈ t.notices))

/-- A well-formed, authentic, fresh message of an open session whose SEQ stands next within the credit: its
acknowledgement fields are taken, an acknowledgement is due, HB executes the message by its class and kind, and then
the messages that wait behind it. ACK, NACK and KEEPALIVE carry acknowledgement fields only. A message of an unknown
version, class or kind, or with a wrong LEN, is answered with NACK and BAD_MESSAGE; one that fails its tag or repeats
a TXN is only counted; a repeated SEQ is counted and acknowledged again. Where firmware has stopped, the port itself
notes an authentic operator message whose first entry resets the module. (spec/14_host_port.md;
spec/17_reliability.md) -/
def Obligations.MessageDelivery : Prop :=
  ∀ (h : MbtHdr) (b : List Byte) (found : List Found) (s : State),
    let n := h.session.toNat
    let a := s.arrived h
    let m (cls kind : Nat) : InMsg := inMsg h cls kind b []
    (s.nextIn h b →
      exec (.submitParams h b) s = .next ((a.onParams n (m 1 0)).follow n) ∧
      exec (.submitPrompt h b) s = .next ((a.onPrompt n (m 1 1)).follow n) ∧
      exec (.loadImage h b) s = .next ((a.onImage n (m 5 0)).follow n) ∧
      exec (.loadManifest h b) s = .next ((a.onManifest n (m 5 1)).follow n) ∧
      exec (.loadWeights h b) s = .next ((a.onWeights n (m 5 2)).follow n) ∧
      exec (.loadAdapter h b) s = .next ((a.onAdapter n (m 5 3)).follow n) ∧
      exec (.prefixPut h b) s = .next ((a.onPut n (m 6 0)).follow n) ∧
      exec (.prefixExport h b) s = .next ((a.onExport n (m 6 1)).follow n) ∧
      exec (.prefixImport h b) s = .next ((a.onImport n (m 6 2)).follow n) ∧
      exec (.kvput h b) s = .next ((a.onKvput n (m 7 0)).follow n) ∧
      exec (.odMessage h b found) s = .next ((a.onOd n (inMsg h 8 0 b found) found).closeAll.follow n) ∧
      exec (.ackDone h b) s = .next (a.follow n) ∧
      Does (.closeSession h b) s fun t => t = a.endSession n none ∧ (t.session n).isOpen = false) ∧
    (s.authentic h b → exec (.transportAck h b) s = .next (s.acked h) ∧ exec (.nack h b) s = .next (s.acked h) ∧
      exec (.keepalive h b) s = .next (s.acked h)) ∧
    (s.silent = false → s.bring.rescue = false → (s.session n).isOpen = true →
      (h.tagOk = false ∨ (s.session n).fresh h.txn.toNat = false →
        exec (.submitParams h b) s = .next (s.frame.bump Od.TAG_FAILS 1) ∧
        exec (.odMessage h b found) s = .next (s.frame.bump Od.TAG_FAILS 1)) ∧
      (h.tagOk = true → (s.session n).fresh h.txn.toNat = true →
        let heard := s.frame.setSession n ((s.session n).heard h.txn.toNat h.peer.toNat s.now)
        exec (.unknownMessage h) s = .next (heard.nack n Code.BAD_MESSAGE h.ctx.toNat h.reqId.toNat) ∧
        (h.lenOk = false → exec (.submitParams h b) s = .next (heard.nack n Code.BAD_MESSAGE h.ctx.toNat h.reqId.toNat)))) ∧
    (s.authentic h b → ((s.acked h).session n).isOpen = true →
      (serialBelow h.seq.toNat ((s.acked h).session n).rxNext = true →
        exec (.submitParams h b) s = .next (((s.acked h).bump Od.MBT_DUPLICATES 1).modSession n fun t =>
          { t with ackDue := some (t.ackDue.getD s.now) }))) ∧
    (s.phTakes h b = true → exec (.odMessage h b found) s =
      .next { s with bring := { s.bring with phReset := some (s.now + 212500) } })

/-- An OPEN of 1,636 bytes for session FFFFh at a module that boots no more: with good credentials and a free session the
lowest free one opens, with the tenant of the OPEN or none for the operator, SESSIONS_OPEN counts it, and an answer
leaves; with bad credentials it is refused with AUTH_FAIL and AUTH_FAILS counts it; in a lockout it is refused without
a check, and while leaving with WRONG_STATE. The session numbers are given lowest first by the model's choice (log
entry 59). (spec/14_host_port.md; spec/19_security.md) -/
def Obligations.SessionsOpen : Prop :=
  ∀ (h : MbtHdr) (b : List Byte) (mgmt ok : Bool) (s : State), s.silent = false → s.bring.rescue = false →
    5 ≤ s.reg Od.BOOT_STAGE → b.length = 1636 → h.session.toNat = 0xFFFF → h.lenOk = true →
    let key := openKey b
    (s.reg Od.MODULE_STATE = MS.LEAVING →
      exec (.openSession h b mgmt ok) s = .next (s.frame.refuseOpen h mgmt Code.WRONG_STATE)) ∧
    (s.reg Od.MODULE_STATE ≠ MS.LEAVING →
      (s.lockedOut key = true →
        exec (.openSession h b mgmt ok) s = .next ((s.frame.bump Od.AUTH_FAILS 1).refuseOpen h mgmt Code.AUTH_FAIL)) ∧
      (s.lockedOut key = false → s.openOk b mgmt ok = false →
        exec (.openSession h b mgmt ok) s = .next ((s.frame.openFailed key).refuseOpen h mgmt Code.AUTH_FAIL)) ∧
      (s.lockedOut key = false → s.openOk b mgmt ok = true →
        (s.freeSession = none → exec (.openSession h b mgmt ok) s = .next (s.frame.refuseOpen h mgmt Code.SLOT_FULL)) ∧
        (∀ n, s.freeSession = some n → Does (.openSession h b mgmt ok) s fun t =>
          (t.session n).isOpen = true ∧ (t.session n).tenant = (if be b 0 1 = 0 then some (be b 2 2) else none) ∧
          (t.session n).protect = (be b 1 1 == 1) ∧ (t.session n).peer = h.peer.toNat ∧ (t.session n).lastRx = s.now ∧
          t.reg Od.SESSIONS_OPEN = s.reg Od.SESSIONS_OPEN + 1 ∧ SameDies s t ∧
          ∀ k, k ≠ n → t.session k = s.session k)))

/-- A message that stays unacknowledged for its timeout leaves again, and after the last try its session ends; a delayed
acknowledgement leaves once its time has come; a session on which nothing left for KEEPALIVE_TICKS sends KEEPALIVE; a
session that heard nothing for SESSION_TIMEOUT ticks ends; a slice of the protocol engine serves one waiting session
of the first class that has one, the third class before the others in every sixteenth slice. While the port is up, a
frame of an unsupported kind is counted and discarded; a PFC frame pauses or releases every enabled priority that it
names; an ESMC frame sets SYNCE_QL; a PTP announcement of the domain on the PTP VLAN sets at a root whether time is
traceable, another PTP frame on it is only counted; an ARP request or a neighbour solicitation for an own address of
its VLAN is answered, and another is counted and discarded; the link state follows the link. A silent quality level
counts as DNU after 5 s, a DNU frame leaves each second, and an expired pause releases the frames it held. While the
port is down, none of them changes anything. (spec/14_host_port.md) -/
def Obligations.FramesAndTimers : Prop :=
  (∀ (n : Nat) (seq : Word) (s : State), s.silent = false →
    let t := s.session n
    (∀ u, t.unacked.find? (fun (u : Unacked) => u.msg.seq == seq.toNat) = some u → u.sent + u.rto ≤ s.now →
      exec (.rtoExpiry n seq) s = .next (s.retransmit n seq.toNat false) ∧
      (t.isOpen = true → s.reg Od.RETX_MAX ≤ u.tries → Does (.rtoExpiry n seq) s fun r => (r.session n).isOpen = false) ∧
      (u.tries < s.reg Od.RETX_MAX → u.msg.session = n → Does (.rtoExpiry n seq) s fun r => SameDies s r ∧
        (∀ k, k ≠ n → r.session k = s.session k) ∧ ∃ v ∈ (r.session n).unacked, v.msg = u.msg ∧ v.sent = s.now ∧
          v.tries = u.tries + 1 ∧ v.rto = Nat.min (2 * u.rto) (64 * s.reg Od.RTO_MIN_TICKS))) ∧
    (∀ d, t.ackDue = some d → d + s.reg Od.ACK_DELAY_TICKS ≤ s.now → Does (.ackDelayExpiry n) s fun r =>
      (r.session n).ackDue = none ∧ SameDies s r ∧ r.wire.length + r.txHeld.length = s.wire.length + s.txHeld.length + 1) ∧
    (t.isOpen = true → t.lastTx + s.reg Od.KEEPALIVE_TICKS ≤ s.now → Does (.keepaliveTicks n) s fun r =>
      (r.session n).lastTx = s.now ∧ SameDies s r ∧ r.wire.length + r.txHeld.length = s.wire.length + s.txHeld.length + 1) ∧
    (t.isOpen = true → t.lastRx + s.reg Od.SESSION_TIMEOUT < s.now → Does (.sessionTimeout n) s fun r =>
      (r.session n).isOpen = false ∧ SameDies s r) ∧
    (let i := s.engineSlices + 1
     let turn (c : Nat) : Option (Nat × Nat) := (s.turn c).map fun n => (c, n)
     let first := if i % 16 = 0 then (turn 2).or ((turn 0).or (turn 1)) else (turn 0).or ((turn 1).or (turn 2))
     exec .protocolEngineSlice s = .next (match first with
       | some q => { s with engineSlices := i }.serve q.1 q.2
       | none => { s with engineSlices := i }))) ∧
  (∀ (enable : Byte) (quanta : List (BitVec 16)) (ql : Fin 16) (vlan domain : Nat) (b : Bool) (ip : BitVec 32) (ip6 : BitVec 128)
      (v : Fin 4) (p : Fin 8) (s : State),
    (s.portUp = true →
      exec .unsupportedFrame s = .next s.discardFrame ∧
      exec (.pfcFrame enable quanta) s = .next (forAll ((List.range 8).filter fun p => enable.getLsbD p &&
        (s.reg Od.PFC_ENABLE).testBit p) s.frame fun s p => if (quanta.getD p 0).toNat = 0 then s.unpause p
          else { s with pfc := Store.set s.pfc p (s.now + pauseTicks (quanta.getD p 0).toNat) }) ∧
      exec (.esmcFrame ql) s = .next { s.frame.setReg Od.SYNCE_QL ql.val with esmcAt := s.now } ∧
      (s.isRoot = true → vlan = s.reg Od.PTP_VLAN → domain = s.reg Od.PTP_DOMAIN →
        exec (.ptpFrame vlan domain (some b)) s = .next { s.frame with sync := { s.sync with ptpTraceable := b } }) ∧
      (s.isRoot = true → vlan ≠ s.reg Od.PTP_VLAN → ∀ a, exec (.ptpFrame vlan domain a) s = .next s.discardFrame) ∧
      (s.isRoot = false → ∀ a, exec (.ptpFrame vlan domain a) s = .next s.frame) ∧
      (vlan = s.reg Od.PTP_VLAN → exec (.ptpFrame vlan domain none) s = .next s.frame) ∧
      (vlan = s.reg Od.PTP_VLAN → domain ≠ s.reg Od.PTP_DOMAIN → exec (.ptpFrame vlan domain (some b)) s = .next s.frame) ∧
      (ip ≠ 0 → s.ownAddr vlan Od.SERVICE_IPV4 Od.MGMT_IPV4 = ip.toNat →
        exec (.arpRequest vlan ip) s = .next (s.frame.putFrame (.arpReply vlan ip.toNat))) ∧
      (s.ownAddr vlan Od.SERVICE_IPV4 Od.MGMT_IPV4 ≠ ip.toNat → exec (.arpRequest vlan ip) s = .next s.discardFrame) ∧
      (ip6 ≠ 0 → s.ownAddr vlan Od.SERVICE_IPV6 Od.MGMT_IPV6 = ip6.toNat →
        exec (.ipv6Nd vlan ip6) s = .next (s.frame.putFrame (.neighbourAdvert vlan ip6.toNat))) ∧
      (s.ownAddr vlan Od.SERVICE_IPV6 Od.MGMT_IPV6 ≠ ip6.toNat → exec (.ipv6Nd vlan ip6) s = .next s.discardFrame) ∧
      exec (.hostLinkChange v) s = .next (s.setReg Od.HOST_LINK_STATE v.val) ∧
      (s.esmcAt + 1062500000 < s.now → exec .esmcTimeout s = .next (s.setReg Od.SYNCE_QL 15)) ∧
      (s.now ≤ s.esmcAt + 1062500000 → exec .esmcTimeout s = .next s) ∧
      (s.esmcTx + 212500000 ≤ s.now → exec .esmcQlDnuSend s = .next { s.putFrame .esmcDnu with esmcTx := s.now })) ∧
    (∀ t, Store.get? s.pfc p.val = some t → t ≤ s.now → Does (.pfcPauseExpiry p) s fun r =>
      r.wire = s.wire ++ s.txHeld.filter (fun (w : Wire) => w.pcp == p.val) ∧
      r.txHeld = s.txHeld.filter (fun (w : Wire) => w.pcp != p.val) ∧ r.sessions = s.sessions ∧ SameDies s r) ∧
    (s.portUp = false → exec .unsupportedFrame s = .next s ∧ exec (.pfcFrame enable quanta) s = .next s ∧
      exec (.esmcFrame ql) s = .next s ∧ exec (.hostLinkChange v) s = .next s ∧ exec (.arpRequest vlan ip) s = .next s))

/-- An entry of a session that is heard is checked in the order of Table OD-7 and reports the first check that fails,
changing nothing else: the address, the session's reach, the access class, the written length, the governing enable,
the range. A READ that passes answers the object's value. DESCRIBE uses only the first check, and NEXT never fails.
(R379) -/
def Obligations.ObjectEntryChecks : Prop :=
  ∀ (n : Nat) (f : Found) (i : BitVec 16) (b : Byte) (val : List Byte) (s : State),
    s.hears n = true → s.zenithBars n 2 = false → s.zenithBars n 1 = false → s.bring.closing = none →
    let idx := i.toNat
    let sub := b.toNat
    let refuses (c : Instr) (code : Nat) : Prop := exec c s = .next (s.answers ⟨code, 0xFF, []⟩)
    (Od.implemented idx sub = false → refuses (.odRead n i b) Code.MISSING_OBJECT ∧
      refuses (.odWrite n f i b val) Code.MISSING_OBJECT ∧ refuses (.odDescribe n i b) Code.MISSING_OBJECT) ∧
    (Od.implemented idx sub = true →
      exec (.odDescribe n i b) s = .next (s.answers ⟨0, 0xFF, Od.descriptor idx sub⟩) ∧
      (s.reaches n idx sub false = false → refuses (.odRead n i b) Code.AUTH_FAIL) ∧
      (s.reaches n idx sub true = false → refuses (.odWrite n f i b val) Code.AUTH_FAIL) ∧
      ∀ r, Od.row? idx sub = some r →
        (s.reaches n idx sub false = true →
          (r.acc = .wo → refuses (.odRead n i b) Code.ACCESS_CONFLICT) ∧
          (r.acc ≠ .wo → exec (.odRead n i b) s = .next (s.answers (s.readObject n r (s.object n r idx))))) ∧
        (s.reaches n idx sub true = true →
          (r.acc = .ro → refuses (.odWrite n f i b val) Code.ACCESS_CONFLICT) ∧
          (r.acc ≠ .ro → val.length ≠ r.size → refuses (.odWrite n f i b val) Code.TYPE_CONFLICT) ∧
          (r.acc ≠ .ro → val.length = r.size → s.locked r (s.object n r idx) = true →
            refuses (.odWrite n f i b val) Code.LOCKED) ∧
          (r.acc ≠ .ro → val.length = r.size → s.locked r (s.object n r idx) = false →
            s.inRange r idx (leNat val) = false → refuses (.odWrite n f i b val) Code.RANGE_CONFLICT) ∧
          (r.acc ≠ .ro → val.length = r.size → s.locked r (s.object n r idx) = false →
            s.inRange r idx (leNat val) = true → s.reg Od.THERMAL_STATE ≠ 1 → s.reg Od.MODULE_STATE ≠ MS.LEAVING →
            let w := s.writeObject n f (s.object n r idx) val
            exec (.odWrite n f i b val) s = .next (w.1.closeAll.answers w.2)))) ∧
    (Od.implemented idx sub = true → Od.row? idx sub = none →
      (s.reaches n idx sub false = true → exec (.odRead n i b) s = .next (s.answers ⟨0, 0xFF, leBytes 1 (Od.maxSub idx)⟩)) ∧
      (s.reaches n idx sub true = true → refuses (.odWrite n f i b val) Code.ACCESS_CONFLICT)) ∧
    exec (.odNext n i b) s = .next (s.answers (nextAddress idx sub)) ∧ (nextAddress idx sub).status = 0

/-- PARAMS of 256 bytes with its class in FLAGS opens a submission, other PARAMS are refused with RANGE_CONFLICT; the
PROMPT message with LAST that completes its tokens runs the checks of admission: an admitted request takes the granted
context in ADMITTED with its job, tenant, request and prompt, and counts; a refused one counts in REFUSED and leaves
no context, strand, array or byte of SRAM changed. (MessageDelivery states that SUBMIT messages come to these
operations.) (spec/11_serving.md; spec/14_host_port.md) -/
def Obligations.SubmitAdmission : Prop :=
  ∀ (n : Nat) (m : InMsg) (b : List Byte) (id : Nat) (toks : List Word) (s : State),
    ((s.session n).submit = none → m.payload.length = 256 → ¬ (m.flags / 4 % 2 = 1 ↔ be m.payload 1 1 ≠ 0) →
      s.onParams n m = s.modSession n fun t => { t with submit := some (m.payload, m.reqId, []) }) ∧
    ((s.session n).submit = none → (m.payload.length ≠ 256 ∨ (m.flags / 4 % 2 = 1 ↔ be m.payload 1 1 ≠ 0)) →
      s.onParams n m = s.refuseSubmit n m Code.RANGE_CONFLICT) ∧
    ((s.session n).submit = some (b, id, toks) → (s.session n).isOpen = true → m.reqId = id →
      ¬ (m.flags / 4 % 2 = 1 ↔ be b 1 1 ≠ 0) → m.payload.length % 4 = 0 →
      let all := toks ++ beWords m.payload
      let p := Submit.parse b
      let u := s.modSession n fun t => { t with submit := none }
      (m.flags / 2 % 2 = 0 → all.length ≤ be b 44 4 →
        s.onPrompt n m = s.modSession n fun t => { t with submit := some (b, id, all) }) ∧
      (m.flags / 2 % 2 = 1 → all.length = be b 44 4 → (s.session n).txQueue.length < 256 →
        (∀ r, u.admission p (u.actor n) all = .inl r →
          let t := s.onPrompt n m
          t.ctxs = s.ctxs ∧ SameDies s t ∧ t.reg Od.CONTEXTS_IN_USE = s.reg Od.CONTEXTS_IN_USE) ∧
        (∀ g, u.admission p (u.actor n) all = .inr g → g.evict = [] →
          let t := s.onPrompt n m
          t.reg (Od.CTX_STATE g.ctx) = XS.ADMITTED ∧ t.reg (Od.CTX_JOB g.ctx) = p.job ∧
          t.reg (Od.CTX_TENANT g.ctx) = u.actor n ∧ t.reg (Od.CTX_SESSION g.ctx) = n ∧
          t.reg (Od.CTX_REQ_ID g.ctx) = id ∧ (t.ctx g.ctx).prompt = all ∧ (t.session n).submit = none ∧
          t.reg Od.CONTEXTS_IN_USE = s.reg Od.CONTEXTS_IN_USE + 1 ∧ t.sram = s.sram ∧ t.arrays = s.arrays)))

/-- A STREAM message of a serving job with the context's next index and no poison in its first words is delivered: after a
token the next index follows, a first one takes the context to DECODE and a final one to ENDING with its reason, a
token on time moves the deadline by the interval, and a late one sets the deadline to now plus the interval, notes the
breach of this tick with its cause, and sends the rebase to its sender; one for an unknown context, another index or
of fewer than 16 bytes is only counted. A step report of 16 to 256 bytes clears the step's precision mark and is
reported as an event, one of another length is counted; a poisoned one ends its job. An admission record that is due
lands, and the context goes from ADMITTED to PREFILL. Payloads are taken as unpacked. (spec/11_serving.md;
spec/09_sidereal_time.md; spec/17_reliability.md; spec/06_cluster_isa.md) -/
def Obligations.TokensDelivered : Prop :=
  ∀ (k : Nat) (m : NetMsg) (c : Fin 4096) (s : State),
    let o := m.opened
    (s.toHb k = some m → (s.job m.job).train = false →
      let x := o.word 0 % 0x10000
      let st := s.reg (Od.CTX_STATE x)
      let known := x < 4096 ∧ (st = XS.PREFILL ∨ st = XS.DECODE) ∧ s.reg (Od.CTX_JOB x) = m.job
      let d := s.reg (Od.CTX_NEXT_DEADLINE x)
      let fl := o.word 0 / 0x1000000
      (o.payload.length < 4 → exec (.stream k) s = .next ((s.take k).bump Od.STREAM_DISCARDS 1)) ∧
      (4 ≤ o.payload.length → (∀ i, i < 4 → (o.payload.getD i PWord.zero).poison = false) →
        (¬ known ∨ o.word 1 ≠ s.reg (Od.CTX_NEXT_INDEX x) →
          exec (.stream k) s = .next ((s.take k).bump Od.STREAM_DISCARDS 1)) ∧
        (known → o.word 1 = s.reg (Od.CTX_NEXT_INDEX x) →
          (s.session (s.reg (Od.CTX_SESSION x))).txQueue.length < 255 → Does (.stream k) s fun t =>
          SameDies s t ∧ (∃ l, t.net = s.net.eraseIdx k ++ l) ∧
          t.reg (Od.CTX_NEXT_INDEX x) = (if o.word 2 = 0xFFFFFFFF then o.word 1 else (o.word 1 + 1) % 0x100000000) ∧
          t.reg (Od.CTX_STATE x) = (if fl % 2 = 1 then XS.ENDING else XS.DECODE) ∧
          (fl % 2 = 1 → t.reg (Od.CTX_END x) = fl / 2 % 8) ∧
          (o.word 2 ≠ 0xFFFFFFFF → s.now ≤ d + s.grace → t.reg (Od.CTX_NEXT_DEADLINE x) = d + s.reg (Od.CTX_INTERVAL x) ∧
            (t.ctx x).breachDue = (s.ctx x).breachDue) ∧
          (o.word 2 ≠ 0xFFFFFFFF → d + s.grace < s.now → t.reg (Od.CTX_NEXT_DEADLINE x) = s.now + s.reg (Od.CTX_INTERVAL x) ∧
            (t.ctx x).breachDue = some ((s.ctx x).lateCause.1, (s.ctx x).lateCause.2, o.word 1, d, short32 s.now) ∧
            (m.srcMod = s.coord → ∃ q ∈ t.net, q.type = 6 ∧ q.op = 8 ∧ q.dst = m.src ∧ q.value.toNat = x))))) ∧
    (s.toHb k = some m → (s.job m.job).train = true →
      ((o.payload.any fun w => w.poison) = true → s.jobState m.job = JS.ENABLED → Does (.stepReport k) s fun t =>
        t.jobState m.job = JS.ENDING) ∧
      ((o.payload.any fun w => w.poison) = false → o.payload.length < 4 ∨ 64 < o.payload.length →
        exec (.stepReport k) s = .next ((s.take k).bump Od.STREAM_DISCARDS 1)) ∧
      ((o.payload.any fun w => w.poison) = false → 4 ≤ o.payload.length → o.payload.length ≤ 64 →
        Does (.stepReport k) s fun t => t.strand m.src = { s.strand m.src with stepPrecision := false } ∧
          (∀ u, u ≠ m.src → t.strand u = s.strand u) ∧ t.net = s.net.eraseIdx k ∧ t.sram = s.sram ∧ t.arrays = s.arrays)) ∧
    (s.reg (Od.CTX_STATE c.val) = XS.ADMITTED → (s.ctx c.val).landed = false →
      s.jobState (s.reg (Od.CTX_JOB c.val)) = JS.ENABLED →
      ((s.ctx c.val).waits = none ∨ s.pairRuns (s.reg (Od.CTX_JOB c.val)) = false) → Does (.admissionRecord c) s fun t =>
        t.reg (Od.CTX_STATE c.val) = XS.PREFILL ∧ (t.ctx c.val).landed = true ∧ t.arrays = s.arrays)

/-- A context in ENDING whose blocks are released becomes RETAINED until RETAIN_TICKS have passed where it was asked for
and its job runs on, and FREE otherwise; an expired RETAINED context is FREE; a CTX_CANCEL that reaches the object
frees a RETAINED context, ends an ADMITTED one with reason 5, sends a CONTROL message to the output cluster of one
that runs, on this module or over the fabric, and is refused with WRONG_STATE in every other state and with
RANGE_CONFLICT above 4,095; frozen training strands get a CONTROL resume each once the serving load has stayed low.
The resumption message of R257 is the model's reading (log entry 60), and so is the output cluster (log entry 129). An
handle that does not name it or that is another tenant's, changing nothing else. (spec/11_serving.md) -/
def Obligations.ContextsEnd : Prop :=
  (∀ (c : Fin 4096) (n j : Nat) (v : BitVec 16) (s : State),
    let x := c.val
    let st := s.reg (Od.CTX_STATE x)
    let keep := (s.reg (Od.CTX_FLAGS x)).testBit 1 = true ∧ 1 ≤ s.reg (Od.CTX_END x) ∧ s.reg (Od.CTX_END x) ≤ 5 ∧
      s.jobState (s.reg (Od.CTX_JOB x)) = JS.ENABLED
    (st = XS.ENDING →
      (keep → Does (.kvReleased c) s fun t => t.reg (Od.CTX_STATE x) = XS.RETAINED ∧
        (t.ctx x).expiry = s.now + s.reg Od.RETAIN_TICKS ∧ t.strands = s.strands ∧ t.arrays = s.arrays) ∧
      (¬ keep → Does (.kvReleased c) s fun t => t.reg (Od.CTX_STATE x) = XS.FREE ∧ t.strands = s.strands ∧
        t.arrays = s.arrays)) ∧
    (st = XS.RETAINED → (s.ctx x).expiry < s.now → Does (.retainExpiry c) s fun t =>
      t.reg (Od.CTX_STATE x) = XS.FREE ∧ SameDies s t) ∧
    (st = XS.RETAINED → s.now ≤ (s.ctx x).expiry → exec (.retainExpiry c) s = .next s) ∧
    (Writes s n (s.mayCancel n v.toNat) →
      let vs := s.reg (Od.CTX_STATE v.toNat)
      (4095 < v.toNat → exec (.ctxCancel n v) s = .next (s.answers ⟨Code.RANGE_CONFLICT, 0xFF, []⟩)) ∧
      (v.toNat ≤ 4095 →
        (vs = XS.FREE ∨ vs = XS.ENDING → exec (.ctxCancel n v) s = .next (s.answers ⟨Code.WRONG_STATE, vs, []⟩)) ∧
        (vs = XS.RETAINED → Does (.ctxCancel n v) s fun t => t.answer = ⟨0, 0xFF, []⟩ ∧
          t.reg (Od.CTX_STATE v.toNat) = XS.FREE ∧ SameDies s t) ∧
        (vs = XS.ADMITTED → Does (.ctxCancel n v) s fun t => t.answer = ⟨0, 0xFF, []⟩ ∧
          t.reg (Od.CTX_STATE v.toNat) = XS.ENDING ∧ t.reg (Od.CTX_END v.toNat) = 5 ∧ SameDies s t) ∧
        (vs = XS.PREFILL ∨ vs = XS.DECODE →
          let o := s.outputOf v.toNat
          let cancel (m : NetMsg) : Prop := m.type = 6 ∧ m.op = 6 ∧ m.dst = o.2 ∧ m.value.toNat = v.toNat
          Does (.ctxCancel n v) s fun t => t.answer = ⟨0, 0xFF, []⟩ ∧ t.reg (Od.CTX_STATE v.toNat) = vs ∧ SameDies s t ∧
            (o.1 = s.coord → ∃ m ∈ t.net, cancel m) ∧ (o.1 ≠ s.coord → ∃ f ∈ t.fabOut, f.dst = o.1 ∧ cancel f.msg)))) ∧
    (∀ u us b, ((s.pairStrands j).filter fun u => s.strandState u == SS.FROZEN) = u :: us → (s.job j).lowSince = some b →
      b + s.reg (Od.TRAIN_RESUME_TICKS j) ≤ s.now → (s.liveCtxs j).length < s.reg (Od.TRAIN_RESUME_AT j) →
      (s.net.any fun m => m.type == 6 && m.op == 2 && m.dst == u) = false → Does (.trainResume j) s fun t =>
        SameDies s t ∧ ∀ w ∈ u :: us, ∃ m ∈ t.net, m.type = 6 ∧ m.op = 2 ∧ m.dst = w)) ∧
  (∀ (e : Fin 16384) (n : Nat) (h : Word) (s : State),
    let i := h.toNat % 16384
    let st := s.reg (Od.PREFIX_STATE i)
    let mine := s.actsFor n (s.reg (Od.PREFIX_TENANT i)) = true
    (s.reg (Od.PREFIX_STATE e.val) = 1 → (Store.get Prefix.new s.prefixes e.val).deadline < s.now →
      Does (.importDeadline e) s fun t => t.reg (Od.PREFIX_STATE e.val) = 0 ∧ SameDies s t) ∧
    (s.reg (Od.PREFIX_STATE e.val) = 1 → s.now ≤ (Store.get Prefix.new s.prefixes e.val).deadline →
      exec (.importDeadline e) s = .next s) ∧
    (Writes s n true →
      (¬ mine ∨ h = 0 ∨ s.prefixHandle i ≠ h.toNat ∨ st = 0 ∨ st = 3 →
        exec (.prefixDelete n h) s = .next (s.answers ⟨Code.MISSING_OBJECT, 0xFF, []⟩)) ∧
      (mine → h ≠ 0 → s.prefixHandle i = h.toNat →
        (st = 1 ∨ (st = 2 ∧ s.reg (Od.PREFIX_REFS i) = 0) → Does (.prefixDelete n h) s fun t =>
          t.answer = ⟨0, 0xFF, []⟩ ∧ t.reg (Od.PREFIX_STATE i) = 0 ∧ SameDies s t) ∧
        (st = 2 → s.reg (Od.PREFIX_REFS i) ≠ 0 →
          exec (.prefixDelete n h) s = .next (s.setReg (Od.PREFIX_STATE i) 3).ok))))

/-- A VER_CREATE that passes its checks takes the entry to DECLARED with the job's next number; a VER_COMMIT of a DECLARED
version with its records, whose blocks pass the checks and fit, takes it to LOADING; a VER_SWITCH of a READY version
whose job has another CURRENT one sends a switch message to every cluster of the slice on this module and starts the
switch; a VER_DELETE takes a version that is DECLARED, WAITING, READY or FAILED to NONE and one that loads to FAILED,
and refuses with LOCKED one that is CURRENT or RELEASING; VER_FIXED is set on a READY or CURRENT version and never
cleared. In another state each is refused with WRONG_STATE and the state. Writing 0 to a command object changes
nothing (the model's reading, log entry 61). (spec/12_weights.md) -/
def Obligations.VersionCommands : Prop :=
  ∀ (n : Nat) (f : Fin 16) (peer : Option PeerInfo) (l : List (List Byte)) (s : State), Writes s n (s.verRight n f.val) →
    let e := f.val
    let st := s.verState e
    let j := s.reg (Od.VER_JOB e)
    let accepted (t : State) : Prop := t.answer = ⟨0, 0xFF, []⟩ ∧ t.strands = s.strands
    let wrong (c : Instr) : Prop := exec c s = .next (s.answers ⟨Code.WRONG_STATE, st, []⟩)
    (st ≠ VS.NONE → wrong (.verCreate n f true)) ∧
    (st = VS.NONE → s.fixedJob j = false →
      ((List.range 16).filter fun k => s.reg (Od.VER_JOB k) == j && s.verState k != VS.NONE).length < 2 →
      s.reg (Od.VER_LOADER e) = s.coord → ((s.verPlaces e).any fun p => p.coord == s.coord) = true →
      s.reg (Od.TENANT_STATE (s.reg (Od.VER_TENANT e))) = 1 → s.actsFor n (s.reg (Od.VER_TENANT e)) = true →
      (s.reg (Od.VER_SEALED e) = 1 → s.reg (Od.TENANT_PRIVILEGED (s.reg (Od.VER_TENANT e))) ≠ 0) →
      Does (.verCreate n f true) s fun t => accepted t ∧ t.verState e = VS.DECLARED ∧ t.reg (Od.VER_NUMBER e) = s.newNumber j ∧
        SameDies s t ∧ ∀ m ∈ s.verModules e, ∃ q ∈ t.notices, q.dst = m ∧ q.kind = 8) ∧
    (st ≠ VS.DECLARED → wrong (.verCommit n f true peer)) ∧
    (let all := l.map Block.parse
     let bs := s.localBlocks e all
     st = VS.DECLARED → s.reg (Od.VER_SEALED e) = 0 → s.reg (Od.VER_SOURCE e) = 0 → (s.version e).records = some l →
      (all.all fun b => b.fieldsOk && decide (b.rank < (s.verPlaces e).length)) = true → noTwice all = true →
      (bs.all fun b => s.slotFmtOk j b.cl b) = true →
      ((blockClusters bs).any fun c => (loadPages bs c).any fun g => (s.page c g).valid) = false →
      s.roomFor bs none = true → Does (.verCommit n f true peer) s fun t =>
        accepted t ∧ t.verState e = VS.LOADING ∧ t.reg (Od.VER_BLOCKS e) = bs.length ∧ t.reg (Od.VER_BLOCKS_DONE e) = 0 ∧
        (t.version e).session = n) ∧
    (st = VS.NONE ∨ s.fixedJob j = false → st ≠ VS.READY ∨ s.currentVer j = none ∨ (s.version e).switchAt ≠ none →
      wrong (.verSwitch n f true)) ∧
    (s.fixedJob j = false → st = VS.READY → s.currentVer j ≠ none → (s.version e).switchAt = none →
      Does (.verSwitch n f true) s fun t => accepted t ∧ (t.version e).switchAt = some s.now ∧ SameDies s t ∧
        ∀ p ∈ s.verPlaces e, p.coord = s.coord → ∃ m ∈ t.net, m.type = 6 ∧ m.op = 3 ∧ m.dst = 2 * p.cl) ∧
    (st = VS.NONE → wrong (.verDelete n f true)) ∧
    (st ≠ VS.NONE → s.fixedJob j = false →
      (st = VS.CURRENT ∨ st = VS.RELEASING → Does (.verDelete n f true) s fun t => t.answer = ⟨Code.LOCKED, 0xFF, []⟩ ∧
        t.verState e = st) ∧
      (st = VS.DECLARED ∨ st = VS.WAITING ∨ st = VS.READY ∨ st = VS.FAILED → Does (.verDelete n f true) s fun t =>
        accepted t ∧ t.verState e = VS.NONE) ∧
      (st = VS.LOADING → Does (.verDelete n f true) s fun t => accepted t ∧ t.verState e = VS.FAILED)) ∧
    (st ≠ VS.NONE → s.fixedJob j = true → Does (.verDelete n f true) s fun t => t.answer = ⟨Code.LOCKED, 0xFF, []⟩ ∧
      t.verState e = st) ∧
    (s.isOp n = true → (st = VS.READY ∨ st = VS.CURRENT →
        exec (.verFixed n f true) s = .next (s.setReg (Od.VER_FIXED e) 1).ok) ∧
      (st ≠ VS.READY → st ≠ VS.CURRENT → wrong (.verFixed n f true)) ∧
      exec (.verFixed n f false) s = .next (s.answers ⟨Code.LOCKED, 0xFF, []⟩)) ∧
    exec (.verCreate n f false) s = .next s.ok ∧ exec (.verDelete n f false) s = .next s.ok ∧
    exec (.verCommit n f false peer) s = .next s.ok ∧ exec (.verSwitch n f false) s = .next s.ok

/-- A waiting version whose job has drained and whose current version no copy reads goes to LOADING; a cluster's report is
noted, and once every cluster of the slice has reported, the pointer moves in the next tick: the new version is
CURRENT, the old one RELEASING, admission goes on and SWITCHES counts; a switch that misses its timeout is withdrawn
with MERIDIAN_TIMEOUT; a RELEASING version that nothing pins or reads goes to NONE, and so does a FAILED one after
1,024 ticks. No strand changes. (spec/12_weights.md) -/
def Obligations.VersionEvents : Prop :=
  ∀ (f : Fin 16) (m c : Nat) (s : State),
    let e := f.val
    let j := s.reg (Od.VER_JOB e)
    (s.verState e = VS.WAITING → (s.jobState j = JS.NONE ∨ (s.ctxList.any fun x => s.reg (Od.CTX_JOB x) == j) = false) →
      (∀ k, s.currentVer j = some k → (s.version k).readers = []) → Does (.drainComplete f) s fun t =>
        t.verState e = VS.LOADING ∧ t.strands = s.strands) ∧
    ((s.version e).switchAt ≠ none → ((s.verPlaces e).any fun p => p.coord == m && p.cl == c) = true →
      (m = s.coord → (s.cluster c).installed = some e) → Does (.meridianReport f m c) s fun t =>
        (t.version e).reported.contains (m * 0x10000 + c) = true ∧ SameDies s t ∧ t.verState e = s.verState e ∧
        (t.allReported e = true → (t.version e).pointerAt = some (s.now + 1)) ∧
        (t.allReported e = false → (t.version e).pointerAt = (s.version e).pointerAt)) ∧
    (∀ b, (s.version e).pointerAt = some b →
      (s.now < b → exec (.meridianPointerMove f) s = .next s) ∧
      (b ≤ s.now → Does (.meridianPointerMove f) s fun t => t.verState e = VS.CURRENT ∧ SameDies s t ∧
        t.reg (Od.ADMISSION_PAUSED j) = 0 ∧ (t.version e).switchAt = none ∧ (t.version e).pointerAt = none ∧
        ∀ k, s.currentVer j = some k → k ≠ e → t.verState k = VS.RELEASING)) ∧
    (∀ b, (s.version e).switchAt = some b → (s.version e).pointerAt = none → b + s.reg Od.MERIDIAN_TIMEOUT < s.now →
      Does (.meridianTimeout f) s fun t => (t.version e).switchAt = none ∧ t.reg (Od.VER_REASON e) = Code.MERIDIAN_TIMEOUT ∧
        t.verState e = s.verState e ∧ SameDies s t) ∧
    (s.verState e = VS.RELEASING → s.reg (Od.VER_PINS e) = 0 → (s.version e).readers = [] →
      Does (.versionRelease f) s fun t => t.verState e = VS.NONE ∧ t.strands = s.strands) ∧
    (s.verState e = VS.RELEASING → 0 < s.reg (Od.VER_PINS e) → exec (.versionRelease f) s = .next s) ∧
    (s.verState e = VS.FAILED → (s.version e).failedAt + 1024 ≤ s.now →
      Does (.failedVersionExpiry f) s fun t => t.verState e = VS.NONE ∧ t.strands = s.strands)

/-- A load-tree fragment of a block that this module holds is stored and counted, one with poison asks for its chunk
again; a complete chunk that decodes is kept as its text and counted, one that does not asks again with BAD_CODING,
one with a parity failure loses the fragment and asks again with POISONED; a cluster in which nothing is programmed
starts its next block at row 0 of its array, which is PROGRAMMING with the block's format; a transit's copy read
buffers the next row, a peer copy's notes its reader until it is the last; a delete of an own adapter that is not
RETIRING retires it and drops what no request holds; an adapter load that idles too long is dropped.
(spec/12_weights.md; spec/13_calibration.md; spec/02_arrays.md; spec/18_power_clocks_thermal.md) -/
def Obligations.LoadEngine : Prop :=
  ∀ (b : List Byte) (f d : Fin 16) (num : Word) (k : Fin 64) (c : ClusterId) (x : ArrayId) (cells : List (Nat × BitVec 4))
      (n : Nat) (h : Word) (a : Fin 4096) (s : State),
    (∀ e, s.verOf (FragHdr.parse b).ver = some e → s.verState e = VS.LOADING → 16 ≤ b.length →
      s.holdsBlock e (FragHdr.parse b).num = true →
      (s.reg (Od.VER_SOURCE e) = 1 → exec (.loadTreeFragment b true) s = .next ((s.bump Od.CHUNKS_DROPPED 1).resendEvent e (FragHdr.parse b).num
        (FragHdr.parse b).chunk Code.POISONED)) ∧
      (s.reg (Od.VER_SOURCE e) ≠ 1 → exec (.loadTreeFragment b true) s = .next (((s.forwardFrag e (FragHdr.parse b).num b
        true).bump Od.CHUNKS_DROPPED 1).resendEvent e (FragHdr.parse b).num (FragHdr.parse b).chunk Code.POISONED)) ∧
      ((FragHdr.parse b).isSealed = false → Does (.loadTreeFragment b false) s fun t => SameDies s t ∧
        (t.version e).blocks = (s.version e).blocks.map fun q => if q.num = (FragHdr.parse b).num then
          q.putFrag (FragHdr.parse b).chunk ⟨(FragHdr.parse b).off, b.drop 16, (FragHdr.parse b).last⟩ else q)) ∧
    (∀ q coded, ((s.version f.val).blocks.find? fun b => b.num == num.toNat && dieOf b.cl == d.val) = some q →
      (Store.get Chunk.new q.chunks k.val).joined = some coded → (Store.get Chunk.new q.chunks k.val).text = none →
      s.verState f.val = VS.LOADING →
      let put (b : Block) : Block :=
        if dieOf b.cl = d.val then { b with chunks := Store.set b.chunks k.val ⟨[], some ((decodeChunk coded).getD [])⟩ } else b
      (decodeChunk coded = none → exec (.chunkDecode f d num k none) s = .next
        ((s.dropChunk f.val num.toNat d.val fun i => i == k.val).resendEvent f.val num.toNat k.val Code.BAD_CODING)) ∧
      (∀ i, Does (.chunkDecode f d num k (some i)) s fun t => SameDies s t ∧ (t.version f.val).blocks =
        (s.version f.val).blocks.map fun b => if b.num = num.toNat ∧ dieOf b.cl = d.val then
          let c := Store.get Chunk.new b.chunks k.val
          { b with chunks := Store.set b.chunks k.val { c with frags := c.frags.filter fun x => x.off != i } } else b) ∧
      (decodeChunk coded ≠ none → (put q).text = none → exec (.chunkDecode f d num k none) s = .next
        ((s.modBlocks f.val num.toNat put).bump Od.CHUNKS_DECODED 1))) ∧
    (∀ e k q y, s.nextBlock c.num = some (e, k) → s.blockOf e k = some q → q.array = some y →
      s.noneProgramming c.num = true → s.gated c.num = false → Does (.blockProgram c) s fun t =>
        t.arrState y = AS.PROGRAMMING ∧ t.wfmt y = q.wfmt ∧ (t.array y).progRow = some 0 ∧
        (t.array y).progBlock = some (e, k) ∧ (∀ z, z ≠ y → t.array z = s.array z) ∧ t.strands = s.strands ∧ t.sram = s.sram) ∧
    (let k := s.cluster (acl x.num)
     s.arrState x.num = AS.ACTIVE → (s.array x.num).idle = true → s.reg (Od.TRANSIT_STATE (acl x.num)) = 1 →
      s.reg (Od.TRANSIT_TARGET (acl x.num)) = x.a.val → k.rowBufs.length < 2 → k.copiedRows < 1024 →
      Does (.copyRead x .transit cells 0) s fun t => SameDies s t ∧
        (t.cluster (acl x.num)).copiedRows = k.copiedRows + 1 ∧
        (t.cluster (acl x.num)).rowBufs = k.rowBufs ++ [(s.array x.num).copyRow k.copiedRows cells]) ∧
    (∀ e q dst last, s.arrState x.num = AS.ACTIVE → (s.array x.num).idle = true → s.sourceBlock x.num = some (e, q) →
      dst ≠ s.coord → Does (.copyRead x (.peer dst num last) cells 0) s fun t => SameDies s t ∧
        (dst ∈ (t.version e).readers ↔ last = false)) ∧
    (Writes s n true →
      (s.adapterEntry h.toNat (s.actor n) = none →
        exec (.adapterDelete n h) s = .next (s.answers ⟨Code.MISSING_OBJECT, 0xFF, []⟩)) ∧
      (∀ e, s.adapterEntry h.toNat (s.actor n) = some e → s.reg (Od.AD_RETIRING e) ≠ 1 →
        Does (.adapterDelete n h) s fun t => t.answer = ⟨0, 0xFF, []⟩ ∧ t.strands = s.strands ∧ t.arrays = s.arrays ∧
          ∀ g ∈ (Store.get Adapter.new t.adapters e).gens, g.state ≠ 1 ∧ g.state ≠ 2)) ∧
    (let idle (g : AdGen) : Bool := g.state == 1 && decide (g.lastMsg + s.reg Od.ADAPTER_IDLE_TICKS < s.now)
     ((Store.get Adapter.new s.adapters a.val).gens.any idle) = true → Does (.adapterIdleExpiry a) s fun t =>
      (Store.get Adapter.new t.adapters a.val).gens = (Store.get Adapter.new s.adapters a.val).gens.filter fun g => !idle g)

/-- A transit starts in a cluster that is ready for it: the rested spare is PROGRAMMING from row 0 and state, target,
incoming array and start are noted; its window ends with the verdict PASS, MISMATCH or UNJUDGED and a new clean time
but for MISMATCH; the swap makes the incoming array ACTIVE and the target SPARE, or RETIRED after MISMATCH; a copy
that takes too long is abandoned with the verdict ABANDONED, by the settings that held as the transit started; a
missed bound is reported once for each time; a change of TRANSIT_PERIOD_S abandons every transit; a spare that passes
rest calibration is rested and one with a faulty line is RETIRED; correction targets are set for every path, and each
ramp advances once at each multiple of 2^16. No strand and no byte of SRAM changes. (spec/13_calibration.md;
spec/03_converters.md; spec/12_weights.md) -/
def Obligations.Transit : Prop :=
  ∀ (k : ClusterId) (x : ArrayId) (fit : List (Nat × Int × Nat × Int)) (ms : List WireMeas) (n : Nat) (v : Word) (s : State),
    let c := k.num
    let same (t : State) : Prop := t.strands = s.strands ∧ t.sram = s.sram
    let tgt := s.reg (Od.TRANSIT_TARGET c)
    let inc := s.reg (Od.TRANSIT_INCOMING c)
    (∀ i g, s.restedSpare c = some i → s.dueArray c = some g → s.reg Od.TRANSIT_EN = 1 → s.reg (Od.TRANSIT_STATE c) = 0 →
      s.noneProgramming c = true → s.nextBlock c = none → s.reg (csObj c) = CS.READY → Does (.transitStart k) s fun t => same t ∧
        t.reg (Od.TRANSIT_STATE c) = 1 ∧ t.reg (Od.TRANSIT_TARGET c) = g ∧ t.reg (Od.TRANSIT_INCOMING c) = i ∧
        t.reg (Od.TRANSIT_START c) = s.now ∧ t.reg (asObj c i) = AS.PROGRAMMING ∧ (t.array (34 * c + i)).progRow = some 0) ∧
    (s.arrState x.num = AS.ACTIVE → s.reg Od.TRANSIT_EN = 1 →
      s.clean x.num + s.periodTicks + s.reg Od.TRANSIT_COPY_MAX + s.reg Od.TRANSIT_WINDOW_MAX < s.now →
      let done := (s.array x.num).overdue = some (s.clean x.num)
      (¬ done → exec (.transitOverdue x) s = .next ((s.modArray x.num fun a => { a with overdue := some (s.clean x.num) }).event
        0xC .mgmt (beBytes 1 x.cl.die.val ++ beBytes 1 x.cl.k.val ++ beBytes 1 x.a.val ++ beBytes 1 0))) ∧
      (done → exec (.transitOverdue x) s = .next s)) ∧
    (let age := s.now - (s.cluster c).transitFor
     let q := (s.cluster c).transitSet
     let enough := q.minPairs ≤ s.pairCount c
     let verdict := if s.mismatches c ≠ [] then 2 else if enough then 1 else 3
     s.reg (Od.TRANSIT_STATE c) = 2 → q.window ≤ age → (enough ∨ q.windowMax ≤ age) →
      Does (.shadowWindowEnd k) s fun t => same t ∧ t.reg (Od.TRANSIT_STATE c) = 3 ∧
        t.reg (Od.LAST_VERDICT (34 * c + tgt)) = verdict ∧
        (verdict ≠ 2 → t.reg (Od.LAST_CLEAN_TIME (34 * c + tgt)) = s.now)) ∧
    (s.reg (Od.TRANSIT_STATE c) = 3 → s.strandState (2 * c) ≠ SS.RUNNING → s.strandState (2 * c) ≠ SS.HELD →
      (s.array (34 * c + tgt)).idle = true → tgt ≠ inc → Does (.transitSwap k) s fun t => same t ∧
        t.reg (asObj c inc) = AS.ACTIVE ∧
        t.reg (asObj c tgt) = (if s.reg (Od.LAST_VERDICT (34 * c + tgt)) = 2 then AS.RETIRED else AS.SPARE) ∧
        (t.reg (Od.TRANSIT_STATE c) = 0 ∨ t.reg (Od.TRANSIT_STATE c) = 4)) ∧
    (s.reg (Od.TRANSIT_STATE c) = 1 → s.reg (Od.TRANSIT_START c) + (s.cluster c).transitSet.copyMax < s.now →
      Does (.transitCopyTimeout k) s fun t => same t ∧ t.reg (Od.LAST_VERDICT (34 * c + tgt)) = 4 ∧
        (t.reg (Od.TRANSIT_STATE c) = 0 ∨ t.reg (Od.TRANSIT_STATE c) = 4) ∧
        (s.reg (asObj c inc) = AS.PROGRAMMING → t.reg (asObj c inc) = AS.SPARE)) ∧
    (Writes s n (s.isOp n) →
      (v.toNat < 600 ∨ 86400 < v.toNat →
        exec (.transitPeriodS n v) s = .next (s.answers ⟨Code.RANGE_CONFLICT, 0xFF, []⟩)) ∧
      (600 ≤ v.toNat → v.toNat ≤ 86400 → Does (.transitPeriodS n v) s fun t => same t ∧ t.answer = ⟨0, 0xFF, []⟩ ∧
        t.reg Od.TRANSIT_PERIOD_S = v.toNat ∧
        (v.toNat ≠ s.reg Od.TRANSIT_PERIOD_S → 1 ≤ s.reg (Od.TRANSIT_STATE c) → s.reg (Od.TRANSIT_STATE c) ≤ 3 →
          t.reg (Od.TRANSIT_STATE c) = 0 ∨ t.reg (Od.TRANSIT_STATE c) = 4))) ∧
    (s.arrState x.num = AS.SPARE → s.isRested (acl x.num) x.a.val = false → s.seqState x.num = 0 →
      (s.reg (Od.SPARE_A (acl x.num)) = x.a.val ∨ s.reg (Od.SPARE_B (acl x.num)) = x.a.val) →
      (s.reg (Od.TRANSIT_STATE (acl x.num)) = 0 ∨ s.reg (Od.TRANSIT_INCOMING (acl x.num)) ≠ x.a.val) →
      let faulty := ms.any fun m => [8, 13].any fun k =>
        wireSelected (stdEntry 0 k) m.line && s.wireFaulty x.num (stdEntry 0 k) m
      (faulty = false → Does (.restCalibration x fit ms) s fun t => same t ∧ t.isRested (acl x.num) x.a.val = true ∧
        t.arrState x.num = AS.SPARE) ∧
      (faulty = true → Does (.restCalibration x fit ms) s fun t => t.arrState x.num = AS.RETIRED)) ∧
    (s.arrState x.num = AS.ACTIVE ∨ s.arrState x.num = AS.SHADOW → s.reg (Od.SENSOR_PLAUSIBLE (acl x.num)) = 1 →
      s.now % 0x400000 = 0 ∨ 8 ≤ (s.clTemp (acl x.num) - (s.array x.num).targetsTemp).natAbs →
      Does (.correctionTargetUpdate x) s fun t => same t ∧ (t.array x.num).targetsTemp = s.clTemp (acl x.num) ∧ ∀ y, y ≠ x.num → t.array y = s.array y) ∧
    (s.now % 0x10000 = 0 → Does .rampStep s fun t => same t ∧ ∀ y, y ∈ s.arrays.map Prod.fst →
      (s.array y).ramps ≠ [] → (s.array y).rampTick ≠ s.now → (t.array y).rampTick = s.now ∧
        (t.array y).ramps = ((s.array y).ramps.filter fun (e : Nat × Int × Int × Nat) => e.2.2.2 + 1 < 64).map fun e =>
          (e.1, (e.2.1, (e.2.2.1, e.2.2.2 + 1)))) ∧
    (s.now % 0x10000 ≠ 0 → exec .rampStep s = .next s)

/-- A DARK port of an open axis that sees light trains; training with an acceptable neighbour and a link of at most 500 ns
takes it to UP with the neighbour's coordinates, epoch and delay, and otherwise to DOWN with reason 2 or 3; loss of
light takes UP to DARK; a flit with a CRC error is counted as replayed and asked for again with NAK, one whose CRC
fails again drops its message where it is the head and goes on poisoned otherwise, and beyond the threshold the port
is DOWN with reason 1; a flit without an error changes nothing; a delay measured too long takes it DOWN with reason 3;
PORT_RETRAIN of a DOWN port starts at DARK and is refused with WRONG_STATE otherwise; a port DARK for
LOS_DEBOUNCE_TICKS probes its neighbour; an expectation that passes starts the debounce anew; REJOIN opens the axes of
its mask, is refused above 7 with RANGE_CONFLICT and before boot step 5 with WRONG_STATE. (spec/15_fabric.md) -/
def Obligations.FabricPorts : Prop :=
  ∀ (q : Fin 6) (nb : Fin 0x1000000) (epoch : Word) (delay n : Nat) (first again : FabFlit) (head : Bool) (mask : Byte) (s : State),
    let p := q.val
    let down (why : Nat) (t : State) : Prop := t.portState p = PT.DOWN ∧ t.reg (Od.PORT_DOWN_REASON p) = why
    (s.portState p = PT.DARK → (s.reg Od.BYPASS_STATE).testBit (p / 2) = false → s.reg (Od.FAB_PORT_PWR p) ≠ 2 →
      Does (.portLight q) s fun t => t.portState p = PT.TRAINING ∧ (t.port p).probeUntil = none ∧
        t = { s with regs := t.regs, ports := t.ports }) ∧
    (s.portState p = PT.TRAINING →
      (acceptsNeighbour s.coord p nb.val = true → delay ≤ 500000 → Does (.portTrainingDone q nb epoch delay) s fun t =>
        t.portState p = PT.UP ∧ t.neighbourOf p = nb.val ∧ t.reg (Od.NEIGHBOUR_EPOCH p) = epoch.toNat ∧
        t.reg (Od.LINK_DELAY_PS p) = delay ∧ (t.port p).lastMeasure = s.now ∧ SameDies s t) ∧
      (acceptsNeighbour s.coord p nb.val = false → Does (.portTrainingDone q nb epoch delay) s (down 2)) ∧
      (acceptsNeighbour s.coord p nb.val = true → 500000 < delay → Does (.portTrainingDone q nb epoch delay) s (down 3))) ∧
    (s.portState p = PT.UP →
      Does (.portLossOfLight q) s (fun t => t.portState p = PT.DARK ∧ (t.port p).darkSince = s.now ∧ SameDies s t) ∧
      (flitGood first = true → exec (.fabricFlitReplay q ⟨first, again, head⟩) s = .next s) ∧
      (flitGood first = false →
        ((s.port p).replays + 1 ≤ s.reg Od.FAB_RETIRE_THRESHOLD → Does (.fabricFlitReplay q ⟨first, again, head⟩) s fun t =>
          t.portState p = PT.UP ∧ (t.port p).replays = (s.port p).replays + 1 ∧ (t.port p).nak = true ∧ SameDies s t ∧
          (flitGood again = true → t.faults = s.faults) ∧
          (flitGood again = false → ∃ f ∈ t.faults, f.kind = 5 ∧ f.unit = p ∧
            (s.reg Od.FAB_POISONED_FLITS + 1 < 0x1000000000000 → s.reg Od.FAB_DROPPED_MESSAGES + 1 < 0x1000000000000 →
              t.reg Od.FAB_DROPPED_MESSAGES = s.reg Od.FAB_DROPPED_MESSAGES + head.toNat ∧
              t.reg Od.FAB_POISONED_FLITS = s.reg Od.FAB_POISONED_FLITS + (!head).toNat))) ∧
        (s.reg Od.FAB_RETIRE_THRESHOLD < (s.port p).replays + 1 → Does (.fabricFlitReplay q ⟨first, again, head⟩) s (down 1))) ∧
      ((s.port p).lastMeasure + 0x100000 ≤ s.now →
        (delay ≤ 500000 → exec (.linkDelayMeasure q delay) s =
          .next ((s.setReg (Od.LINK_DELAY_PS p) delay).modPort p fun t => { t with lastMeasure := s.now })) ∧
        (500000 < delay → Does (.linkDelayMeasure q delay) s (down 3)))) ∧
    (Writes s n (s.isOp n) →
      (s.portState p = PT.DOWN → exec (.portRetrain n q true) s =
        .next ((s.setReg (Od.PORT_STATE p) PT.DARK).modPort p fun t => { t with darkSince := s.now }).ok) ∧
      (s.portState p ≠ PT.DOWN →
        exec (.portRetrain n q true) s = .next (s.answers ⟨Code.WRONG_STATE, s.portState p, []⟩)) ∧
      exec (.portRetrain n q false) s = .next s.ok ∧
      (7 < mask.toNat → exec (.rejoin n mask) s = .next (s.answers ⟨Code.RANGE_CONFLICT, 0xFF, []⟩)) ∧
      (mask.toNat ≤ 7 → s.reg Od.BOOT_STAGE < 5 →
        exec (.rejoin n mask) s = .next (s.answers ⟨Code.WRONG_STATE, s.reg Od.BOOT_STAGE, []⟩)) ∧
      (mask.toNat ≤ 7 → 5 ≤ s.reg Od.BOOT_STAGE → exec (.rejoin n mask) s =
        .next (s.setReg Od.BYPASS_STATE (s.reg Od.BYPASS_STATE - (s.reg Od.BYPASS_STATE &&& mask.toNat))).ok)) ∧
    (s.portState p = PT.DARK → s.neighbourOf p ≠ 0xFFFFFFFF → (s.port p).departed = false → (s.port p).probeUntil = none →
      s.expected p = false → (s.port p).darkSince + s.reg Od.LOS_DEBOUNCE_TICKS ≤ s.now →
      (s.reg Od.EXPECT_PORT = p → s.reg Od.EXPECT_UNTIL + s.reg Od.LOS_DEBOUNCE_TICKS ≤ s.now) →
      Does (.losDebounceExpiry q) s fun t => (t.port p).probeUntil = some (s.now + s.reg Od.PROBE_TIMEOUT_TICKS) ∧
        SameDies s t ∧ ((s.upPorts.any fun r => r / 2 != p / 2) = true →
          ∃ m ∈ t.notices, m.dst = s.neighbourOf p ∧ m.kind = 10 ∧
            m.body = (memberBytes 3 0 (s.neighbourOf p) p (s.reg (Od.NEIGHBOUR_EPOCH p)) (short32 s.now) s.coord).map fun b => b.toNat)) ∧
    (s.reg Od.EXPECT_PORT = p → s.reg Od.EXPECT_UNTIL < s.now → s.portState p ≠ PT.UP →
      Does .expectUntilExpiry s fun t => t.reg Od.EXPECT_PORT = 0xFF ∧ (t.port p).darkSince = s.reg Od.EXPECT_UNTIL ∧
        (t.port p).departed = false ∧ SameDies s t)

/-- A NULL flit that arrives alone at an UP port gives its acknowledgement and credits, and flits that make no whole
message change nothing. The flits of a message are counted, with the port's link sequence; a message for another
module is passed on; one of VC1 for this module enters the die network; one of VC0 whose number was taken before is
only counted, and a new one enters the die network, or the job's elastic buffer until its stamp plus the priced
latency; an E2E_ACK clears the acknowledged messages from the resend store, one that is due leaves nothing
unacknowledged, and a message without an acknowledgement for 21,250 ticks leaves again with its resent mark. None of
these changes a strand, an array or SRAM. A DEPARTURE or LOST notice of a module that is not yet noted is counted,
noted and passed on to every other UP port as a MEMBER payload, and every job with clusters on that module goes to
ENDING; one that is noted already, or names this module, is only counted, but that a departure also marks the port of
that neighbour; a probe that nobody answers in time notes the neighbour as lost, one that is answered takes the port
DOWN with reason 4, and a probe that arrives is answered; BEACON_REQ and BEACON_REL switch the forwarding at a port.
(spec/15_fabric.md; spec/09_sidereal_time.md) -/
def Obligations.FabricMessages : Prop :=
  (∀ (p : Fin 6) (fs : List FabFlit) (m : Fin 0x1000000) (w : Word) (k : Nat) (s : State),
    let arrival := Instr.fabricMessageArrival p fs
    let q := p.val
    let u := (s.gotOn q fs).bump Od.FAB_FLITS_RX fs.length
    (s.portState q ≠ PT.UP → exec arrival s = .next s) ∧
    (s.portState q = PT.UP →
      (∀ f, fs = [f] → flitGood f = true → (flitFields f).null = true → exec arrival s = .next (s.gotOn q fs)) ∧
      (wholeMessage fs = false → (¬ ∃ f, fs = [f] ∧ flitGood f = true ∧ (flitFields f).null = true) → exec arrival s = .next s) ∧
      (∀ f, wholeMessage fs = true → fclassOf fs = 0 → fabOf fs = some f →
        (f.dst ≠ s.coord → Does arrival s fun t => t.fabOut = s.fabOut ++ [f] ∧ SameDies s t ∧ t.net = s.net) ∧
        (f.dst = s.coord →
          let x := u.readdress f
          let plain := x.msg.type ≠ 1 ∧ x.msg.type ≠ 2 ∧ x.msg.type < 11
          let entered (t : State) : Prop := (∃ h, t.net = s.net ++ [{ x.msg with how := h }]) ∧ SameDies s t
          (x.vc = 1 → plain → Does arrival s entered) ∧
          (x.vc ≠ 1 →
            (s.oldFseq x.src x.fseq = true → exec arrival s = .next u) ∧
            (s.oldFseq x.src x.fseq = false →
              let j := x.msg.job
              let r := expand32 (s.jobNow j) x.stamp + s.pricedTicks j x.src x.msg.how.len
              (j = 0 ∨ r ≤ s.jobNow j → plain → Does arrival s entered) ∧
              (j ≠ 0 → s.jobNow j < r → Does arrival s fun t =>
                (t.job j).elastic = (s.job j).elastic ++ [⟨x, r⟩] ∧ t.net = s.net ∧ SameDies s t)))))) ∧
    Does (.e2eAck m w) s (fun t => SameDies s t ∧ ∃ l, (s.fabWait = [] → l = []) ∧
      t.resend = (s.resend.filter fun r =>
        !(r.msg.dst == m.val && decide ((w.toNat + 0x100000000 - r.msg.fseq) % 0x100000000 < 0x80000000))) ++ l) ∧
    (s.unackedRx m.val ≠ 0 → Does (.e2eAckSend m) s fun t => t.unackedRx m.val = 0 ∧ SameDies s t ∧
      ∃ q ∈ t.notices, q.dst = m.val ∧ q.kind = 15) ∧
    (s.unackedRx m.val = 0 → exec (.e2eAckSend m) s = .next s) ∧
    (∀ r q, s.resend[k]? = some r → (s.hopsOf r.msg).head? = some q → s.portState q = PT.UP → r.sent + 21250 < s.now →
      Does (.fabricResendTimeout k) s fun t => t.resend[k]? = some ⟨s.now, { r.msg with resent := true }⟩ ∧ SameDies s t ∧
        t.fabOut = s.fabOut ++ [{ r.msg with resent := true }])) ∧
  (∀ (p : Fin 6) (m : Fin 0x1000000) (epoch : Word) (cause port : Byte) (s : State),
    let seen := s.seen.contains (m.val, epoch.toNat) = true ∨ m.val = s.coord
    let told (t : State) : Prop := t.seen = (m.val, epoch.toNat) :: s.seen ∧
      (∀ r, r ∈ s.upPorts → r ≠ p.val → ∃ x ∈ t.notices, x.dst = s.neighbourOf r ∧ x.kind = 10) ∧
      ∀ j, (∃ e ∈ s.jobs, e.1 = j) → (s.jobModules j).contains m.val = true →
        (s.jobState j = JS.BOUND ∨ s.jobState j = JS.ENABLED) → t.jobState j = JS.ENDING
    (seen → exec (.lost p m epoch cause port) s = .next (s.bump Od.MEMBER_NOTICES 1) ∧
      ∀ r, s.portTo m.val = some r → exec (.departure p m epoch) s =
        .next ((s.bump Od.MEMBER_NOTICES 1).modPort r fun t => { t with departed := true, probeUntil := none })) ∧
    (¬ seen → Does (.lost p m epoch cause port) s told ∧ Does (.departure p m epoch) s told) ∧
    (∀ b, (s.port p.val).probeUntil = some b →
      (s.now ≤ b → exec (.probeTimeout p) s = .next s) ∧
      (b < s.now → Does (.probeTimeout p) s fun t => (t.port p.val).probeUntil = none ∧ (t.port p.val).departed = true ∧
        (s.neighbourOf p.val ≠ s.coord → t.seen.contains (s.neighbourOf p.val, s.reg (Od.NEIGHBOUR_EPOCH p.val)) = true))) ∧
    Does (.probe m port) s (fun t => SameDies s t ∧ t.notices = s.notices ++ [⟨m.val, 10,
      (memberBytes 4 0 s.coord port.toNat (s.reg Od.RESETS % 0x100000000) (short32 s.now) s.coord).map fun b => b.toNat⟩]) ∧
    (∀ r, ((List.range 6).find? fun q => s.neighbourOf q == m.val && (s.port q).probeUntil.isSome) = some r →
      Does (.probeAck m) s fun t => t.portState r = PT.DOWN ∧ t.reg (Od.PORT_DOWN_REASON r) = 4 ∧
        (t.port r).probeUntil = none) ∧
    exec (.beaconReq p) s = .next (s.modPort p.val fun t => { t with forward := true }) ∧
    exec (.beaconRel p) s = .next (s.modPort p.val fun t => { t with forward := false }))

/-- A reshape of a slice that no version or context holds stores the field, takes every bound or enabled job of the slice
to BOUND with its timing stale, and is refused with LOCKED or RANGE_CONFLICT otherwise; a query is answered with this
module's reply; the last reply that the lead awaits enables the job, with its start 21,250 ticks ahead, where all
replies agree and the timing binds, and refuses the enable with the first difference otherwise; a query that waits
longer refuses the enable with TOPOLOGY_MISMATCH; a START message enables a BOUND job at the start tick given, or
notes why not. (spec/15_fabric.md) -/
def Obligations.SlicesAndEnable : Prop :=
  ∀ (k : Fin 64) (f : Fin 4) (v n j m mask delay : Nat) (r : EnableReply) (start : BitVec 64) (s : State),
    (Writes s n (s.isOp n) →
      (s.sliceLocked k.val = true → exec (.sliceReshape n k f v) s = .next (s.answers ⟨Code.LOCKED, 0xFF, []⟩)) ∧
      (s.sliceLocked k.val = false → sliceField f.val v = false →
        exec (.sliceReshape n k f v) s = .next (s.answers ⟨Code.RANGE_CONFLICT, 0xFF, []⟩)) ∧
      (s.sliceLocked k.val = false → sliceField f.val v = true → Does (.sliceReshape n k f v) s fun t =>
        t.answer = ⟨0, 0xFF, []⟩ ∧ t.reg ⟨0x4011, 2 + f.val, k.val⟩ = v ∧ t.sram = s.sram ∧
        ∀ i, i ∈ s.sliceJobs k.val → t.jobState i = JS.BOUND ∧ (t.job i).stale = true)) ∧
    Does (.enableQuery j m) s (fun t => ∃ q : Notice, q.dst = m ∧ q.kind = 2 ∧ q.body.head? = some j ∧
      t.notices = s.notices ++ [q] ∧ t = { s with regs := t.regs, notices := t.notices, ports := t.ports }) ∧
    (∀ rs b, (s.job j).query = some (rs, n, b) → (s.odRuns.find? fun r => r.job == j) = none →
      (b + 21250 < s.now → Does (.enableQueryTimeout j) s fun t => (t.job j).query = none ∧ SameDies s t ∧
        t.reg (Od.JOB_REASON j) = Code.TOPOLOGY_MISMATCH ∧ t.answer = ⟨Code.TOPOLOGY_MISMATCH, 0xFF, []⟩ ∧
        t.jobState j = s.jobState j) ∧
      (s.now ≤ b + 21250 → (s.jobModules j).contains m = true →
        let all := Store.set rs m r
        (((s.jobModules j).all fun x => (Store.get? all x).isSome) = false → exec (.enableQueryReply j m r) s =
          .next (s.modJob j fun k => { k with query := some (all, n, b) })) ∧
        (((s.jobModules j).all fun x => (Store.get? all x).isSome) = true →
          let rp := all.map Prod.snd
          (∀ e, judgeReplies (s.portsFit (s.jobBox j)) rp = some e → Does (.enableQueryReply j m r) s fun t =>
            t.answer = ⟨e.code, e.st, []⟩ ∧ t.reg (Od.JOB_REASON j) = e.code ∧ (t.job j).query = none ∧
            t.jobState j = s.jobState j ∧ SameDies s t) ∧
          (judgeReplies (s.portsFit (s.jobBox j)) rp = none →
          ∀ p ps, s.timing j (steppingMask rp) (delayClocks (rp.foldl (fun a r => Nat.max a r.delay) 0)) = .inr (p, ps) →
            Does (.enableQueryReply j m r) s fun t => t.answer = ⟨0, 0xFF, []⟩ ∧ t.jobState j = JS.ENABLED ∧
              (t.job j).startTick = some (s.now + 21250) ∧ (t.job j).query = none ∧
              ∀ x ∈ s.jobModules j, x ≠ s.coord → ∃ q ∈ t.notices, q.dst = x ∧ q.kind = 3)))) ∧
    (s.jobState j = JS.BOUND →
      (∀ c, s.timing j mask delay = .inl c → exec (.enableStart j mask delay start) s = .next (s.setReg (Od.JOB_REASON j) c)) ∧
      (∀ p ps, s.timing j mask delay = .inr (p, ps) → Does (.enableStart j mask delay start) s fun t =>
        t.jobState j = JS.ENABLED ∧ (t.job j).startTick = some start.toNat ∧ t.sram = s.sram))

/-- A write of MODULE_ENABLE that changes nothing is accepted; one that fails the module check names the reason, the row's
object and the result; one that passes takes the module to ENABLED, and back to DISABLED unless a job or a version
keeps it enabled (LOCKED). CHECK_ONLY answers the check and changes no state. RESTORE_DEFAULTS works in DISABLED only
and leaves every object it restores at its default, and where TRANSIT_PERIOD_S is at its default already nothing but
objects. A bind that fails a check records the code; one that passes takes the job to BOUND. An enable needs BOUND; on
one module it takes the job to ENABLED with its start at the next tick (the model's choice, log entry 37) or records
what refuses it; on several it asks each other module. An unload of a BOUND or ENABLED job ends it. An image that a
job is bound to is LOCKED, and any other is deleted. A 0 written to any of these changes nothing (log entry 61).
(spec/08_program_contract.md; spec/15_fabric.md; spec/16_object_dictionary.md) -/
def Obligations.EnablesAndBinding : Prop :=
  ∀ (n : Nat) (v : Bool) (f : Found) (k : Fin 64) (i : Fin 16) (s : State),
    let j := k.val + 1
    let st := s.reg Od.MODULE_STATE
    let js := s.jobState j
    let wrong (t : State) (x : Nat) : State := t.answers ⟨Code.WRONG_STATE, x, []⟩
    let refuse (r : Refused) : State :=
      ((s.setReg Od.MODULE_REASON r.code).setReg (Od.LAST_CHECK_OBJECT n) r.obj).answers ⟨r.code, r.st, []⟩
    (Writes s n (s.isOp n) →
      (v = (st == MS.ENABLED) → exec (.moduleEnable n v f) s = .next s.ok) ∧
      (st ≠ MS.ENABLED → ∀ r, s.moduleCheck f = some r →
        exec (.moduleEnable n true f) s = .next (refuse r) ∧ exec (.checkOnly n true f) s = .next (refuse r)) ∧
      (st = MS.DISABLED → s.reg Od.HOST_LINK_STATE = 3 → s.reg Od.SERVICE_IPV4 = 0 → s.reg Od.SERVICE_IPV6 = 0 →
        exec (.moduleEnable n true f) s = .next (refuse ⟨Code.MISSING_OBJECT, 0xFF, 0x110004⟩)) ∧
      (s.moduleCheck f = none → exec (.checkOnly n true f) s = .next s.ok ∧
        Does (.moduleEnable n true f) s fun t => t.answer = ⟨0, 0xFF, []⟩ ∧ t.reg Od.MODULE_STATE = MS.ENABLED ∧
          t.reg Od.MODULE_ENABLE = 1 ∧ t = { s with regs := t.regs, answer := t.answer }) ∧
      exec (.checkOnly n false f) s = .next s.ok ∧
      (st = MS.ENABLED → s.keepsEnabled = true →
        exec (.moduleEnable n false f) s = .next (s.answers ⟨Code.LOCKED, 0xFF, []⟩)) ∧
      (st = MS.ENABLED → s.keepsEnabled = false → Does (.moduleEnable n false f) s fun t => t.answer = ⟨0, 0xFF, []⟩ ∧
        t.reg Od.MODULE_STATE = MS.DISABLED ∧ t.reg Od.MODULE_ENABLE = 0 ∧ t = { s with regs := t.regs, answer := t.answer }) ∧
      exec (.restoreDefaults n false) s = .next s.ok ∧
      (st ≠ MS.DISABLED → exec (.restoreDefaults n true) s = .next (wrong s st)) ∧
      (st = MS.DISABLED → Does (.restoreDefaults n true) s fun t => t.answer = ⟨0, 0xFF, []⟩ ∧
        (s.reg Od.TRANSIT_PERIOD_S = 3600 → t = { s with regs := t.regs, startRegs := t.startRegs, answer := t.answer }) ∧
        ∀ o : Obj, o.addressed → restores o.key = true → (∀ d, o ≠ Od.CEILING_NOW d) → t.reg o = regDefault o) ∧
      exec (.imageDelete n i false) s = .next s.ok ∧
      let used := s.jobs.any fun (e : Nat × Job) => s.jobState e.1 != JS.NONE && e.2.image == i.val
      (used = true → exec (.imageDelete n i true) s = .next (s.answers ⟨Code.LOCKED, 0xFF, []⟩)) ∧
      (used = false → Does (.imageDelete n i true) s fun t => t.answer = ⟨0, 0xFF, []⟩ ∧
        Store.get? t.images i.val = none ∧ t.reg (Od.IMAGE_LEN i.val) = 0 ∧
        ∀ x, x ≠ i.val → Store.get? t.images x = Store.get? s.images x)) ∧
    (Writes s n (s.jobRight n j) →
      exec (.jobBind n k false) s = .next s.ok ∧ exec (.jobEnable n k false) s = .next s.ok ∧
      exec (.jobUnload n k false) s = .next s.ok ∧
      (js = JS.ENABLED ∨ js = JS.ENDING ∨ (js = JS.BOUND ∧ (s.job j).stale = false) →
        exec (.jobBind n k true) s = .next (wrong s js)) ∧
      (js = JS.NONE ∨ (js = JS.BOUND ∧ (s.job j).stale = true) →
        (∀ c, s.bindCheck n j = .inl c → exec (.jobBind n k true) s =
          .next ((s.setReg (Od.JOB_REASON j) c).answers ⟨c, 0xFF, []⟩)) ∧
        (∀ p gs, s.bindCheck n j = .inr (p, gs) → Does (.jobBind n k true) s fun t => t.answer = ⟨0, 0xFF, []⟩ ∧
          t.jobState j = JS.BOUND ∧ t.reg (Od.JOB_REASON j) = 0)) ∧
      (js ≠ JS.BOUND ∨ (s.job j).query.isSome = true → exec (.jobEnable n k true) s = .next (wrong s js)) ∧
      (js = JS.BOUND → (s.job j).query = none →
        let delay := delayClocks (s.blockDelay (s.jobBox j))
        let alone := ((s.jobModules j).filter fun m => m != s.coord) = []
        (∀ r, s.jobCheck j true = some r → Does (.jobEnable n k true) s fun t => t.answer = ⟨r.code, r.st, []⟩ ∧
          t.reg (Od.JOB_REASON j) = r.code ∧ t.reg (Od.LAST_CHECK_OBJECT n) = r.obj ∧ t.jobState j = JS.BOUND ∧ SameDies s t) ∧
        (s.jobCheck j true = none →
          (alone → (∀ c, s.timing j (2 ^ s.stepping) delay = .inl c → Does (.jobEnable n k true) s fun t =>
              t.answer = ⟨c, 0xFF, []⟩ ∧ t.reg (Od.JOB_REASON j) = c ∧ t.jobState j = JS.BOUND ∧ SameDies s t) ∧
            (∀ p ps, s.timing j (2 ^ s.stepping) delay = .inr (p, ps) → Does (.jobEnable n k true) s fun t =>
              t.answer = ⟨0, 0xFF, []⟩ ∧ t.jobState j = JS.ENABLED ∧ (t.job j).startTick = some (s.now + 1) ∧
              t.reg (Od.JOB_STEPPINGS j) = 2 ^ s.stepping ∧ t.arrays = s.arrays ∧ t.sram = s.sram)) ∧
          (¬ alone → Does (.jobEnable n k true) s fun t => t.jobState j = JS.BOUND ∧ (t.job j).query.isSome = true ∧
            SameDies s t ∧ ∀ m ∈ s.jobModules j, m ≠ s.coord → ∃ q ∈ t.notices, q.dst = m ∧ q.kind = 1))) ∧
      (js = JS.BOUND ∨ js = JS.ENABLED → Does (.jobUnload n k true) s fun t => t.answer = ⟨0, 0xFF, []⟩ ∧
        t.reg (Od.JOB_ENABLE j) = 0 ∧ (t.jobState j = JS.ENDING ∨ t.jobState j = JS.NONE)) ∧
      (js = JS.NONE ∨ js = JS.ENDING → exec (.jobUnload n k true) s = .next (wrong s js)))

/-- A report of a word that is not poisoned changes nothing; one in a job's CONST allocation ends the job; any other
leaves a fault record of kind 1 with the bank. A preflight fragment starts in a gap that holds it and, when its ticks
are over, passes where its signature matches, runs again after a first mismatch, and after a second one is counted as
failed and resets the cluster towards RETIRED, or takes the array of an array fragment to ALARM. A hold that lasts
HOLD_ALARM_TICKS is reported once. A HEARTBEAT write of 0 is refused; another takes effect once all eight service
loops have passed. A firmware fault stops the firmware, whose loops then do nothing. (spec/17_reliability.md) -/
def Obligations.PoisonAndPreflight : Prop :=
  ∀ (c : ClusterId) (w : Fin 655360) (bank : Fin 80) (a : Fin 34) (sig : Word) (bad : List Nat) (rows : Bool) (j n : Nat) (v : Word)
    (core : Fin 8) (kind : Fin 3) (pc addr : Word) (s : State),
    let x := c.num
    let o := 4 * w.val
    let k := s.cluster x
    let g := s.page x (o / 4096)
    let u := 2 * x + g.strand
    let pj := if g.valid then s.strandJob u else 0
    (s.sramParity.mem (wordAt x o) = false → exec (.poisonReport c w bank) s = .next s) ∧
    (s.sramParity.mem (wordAt x o) = true → pj = 0 ∨ s.allocKind u o ≠ 1 → Does (.poisonReport c w bank) s fun t =>
      SameDies s t ∧ ∃ f ∈ t.faults, f.kind = 1 ∧ f.die = c.die.val ∧ f.cluster = c.k.val ∧ f.unit = bank.val) ∧
    (s.sramParity.mem (wordAt x o) = true → pj ≠ 0 → s.allocKind u o = 1 → s.jobState pj = JS.BOUND ∨ s.jobState pj = JS.ENABLED →
      Does (.poisonReport c w bank) s fun t => t.jobState pj = JS.ENDING) ∧
    (∀ f p, s.dueFragment x = some f → s.fragmentPlace x f.ticks = some p → s.reg Od.PREFLIGHT_EN = 1 →
      s.reg (csObj x) = CS.READY → k.pfRunning = none → s.gated x = false → s.reg Od.MODULE_STATE ≠ MS.LEAVING →
      (f.cls = 7 → (s.array (34 * x + a.val)).idle = true ∧ s.arrState (34 * x + a.val) ≠ AS.PROGRAMMING ∧
        s.arrState (34 * x + a.val) ≠ AS.RETIRED) →
      Does (.fragmentStart c a) s fun t => (t.cluster x).pfRunning = some ⟨s.now, p, a.val⟩ ∧
        t = { s with clusters := t.clusters } ∧ ∀ y, y ≠ x → t.cluster y = s.cluster y) ∧
    (s.dueFragment x = none → exec (.fragmentStart c a) s = .next s) ∧
    (∀ r f, k.pfRunning = some r → s.dueFragment x = some f →
      (s.now < r.start + f.ticks → exec (.fragmentEnd c sig bad rows) s = .next s) ∧
      (r.start + f.ticks ≤ s.now →
        (sig.toNat = f.sig → Does (.fragmentEnd c sig bad rows) s fun t => SameDies s t ∧ (t.cluster x).pfRunning = none ∧
          (t.cluster x).pfMismatch = false ∧ Store.get? (t.cluster x).pfPassed (0x10000 * k.pfPack + k.pfFrag) = some s.now) ∧
        (sig.toNat ≠ f.sig → k.pfMismatch = false → Does (.fragmentEnd c sig bad rows) s fun t => SameDies s t ∧
          (t.cluster x).pfRunning = none ∧ (t.cluster x).pfMismatch = true ∧ (t.cluster x).pfFrag = k.pfFrag) ∧
        (sig.toNat ≠ f.sig → k.pfMismatch = true →
          (f.cls ≠ 7 ∧ (f.cls ≠ 4 ∨ rows = true) → Does (.fragmentEnd c sig bad rows) s fun t =>
            t.reg (csObj x) = CS.RESET ∧ (t.cluster x).retireAfterReset.isSome = true) ∧
          (f.cls = 4 ∧ rows = false → Does (.fragmentEnd c sig bad rows) s fun t => SameDies s t ∧ (t.cluster x).pfRunning = none) ∧
          (f.cls = 7 → Does (.fragmentEnd c sig bad rows) s fun t => t.reg (arObj 0x26 9 (34 * x + r.array)) = 3 ∧ SameDies s t)))) ∧
    (∀ b, (s.job j).holdStart = some b →
      ((s.job j).alarmed = false → b + s.reg Od.HOLD_ALARM_TICKS ≤ s.now → Does (.holdStuck j) s fun t =>
        (t.job j).alarmed = true ∧ SameDies s t ∧ ∃ f ∈ t.faults, f.kind = 0xF ∧ f.unit = j) ∧
      ((s.job j).alarmed = true ∨ s.now < b + s.reg Od.HOLD_ALARM_TICKS → exec (.holdStuck j) s = .next s)) ∧
    (Writes s n (s.isOp n) →
      (v.toNat = 0 → exec (.heartbeat n v) s = .next (s.answers ⟨Code.RANGE_CONFLICT, 0xFF, []⟩)) ∧
      (v.toNat ≠ 0 → Does (.heartbeat n v) s fun t => t.answer = ⟨0, 0xFF, []⟩ ∧ t.reg Od.HEARTBEAT_CORES = 0 ∧
        t.hbPending = some v.toNat ∧ t.reg Od.HEARTBEAT = s.reg Od.HEARTBEAT)) ∧
    (s.fwStopped = false →
      let m := s.reg Od.HEARTBEAT_CORES ||| 2 ^ core.val
      (∀ y, s.hbPending = some y → m = 0xFF → Does (.serviceLoopDone core) s fun t => t.reg Od.HEARTBEAT = y ∧
        t.hbPending = none ∧ t.reg Od.HEARTBEAT_CORES = 0xFF) ∧
      (s.hbPending = none ∨ m ≠ 0xFF → exec (.serviceLoopDone core) s = .next (s.setReg Od.HEARTBEAT_CORES m)) ∧
      Does (.firmwareFault core kind pc addr) s fun t => t.fwStopped = true ∧ SameDies s t ∧
        ∃ f ∈ t.faults, f.kind = 0xE ∧ f.unit = core.val) ∧
    (s.fwStopped = true → exec (.serviceLoopDone core) s = .next s ∧ exec (.firmwareFault core kind pc addr) s = .next s)

/-- RESET_CLUSTER of a READY or RETENTION cluster takes it to RESET with both strands new and its SRAM clear, and is
refused above 1,535 or in another state; the end of the reset makes it READY, or RETIRED where that was to follow.
RESET_DIE resets every cluster of a compute die that is neither OFF nor RETIRED and counts the die's reset; of a port
die or HB it resets the module. RESET_MODULE closes every session and goes to LEAVING; after a firmware fault PH
resets 1 ms later. A module reset leaves no job, session, strand or SRAM byte, adds one to RESETS and records the
cause; MRST_N low gives cause 3 and bring-up starts again at its rise; a module that a trip has latched off stays so
until its rails are cycled. A committed dump is valid with its level and tick; one for the module is followed by the
departure, or by TRIPPED after a thermal trip. (spec/17_reliability.md; spec/18_power_clocks_thermal.md;
spec/20_package_bringup.md) -/
def Obligations.Resets : Prop :=
  ∀ (n : Nat) (v : BitVec 16) (c : ClusterId) (d : Byte) (k : Fin 16) (b : Bool) (s : State),
    let x := v.toNat
    let st := s.reg (csObj x)
    let lost (t : State) (cause seen : Nat) : Prop := t.jobs = [] ∧ t.sessions = [] ∧ t.strands = [] ∧ t.sram = [] ∧
      t.reg Od.RESETS = (s.reg Od.RESETS + 1) % 0x10000000000000000 ∧ t.reg Od.LAST_RESET_CAUSE = cause ∧
      t.reg Od.LAST_RESET_FORESEEN = seen
    (Writes s n (s.isOp n) →
      (1535 < x → exec (.resetCluster n v) s = .next (s.answers ⟨Code.RANGE_CONFLICT, 0xFF, []⟩)) ∧
      (x ≤ 1535 → st ≠ CS.READY → st ≠ CS.RETENTION →
        exec (.resetCluster n v) s = .next (s.answers ⟨Code.WRONG_STATE, st, []⟩)) ∧
      (x ≤ 1535 → st = CS.READY ∨ st = CS.RETENTION → Does (.resetCluster n v) s fun t => t.answer = ⟨0, 0xFF, []⟩ ∧
        t.reg (csObj x) = CS.RESET ∧ t.strand (2 * x) = Strand.new ∧ t.strand (2 * x + 1) = Strand.new ∧
        ∀ o, o < 2621440 → Mem.read t.sram (sramAt x o) = 0) ∧
      (19 < d.toNat → exec (.resetDie n d) s = .next (s.answers ⟨Code.RANGE_CONFLICT, 0xFF, []⟩)) ∧
      (d.toNat < 16 → Does (.resetDie n d) s fun t => t.answer = ⟨0, 0xFF, []⟩ ∧ t.reg (Od.DIE_RESET_STATE d.toNat) = 1 ∧
        ∀ i, i < 96 → s.reg (csObj (96 * d.toNat + i)) ≠ CS.OFF → s.reg (csObj (96 * d.toNat + i)) ≠ CS.RETIRED →
          t.reg (csObj (96 * d.toNat + i)) = CS.RESET) ∧
      (16 ≤ d.toNat → d.toNat ≤ 19 → Does (.resetDie n d) s fun t => t.answer = ⟨0, 0xFF, []⟩ ∧
        t.reg Od.MODULE_STATE = MS.LEAVING ∧ ∃ r ∈ t.resets, 3 ≤ r.level) ∧
      exec (.dumpClear n false) s = .next s.ok ∧
      exec (.dumpClear n true) s = .next (s.setReg Od.DUMP_VALID 0).ok) ∧
    (Writes s n (s.isOp n) → s.fwStopped = false →
      exec (.resetModule n false) s = .next s.ok ∧
      Does (.resetModule n true) s fun t => t.answer = ⟨0, 0xFF, []⟩ ∧ t.reg Od.MODULE_STATE = MS.LEAVING ∧
        (∀ i, (t.session i).isOpen = false) ∧ ∃ r ∈ t.resets, 3 ≤ r.level) ∧
    (s.fwStopped = true → (s.session n).isOpen = true → s.isOp n = true → s.bring.phReset = none →
      exec (.resetModule n true) s = .next { s with bring := { s.bring with phReset := some (s.now + 212500) } }) ∧
    (s.reg (csObj c.num) = CS.RESET → Does (.clusterResetDone c) s fun t =>
      t.reg (csObj c.num) = (if (s.cluster c.num).retireAfterReset.isSome then CS.RETIRED else CS.READY)) ∧
    (s.reg (csObj c.num) ≠ CS.RESET → exec (.clusterResetDone c) s = .next s) ∧
    exec (.dieResetDone k) s =
      .next (if s.reg (Od.DIE_RESET_STATE k.val) = 1 then s.setReg (Od.DIE_RESET_STATE k.val) 0 else s) ∧
    (∀ t cause, s.bring.departAt = some (t, cause) →
      (s.now < t → exec .departureWaitExpiry s = .next s) ∧
      (t ≤ s.now → Does .departureWaitExpiry s fun y => lost y cause 1)) ∧
    (∀ t, s.bring.phReset = some t →
      (s.now < t → exec .phResetTimeout s = .next s) ∧ (t ≤ s.now → Does .phResetTimeout s fun y => lost y 2 0)) ∧
    (s.bring.latched = false → s.bring.mrstN = true → s.bring.pwrgd = true →
      Does (.mrstN false) s (fun t => lost t 3 0 ∧ t.bring.mrstN = false ∧ t.reg Od.BOOT_STAGE = 0) ∧
      Does (.pwrgd false) s (fun t => lost t 4 0 ∧ t.bring.pwrgd = false ∧ t.reg Od.BOOT_STAGE = 0)) ∧
    (s.bring.latched = false → s.bring.mrstN = false → s.bring.pwrgd = true → Does (.mrstN true) s fun t =>
      t.bring.mrstN = true ∧ t.reg Od.BOOT_STAGE = 1 ∧ SameDies s t) ∧
    (s.bring.latched = true → s.bring.pwrgd = true →
      exec (.mrstN b) s = .next { s with bring := { s.bring with mrstN := b } }) ∧
    (s.bring.latched = true → Does (.pwrgd false) s fun t => lost t 4 0 ∧ t.bring.latched = false) ∧
    (s.resets = [] → exec .crashDumpCommitted s = .next s) ∧
    (∀ r rest, s.resets = r :: rest →
      (r.level < 3 → Does .crashDumpCommitted s fun t => t.resets = rest ∧ t.reg Od.DUMP_VALID = 1 ∧
        t.reg Od.DUMP_LEVEL = r.level ∧ t.reg Od.DUMP_TIME = s.now ∧ SameDies s t) ∧
      (3 ≤ r.level → s.bring.tripping = false → Does .crashDumpCommitted s fun t => t.resets = rest ∧
        (r.level = 3 → t.reg Od.DUMP_VALID = 1) ∧ t.bring.departAt = some (s.now + 2125, r.cause)) ∧
      (3 ≤ r.level → s.bring.tripping = true → Does .crashDumpCommitted s fun t => t.reg Od.THERMAL_STATE = 1 ∧
        t.reg Od.LAST_RESET_CAUSE = 5 ∧ t.now = s.now))

/-- Each bring-up event moves BOOT_STAGE to the next step from its own step only: host signal 1 to 2, CDR lock within 50
ms 2 to 3 with the reference in use, a timeout back to 1, the PLL lock 3 to 4; firmware boots to step 5 with recovery
at the links, or enters the rescue monitor where no slot verifies. Trims reloaded take recovery to the sweep, and a
swept array is not swept twice. The loss of the reference holds over, is counted, lets nothing new start on a cluster,
and 425,000 ticks later resets the module with cause 6, whose bring-up starts again at CDR lock.
(spec/17_reliability.md; spec/18_power_clocks_thermal.md; spec/20_package_bringup.md) -/
def Obligations.BringUp : Prop :=
  ∀ (d : Fin 16) (a b newest lock : Bool) (x : ArrayId) (te : BitVec 64) (zero : List (Nat × Int)) (err : Int) (ambig : Nat)
    (s : State),
    let stage := s.reg Od.BOOT_STAGE
    (stage = 1 → Does .hostSignal s fun t => t.reg Od.BOOT_STAGE = 2 ∧ t.bring.signalAt = s.now ∧ SameDies s t) ∧
    (stage ≠ 1 → exec .hostSignal s = .next s) ∧
    (stage = 2 →
      (s.now ≤ s.bring.signalAt + 10625000 → Does .cdrLock s fun t => t.reg Od.BOOT_STAGE = 3 ∧ t.reg Od.REF_STATE = 1 ∧
        t.reg Od.HOST_LINK_STATE = 1 ∧ t.reg Od.TIMING_ROOT = (if s.bring.strap.level then 1 else 0) ∧ SameDies s t) ∧
      (s.bring.signalAt + 10625000 < s.now → exec .cdrLock s = .next s) ∧
      exec .cdrLockTimeout s = .next (s.setReg Od.BOOT_STAGE 1)) ∧
    (stage ≠ 2 → exec .cdrLock s = .next s ∧ exec .cdrLockTimeout s = .next s) ∧
    (stage = 3 → Does (.pllStable none) s fun t => t.reg Od.BOOT_STAGE = 4 ∧ t.reg Od.REF_STATE = 2 ∧ SameDies s t) ∧
    (stage ≠ 3 → exec (.pllStable none) s = .next s) ∧
    (∀ opp, s.reg (Od.DIE_OPP d.val) = 0xFF → Store.get? s.oppTarget d.val = some opp → opp ≠ 0xFF →
      Does (.pllStable (some d)) s fun t => t.reg (Od.DIE_OPP d.val) = opp ∧ Store.get? t.oppTarget d.val = none ∧
        Store.get? t.volt d.val = some opp ∧ SameDies s t) ∧
    (s.reg (Od.DIE_OPP d.val) ≠ 0xFF → exec (.pllStable (some d)) s = .next s) ∧
    (stage ≠ 4 → exec (.hbBoot a b newest) s = .next s) ∧
    (stage = 4 →
      Does (.hbBoot false false newest) s (fun t => t.reg Od.BOOT_STAGE = 0x80 ∧ t.bring.rescue = true ∧ SameDies s t) ∧
      (a || b → Does (.hbBoot a b newest) s fun t => t.reg Od.BOOT_STAGE = 5 ∧ t.reg Od.RECOVERY_STATE = 1 ∧
        t.bring.slot = (if a && b then (if newest then 1 else 0) else if b then 1 else 0) ∧ SameDies s t)) ∧
    exec .trimsReloaded s = .next (if s.reg Od.RECOVERY_STATE = 2 then s.setReg Od.RECOVERY_STATE 3 else s) ∧
    (s.reg Od.RECOVERY_STATE ≠ 3 ∨ (s.array x.num).sweep = 1 → exec (.arraySweep x te zero err ambig) s = .next s) ∧
    (s.reg Od.RECOVERY_STATE = 3 → (s.array x.num).sweep ≠ 1 → Does (.arraySweep x te zero err ambig) s fun t =>
      (t.array x.num).sweep = 1 ∧ t.strands = s.strands ∧ t.sram = s.sram) ∧
    (s.refHold.isSome = true ∨ s.reg Od.REF_STATE ≠ 2 → exec (.refLoss lock) s = .next s) ∧
    (s.refHold = none → s.reg Od.REF_STATE = 2 → Does (.refLoss lock) s fun t => t.refHold = some s.now ∧
      t.reg Od.REF_STATE = 3 ∧ t.reg Od.REF_LOSSES = (s.reg Od.REF_LOSSES + 1) % 0x10000000000000000 ∧ SameDies s t ∧
      ∀ c, t.gated c = true) ∧
    (∀ t0, s.refHold = some t0 →
      (s.now < t0 + 425000 → exec .refHoldoverExpiry s = .next s) ∧
      (t0 + 425000 ≤ s.now → Does .refHoldoverExpiry s fun t => t.reg Od.LAST_RESET_CAUSE = 6 ∧
        t.reg Od.LAST_RESET_FORESEEN = 0 ∧ t.reg Od.BOOT_STAGE = 2 ∧ t.strands = [] ∧ t.sram = [] ∧ t.sessions = []))

/-- A die whose wanted point differs shows DIE_OPP FFh until its PLL is stable. An idle cluster enters RETENTION with its
two domains, and wakes READY for a flit, a transit or programming that is due, or at RETAIN_WAKE_S. A bias that is ON
drops to IDLE after 64 clocks without a command, and any other follows what the array is bound to. CL_PWR_REQ 1 is
LOCKED while the cluster holds a strand or weights and takes it OFF otherwise; 0 takes an OFF cluster to RESET.
FAB_PORT_PWR obeys the port's uses. At a window's end without a trip every compute die with a vent temperature gets
the ceiling of the rule; two plausible sensors above TRIP_TEMP trip the module into LEAVING and end every job.
THERMAL_RESTART is refused until a second has passed and HB and PH are cool. (spec/18_power_clocks_thermal.md) -/
def Obligations.Power : Prop :=
  ∀ (d : Fin 16) (c : ClusterId) (x : ArrayId) (n : Nat) (v : Byte) (p : Fin 6) (rs : List (Nat × Int)) (s : State),
    let want := s.oppWanted d.val
    let opp := s.reg (Od.DIE_OPP d.val)
    let st := s.reg (csObj c.num)
    let out (code x : Nat) : State := s.answers ⟨code, x, []⟩
    let got (e : Nat) : List (Nat × Int × Bool) :=
      if e < 16 ∧ s.reg (Od.RING_PWR e) = 2 then [] else judged (readingsOf rs e)
    (opp = want → opp ≠ 0xFF → exec (.oppChange d) s = .next s) ∧
    (opp ≠ want → Does (.oppChange d) s fun t => t.reg (Od.DIE_OPP d.val) = 0xFF ∧ Store.get? t.oppTarget d.val = some want ∧
      SameDies s t) ∧
    (∀ t, exec (.clusterRetention c) s = .next t → t.sram = s.sram ∧ t.strands = s.strands ∧
      (t.reg (csObj c.num) ≠ st → st = CS.READY ∧ t.reg (csObj c.num) = CS.RETENTION)) ∧
    (st = CS.READY → s.reg (Od.CL_PWR_REQ c.die.val c.k.val) = 0 → s.reg Od.RETAIN_IDLE_TICKS ≤ s.ticks - (s.cluster c.num).restFrom →
      s.strandState (2 * c.num) = SS.EMPTY ∨ s.strandState (2 * c.num) = SS.FROZEN →
      s.strandState (2 * c.num + 1) = SS.EMPTY ∨ s.strandState (2 * c.num + 1) = SS.FROZEN → s.arraysQuiet c.num = true →
      s.flitFor c.num = false → s.noArray c.num [AS.PROGRAMMING, AS.SHADOW] = true →
      (∀ a, a < 34 → s.seqState (34 * c.num + a) ≠ 1) → (s.cluster c.num).pfRunning = none → s.roundRun c.num = true →
      Does (.clusterRetention c) s fun t => t.reg (csObj c.num) = CS.RETENTION ∧
        t.reg (Od.CL_COMPUTE_PWR c.die.val c.k.val) = 1 ∧ t.reg (Od.CL_SRAM_PWR c.die.val c.k.val) = 1) ∧
    (st = CS.RETENTION → s.flitFor c.num = true ∨ (s.dueArray c.num).isSome = true ∨ (s.nextBlock c.num).isSome = true → Does (.clusterWake c) s fun t => t.reg (csObj c.num) = CS.READY ∧
      t.reg (Od.CL_COMPUTE_PWR c.die.val c.k.val) = 0 ∧ SameDies s t) ∧
    (st = CS.RETENTION → (s.cluster c.num).lastRound + 212500000 * s.reg Od.RETAIN_WAKE_S ≤ s.now →
      Does (.retainWakeExpiry c) s fun t => t.reg (csObj c.num) = CS.READY ∧ (t.cluster c.num).wakeAt = some s.now ∧ SameDies s t) ∧
    ((s.array x.num).bias = 2 → (s.array x.num).idle = true → (s.array x.num).runs = [] → (s.array x.num).biasFrom + 64 ≤ 8 * s.now →
      exec (.biasIdle x) s = .next (s.modArray x.num fun a => { a with bias := 1 })) ∧
    ((s.array x.num).bias ≠ 2 →
      exec (.biasIdle x) s = .next (s.modArray x.num fun a => { a with bias := if s.wantsBias x.num then 1 else 0 })) ∧
    (Writes s n (s.isOp n) →
      let busy := s.strandState (2 * c.num) ≠ SS.EMPTY ∨ s.strandState (2 * c.num + 1) ≠ SS.EMPTY ∨
        s.noArray c.num [AS.ACTIVE, AS.SHADOW, AS.PROGRAMMING] = false
      let crossed := s.jobs.any fun (e : Nat × Job) => e.2.ports.contains p.val &&
        (s.jobState e.1 == JS.BOUND || s.jobState e.1 == JS.ENABLED)
      (1 < v.toNat → exec (.clPwrReq n c v) s = .next (out Code.RANGE_CONFLICT 0xFF)) ∧
      (busy → exec (.clPwrReq n c 1) s = .next (out Code.LOCKED 0xFF)) ∧
      (¬ busy → st ≠ CS.RETIRED → Does (.clPwrReq n c 1) s fun t => t.answer = ⟨0, 0xFF, []⟩ ∧
        t.reg (Od.CL_PWR_REQ c.die.val c.k.val) = 1 ∧ t.reg (csObj c.num) = CS.OFF) ∧
      (st = CS.OFF → 5 ≤ s.reg Od.BOOT_STAGE → Does (.clPwrReq n c 0) s fun t => t.answer = ⟨0, 0xFF, []⟩ ∧
        t.reg (csObj c.num) = CS.RESET ∧ t.reg (Od.CL_COMPUTE_PWR c.die.val c.k.val) = 0) ∧
      (2 < v.toNat → exec (.fabPortPwr n p v) s = .next (out Code.RANGE_CONFLICT 0xFF)) ∧
      (crossed = true → exec (.fabPortPwr n p 1) s = .next (out Code.LOCKED 0xFF)) ∧
      (s.portState p.val = PT.UP ∨ s.portState p.val = PT.TRAINING → exec (.fabPortPwr n p 2) s = .next (out Code.LOCKED 0xFF)) ∧
      (v.toNat = 0 ∨ (v.toNat = 1 ∧ crossed = false) ∨
          (v.toNat = 2 ∧ (s.portState p.val = PT.DOWN ∨ s.portState p.val = PT.DARK)) →
        exec (.fabPortPwr n p v) s = .next (s.setReg (Od.FAB_PORT_PWR p.val) v.toNat).ok)) ∧
    (s.now % 0x10000 ≠ 0 ∨ s.bring.tripping = true → exec (.sensorWindow rs) s = .next s) ∧
    (s.now % 0x10000 = 0 → s.bring.tripping = false →
      ((∀ e, e < 20 → s.dieTrips (got e) = false) → ∀ tm, s.ventTemp (got d.val) = some tm →
        Does (.sensorWindow rs) s fun t => t.strands = s.strands ∧ t.sram = s.sram ∧ t.arrays = s.arrays ∧
          t.reg (Od.CEILING_NOW d.val) = ventCeiling (s.reg (Od.ACT_CEILING d.val)) (s.reg (Od.CEILING_NOW d.val))
            (s.reg Od.VENT_FLOOR_PCT) (s.reg Od.VENT_GAIN_PCT) (tm.1 - int16 (s.reg Od.VENT_SETPOINT)).toNat) ∧
      (∀ e, e < 20 → s.dieTrips (got e) = true → s.reg Od.THERMAL_STATE ≠ 1 → Does (.sensorWindow rs) s fun t =>
        t.reg Od.MODULE_STATE = MS.LEAVING ∧ t.bring.tripping = true ∧ (∀ i, (t.session i).isOpen = false) ∧
        (∀ j ∈ s.jobs.map Prod.fst, s.jobState j = JS.BOUND ∨ s.jobState j = JS.ENABLED → t.jobState j = JS.ENDING) ∧
        ∃ r ∈ t.resets, 3 ≤ r.level)) ∧
    (s.reg Od.THERMAL_STATE = 1 → s.silent = false → s.isOp n = true →
      (s.now < s.bring.tripAt + 212500000 ∨ s.cool = false →
        exec (.thermalRestart n true) s = .next (out Code.WRONG_STATE 1)) ∧
      (s.bring.tripAt + 212500000 ≤ s.now → s.cool = true → Does (.thermalRestart n true) s fun t =>
        t.answer = ⟨0, 0xFF, []⟩ ∧ t.reg Od.THERMAL_STATE = 0 ∧ t.reg Od.RECOVERY_STATE = 1 ∧ t.reg Od.BOOT_STAGE = 5))

/-- OPERATOR_KEY is stored and cannot be replaced over the Zenith line; a tenant key makes its tenant exist, and a tenant
that owns nothing is deleted, tenant 0 never. UPDATE_DATA takes 4,096 bytes at UPDATE_OFFSET. UPDATE_COMMIT refuses a
bad layout, a bad signature with a fault record, and an older version, and otherwise stores the item's version.
ATTEST_SIGN and KEM_ROTATE spend a signature each and are LOCKED without one, ATTEST_SIGN also within ATTEST_MIN_S. A
model key is held once under its handle for a privileged tenant, and is deleted unless a LOADING version uses it.
(spec/19_security.md) -/
def Obligations.Security : Prop :=
  ∀ (n : Nat) (key : BitVec 256) (tn : Fin 1024) (b : List Byte) (sigOk tagOk : Bool) (pack : List (Nat × Nat × Nat)) (h : Word)
    (s : State),
    let x := s.security
    let out (code : Nat) : State := s.answers ⟨code, 0xFF, []⟩
    let good (t : State) : Prop := t.answer = ⟨0, 0xFF, []⟩ ∧ SameDies s t
    (Writes s n (s.isOp n) →
      (n = zenith → s.reg Od.OPERATOR_KEY_SET = 1 → exec (.operatorKey n key) s = .next (out Code.LOCKED)) ∧
      (n ≠ zenith ∨ s.reg Od.OPERATOR_KEY_SET ≠ 1 → Does (.operatorKey n key) s fun t => good t ∧
        t.security.operatorKey = leBytes 32 key.toNat ∧ t.reg Od.OPERATOR_KEY_SET = 1) ∧
      Does (.tenantKey n tn key) s (fun t => good t ∧ t.reg (Od.TENANT_STATE tn.val) = 1 ∧
        Store.get? t.security.tenantKeys tn.val = some (leBytes 32 key.toNat)) ∧
      exec (.tenantDelete n tn false) s = .next s.ok ∧
      (tn.val = 0 ∨ s.tenantOwns tn.val = true → exec (.tenantDelete n tn true) s = .next (out Code.LOCKED)) ∧
      (tn.val ≠ 0 → s.tenantOwns tn.val = false → Does (.tenantDelete n tn true) s fun t => good t ∧
        t.reg (Od.TENANT_STATE tn.val) = 0 ∧ Store.get? t.security.tenantKeys tn.val = none) ∧
      (b.length ≠ 4096 → exec (.updateData n b) s = .next (out Code.TYPE_CONFLICT)) ∧
      (b.length = 4096 → Does (.updateData n b) s fun t => good t ∧ t.regs = s.regs ∧
        ∀ i, i < 4096 → Store.get? t.security.staged (s.reg (Od.UPDATE_OFFSET n) + i) = b[i]?) ∧
      (let kind := leNat (x.stagedAt 4 1)
       let item := leNat (x.stagedAt 5 1)
       let bad := (!x.layoutOk || (kind == 1 && !pack.all fragmentOk)) = true
       exec (.updateCommit n false sigOk pack) s = .next s.ok ∧
       (bad → exec (.updateCommit n true sigOk pack) s = .next (out Code.BAD_IMAGE)) ∧
       (¬ bad → Does (.updateCommit n true false pack) s fun t => t.answer = ⟨Code.SIGNATURE_FAIL, 0xFF, []⟩ ∧
         (∃ f ∈ t.faults, f.kind = 0x201) ∧ t.security.items = x.items ∧ SameDies s t) ∧
       (¬ bad → leNat (x.stagedAt 8 4) < s.reg (Od.ITEM_VERSION (itemSel kind item)) →
         exec (.updateCommit n true true pack) s = .next (out Code.VERSION_MISMATCH)) ∧
       (¬ bad → s.reg (Od.ITEM_VERSION (itemSel kind item)) ≤ leNat (x.stagedAt 8 4) →
         Does (.updateCommit n true true pack) s fun t => good t ∧
           t.reg (Od.ITEM_VERSION (itemSel kind item)) = leNat (x.stagedAt 8 4))) ∧
      exec (.kemRotate n false) s = .next s.ok ∧
      (s.reg Od.SIGNS_LEFT = 0 → exec (.kemRotate n true) s = .next (out Code.LOCKED)) ∧
      (s.reg Od.SIGNS_LEFT ≠ 0 → Does (.kemRotate n true) s fun t => good t ∧
        t.reg Od.SIGNS_LEFT = s.reg Od.SIGNS_LEFT - 1 ∧ t.reg Od.SIGN_INDEX = s.reg Od.SIGN_INDEX + 1)) ∧
    (Writes s n true →
      let soon := ∃ t0, x.lastSign = some t0 ∧ s.now < t0 + 212500000 * s.reg Od.ATTEST_MIN_S
      exec (.attestSign n false) s = .next s.ok ∧
      (soon ∨ s.reg Od.SIGNS_LEFT = 0 → exec (.attestSign n true) s = .next (out Code.LOCKED)) ∧
      (¬ soon → s.reg Od.SIGNS_LEFT ≠ 0 → Does (.attestSign n true) s fun t => good t ∧
        t.reg Od.SIGNS_LEFT = s.reg Od.SIGNS_LEFT - 1 ∧ t.security.lastSign = some s.now) ∧
      let a := s.actor n
      let hd := leNat (b.take 4)
      (b.length ≠ 1620 → exec (.keyInstall n b tagOk) s = .next (out Code.TYPE_CONFLICT)) ∧
      (b.length = 1620 →
        (s.reg (Od.TENANT_PRIVILEGED a) = 0 → exec (.keyInstall n b tagOk) s = .next (out Code.AUTH_FAIL)) ∧
        (s.reg (Od.TENANT_PRIVILEGED a) ≠ 0 →
          (hd = 0 ∨ (s.keyEntry a hd).isSome = true → exec (.keyInstall n b tagOk) s = .next (out Code.RANGE_CONFLICT)) ∧
          (hd ≠ 0 → s.keyEntry a hd = none →
            ((∀ k, k < 256 → s.reg (Od.KEY_STATE k) ≠ 0) → exec (.keyInstall n b tagOk) s = .next (out Code.DOES_NOT_FIT)) ∧
            (∀ k, ((List.range 256).find? fun k => s.reg (Od.KEY_STATE k) == 0) = some k →
              exec (.keyInstall n b false) s = .next (out Code.DECRYPT_FAIL) ∧
              Does (.keyInstall n b true) s fun t => good t ∧ t.reg (Od.KEY_STATE k) = 1 ∧ t.reg (Od.KEY_TENANT k) = a ∧
                t.reg (Od.KEY_HANDLE k) = hd)))) ∧
      (s.keyEntry a h.toNat = none → exec (.keyDelete n h) s = .next (out Code.MISSING_OBJECT)) ∧
      (∀ k, s.keyEntry a h.toNat = some k →
        let busy := (List.range 16).any fun e => s.verState e == VS.LOADING && s.reg (Od.VER_TENANT e) == a &&
          s.reg (Od.VER_KEY e) == h.toNat
        (busy = true → exec (.keyDelete n h) s = .next (out Code.LOCKED)) ∧
        (busy = false → Does (.keyDelete n h) s fun t => good t ∧ t.reg (Od.KEY_STATE k) = 0 ∧
          Store.get? t.security.modelKeys k = none)))

/-- An I2C read answers as many bytes as asked, FFh beyond 7Fh and LAST_RESET_CAUSE at 22h; a write changes nothing but
takes the answer away. A new TIMING_ROOT level is read once it has held for 212,500 ticks. DBG_STOP of an ENABLED job
with JOB_DEBUG schedules the stop two ticks ahead on one module, and is refused with the state of the strands where
they are in DEBUG already; at its tick every RUNNING, HELD or FROZEN strand of the job enters DEBUG. DBG_STEP is
refused outside DEBUG and above 3,071, and otherwise issues the instruction at the program counter; a wait whose
condition is false returns without issuing. DBG_RESUME takes every strand of the job out of DEBUG. Register objects
are read and written only in DEBUG: s0 and p0 are refused, and a written word is clean. (spec/05_clusters.md;
spec/06_cluster_isa.md; spec/20_package_bringup.md) -/
def Obligations.DebugAndPins : Prop :=
  ∀ (off : BitVec 8) (len n j x : Nat) (b : Byte) (v : Bool) (w : BitVec 16) (ph : Phys) (r : DbgReg) (s : State),
    let strap := s.bring.strap
    let jd := s.reg (Od.DBG_JOB n)
    let u := s.reg (Od.DBG_CL_SEL n)
    let rs := s.reg (Od.DBG_REG_SEL n)
    let out (code st : Nat) : State := s.answers ⟨code, st, []⟩
    Does (.i2cRead off len) s (fun t => t = { s with i2c := t.i2c } ∧ ∃ l, t.i2c = some l ∧ l.length = len ∧
      (∀ i, i < len → 128 ≤ off.toNat + i → l[i]? = some 0xFF) ∧
      (∀ i, i < len → off.toNat + i = 34 → l[i]? = some (BitVec.ofNat 8 (s.reg Od.LAST_RESET_CAUSE)))) ∧
    exec (.i2cWrite b) s = .next { s with i2c := none } ∧
    (strap.level ≠ v → exec (.timingRoot v) s = .next { s with bring := { s.bring with strap := ⟨v, s.now⟩ } }) ∧
    (strap.level = v →
      (3 ≤ s.reg Od.BOOT_STAGE → strap.since + 212500 ≤ s.now →
        exec (.timingRoot v) s = .next (s.setReg Od.TIMING_ROOT (if v then 1 else 0))) ∧
      (s.reg Od.BOOT_STAGE < 3 ∨ s.now < strap.since + 212500 → exec (.timingRoot v) s = .next s)) ∧
    (Writes s n (s.mayDebug n jd) →
      exec (.dbgStop n false) s = .next s.ok ∧ exec (.dbgResume n false) s = .next s.ok ∧
      (s.jobState jd ≠ JS.ENABLED → exec (.dbgStop n true) s = .next (out Code.WRONG_STATE (s.jobStrandState jd))) ∧
      (s.jobState jd = JS.ENABLED →
        (s.reg (Od.JOB_DEBUG jd) ≠ 1 → exec (.dbgStop n true) s = .next (out Code.LOCKED 0xFF)) ∧
        (s.reg (Od.JOB_DEBUG jd) = 1 → s.jobStrandState jd = SS.DEBUG →
          exec (.dbgStop n true) s = .next (out Code.WRONG_STATE SS.DEBUG)) ∧
        (s.reg (Od.JOB_DEBUG jd) = 1 → s.jobStrandState jd ≠ SS.DEBUG → (s.job jd).dbgStopAt = none → (∀ m ∈ s.jobModules jd, m = s.coord) →
          Does (.dbgStop n true) s fun t => t.answer = ⟨0, 0xFF, []⟩ ∧ (t.job jd).dbgStopAt = some (s.now + 2) ∧ SameDies s t)) ∧
      ((∀ y ∈ s.jobStrands jd, y < 3072) → (∃ y ∈ s.jobStrands jd, s.strandState y = SS.DEBUG) → Does (.dbgResume n true) s fun t =>
        t.answer = ⟨0, 0xFF, []⟩ ∧ t.arrays = s.arrays ∧ t.sram = s.sram ∧ ∀ y ∈ s.jobStrands jd, t.strandState y ≠ SS.DEBUG)) ∧
    (s.jobState j ≠ JS.ENABLED → exec (.debugEntry j none) s = .next s) ∧
    (s.jobState j = JS.ENABLED →
      (∀ at', Does (.debugEntry j (some at')) s fun t =>
        (t.job j).dbgStopAt = some ((s.job j).dbgStopAt.getD at') ∧ t = { s with jobs := t.jobs }) ∧
      (∀ at', (s.job j).dbgStopAt = some at' →
        (s.now < at' → exec (.debugEntry j none) s = .next s) ∧
        (at' ≤ s.now → (∀ y ∈ s.jobStrands j, y < 3072) → Does (.debugEntry j none) s fun t => (t.job j).dbgStopAt = none ∧ t.sram = s.sram ∧
          ∀ y ∈ s.jobStrands j, s.strandState y = SS.RUNNING ∨ s.strandState y = SS.HELD ∨ s.strandState y = SS.FROZEN →
            t.strandState y = SS.DEBUG ∧ (t.strand y).pc = (s.strand y).pc))) ∧
    (Writes s n (s.mayDebug n (s.strandJob w.toNat)) →
      let at' := s.modStrand w.toNat fun t => { t with stepping := true }
      let i : Issue := ⟨strandIdOf w.toNat, ph⟩
      let word := (Store.get 0 (s.strand w.toNat).imem (s.strand w.toNat).pc).toNat
      (3071 < w.toNat → exec (.dbgStep n w ph x) s = .next (out Code.RANGE_CONFLICT 0xFF)) ∧
      (w.toNat ≤ 3071 → s.strandState w.toNat ≠ SS.DEBUG →
        exec (.dbgStep n w ph x) s = .next (out Code.WRONG_STATE (s.strandState w.toNat))) ∧
      (w.toNat ≤ 3071 → s.strandState w.toNat = SS.DEBUG →
        (decodeWord i x word = none → exec (.dbgStep n w ph x) s = .next (out Code.ILLEGAL_INSTRUCTION 0xFF)) ∧
        (∀ k t, decodeWord i x word = some k → isWait k = false → at'.instruction k = .next t →
          exec (.dbgStep n w ph x) s = .next ({ t.closeAll with answer := ⟨0, 0xFF, []⟩ })) ∧
        (∀ k t, decodeWord i x word = some k → isWait k = true → at'.instruction k = .next t →
          let left := t.modStrand w.toNat fun q => { q with stepping := false, stall := (s.strand w.toNat).stall }
          exec (.dbgStep n w ph x) s =
            .next ({ (if (t.strand w.toNat).stepping then left else t).closeAll with answer := ⟨0, 0xFF, []⟩ })))) ∧
    (Writes s n (s.mayDebug n (s.strandJob u)) →
      (s.strandState u ≠ SS.DEBUG →
        exec (.dbgRegisterAccess n r (some x)) s = .next (out Code.WRONG_STATE (s.strandState u)) ∧
        exec (.dbgRegisterAccess n r none) s = .next (out Code.WRONG_STATE (s.strandState u))) ∧
      (s.strandState u = SS.DEBUG →
        (x ≤ 8191 → Does (.dbgRegisterAccess n .pc (some x)) s fun t => t.answer = ⟨0, 0xFF, []⟩ ∧ (t.strand u).pc = x ∧
          (t.strand u).stall = none ∧ t.sram = s.sram ∧ ∀ y, y ≠ u → t.strand y = s.strand y) ∧
        (8191 < x → exec (.dbgRegisterAccess n .pc (some x)) s = .next (out Code.RANGE_CONFLICT 0xFF)) ∧
        exec (.dbgRegisterAccess n .pc none) s = .next (s.answers ⟨0, 0xFF, leBytes 2 (s.strand u).pc⟩) ∧
        (r ≠ .preg ∨ rs ≤ 7 → exec (.dbgRegisterAccess n r none) s = .next (s.answers ⟨0, 0xFF, s.dbgRead n r⟩)) ∧
        (7 < rs → exec (.dbgRegisterAccess n .preg (some x)) s = .next (out Code.RANGE_CONFLICT 0xFF) ∧
          exec (.dbgRegisterAccess n .preg none) s = .next (out Code.RANGE_CONFLICT 0xFF)) ∧
        (rs = 0 → exec (.dbgRegisterAccess n .sreg (some x)) s = .next (out Code.RANGE_CONFLICT 0xFF) ∧
          exec (.dbgRegisterAccess n .preg (some x)) s = .next (out Code.RANGE_CONFLICT 0xFF)) ∧
        (0 < rs → rs < 32 → exec (.dbgRegisterAccess n .sreg (some x)) s =
          .next (s.modStrand u fun t => t.setS (Fin.ofNat 32 rs) ⟨BitVec.ofNat 32 x, false⟩).ok) ∧
        (0 < rs → rs < 8 → exec (.dbgRegisterAccess n .preg (some x)) s =
          .next (s.modStrand u fun t => t.setP (Fin.ofNat 8 rs) ⟨BitVec.ofNat 256 x, 0⟩).ok) ∧
        Does (.dbgRegisterAccess n .vreg (some x)) s (fun t => t.answer = ⟨0, 0xFF, []⟩ ∧ t.sram = s.sram ∧
          ∀ i : Fin 256, ((t.strand u).v rs)[i] = ⟨BitVec.ofNat 32 (x / 2 ^ (32 * i.val)), false⟩) ∧
        Does (.dbgRegisterAccess n .sram (some x)) s (fun t => t.answer = ⟨0, 0xFF, []⟩ ∧ t.strands = s.strands ∧
          t.arrays = s.arrays ∧ ∀ a, a < sramAt (clOf u) (4096 * (s.reg (Od.DBG_SRAM_OFFSET n) / 4096)) ∨
            sramAt (clOf u) (4096 * (s.reg (Od.DBG_SRAM_OFFSET n) / 4096)) + 4096 ≤ a →
            Mem.read t.sram a = Mem.read s.sram a)))

/-- ECL_MODE 1 arms the next tick and ECL_MODE 3 the input pin, each refused with RANGE_CONFLICT while the scope is a
slice; ECL_MODE 2 arms ECL_TICK, refused when it is past; ECL_MODE 0 disarms. A tick that another module arms is
taken, late where it is past. A rise of EC_IN while armed latches two ticks later. The eclipse latches a snapshot with
the first trigger due, raises EC_OUT for 8 ticks and goes to COLLECTING; while one is collected, or a VALID one is
locked, every trigger due is counted as missed. A snapshot collected is VALID with its length, tick and trigger.
(spec/20_package_bringup.md) -/
def Obligations.Eclipses : Prop :=
  ∀ (n tick : Nat) (v : Bool) (s : State),
    let off := { s with ecl := { s.ecl with nowAt := none }, bring := { s.bring with ecEdge := none } }
    let slice := s.reg Od.ECL_SCOPE = 1
    let range := s.answers ⟨Code.RANGE_CONFLICT, 0xFF, []⟩
    (Writes s n (s.isOp n) →
      exec (.eclOff n) s = .next (off.setReg Od.ECL_MODE 0).ok ∧
      (slice → exec (.eclNow n) s = .next range ∧ exec (.eclExternal n) s = .next range) ∧
      (¬ slice →
        Does (.eclNow n) s (fun t => t.answer = ⟨0, 0xFF, []⟩ ∧ t.reg Od.ECL_MODE = 1 ∧ t.ecl.nowAt = some (s.now + 1) ∧ SameDies s t) ∧
        exec (.eclExternal n) s = .next (off.setReg Od.ECL_MODE 3).ok) ∧
      (s.reg Od.ECL_TICK < s.now → exec (.eclAtTick n) s = .next range) ∧
      (s.now ≤ s.reg Od.ECL_TICK →
        (¬ slice → exec (.eclAtTick n) s = .next (off.setReg Od.ECL_MODE 2).ok) ∧
        (slice → s.sliceOf (s.reg Od.ECL_SLICE) = none →
          exec (.eclAtTick n) s = .next (s.answers ⟨Code.MISSING_OBJECT, 0xFF, []⟩)) ∧
        (slice → ∀ k, s.sliceOf (s.reg Od.ECL_SLICE) = some k → Does (.eclAtTick n) s fun t =>
          t.answer = ⟨0, 0xFF, []⟩ ∧ t.reg Od.ECL_MODE = 2 ∧ SameDies s t ∧
          ∀ m ∈ (s.box k).modules, m ≠ s.coord → ∃ q ∈ t.notices, q.dst = m ∧ q.kind = 18 ∧ q.body = [s.reg Od.ECL_TICK]))) ∧
    (s.silent = false → Does (.eclRemoteArm tick) s fun t => t = { s with ecl := t.ecl } ∧
      t.ecl.remote = (if tick < s.now then some (s.now, true) else some (tick, false))) ∧
    Does (.ecIn v) s (fun t => t.bring.ecIn = v ∧ t = { s with bring := t.bring } ∧
      t.bring.ecEdge = (if v = true ∧ s.bring.ecIn = false ∧ s.reg Od.ECL_MODE = 3 then some (s.now + 2) else s.bring.ecEdge)) ∧
    (s.triggers = [] → exec .eclipse s = .next s) ∧
    (∀ g more, s.triggers = g :: more →
      let busy := s.reg Od.ECL_STATE = 1 ∨ (s.reg Od.ECL_LOCK = 1 ∧ s.reg Od.ECL_STATE = 2)
      (busy → s.reg Od.ECL_MISSED + more.length + 1 < 0x1000000000000 → Does .eclipse s fun t =>
        t.reg Od.ECL_MISSED = s.reg Od.ECL_MISSED + more.length + 1 ∧ t.reg Od.ECL_STATE = s.reg Od.ECL_STATE ∧
        t.snapshot = s.snapshot ∧ t.triggers = [] ∧ SameDies s t) ∧
      (¬ busy → Does .eclipse s fun t => t.reg Od.ECL_STATE = 1 ∧ t.reg Od.SNAP_LEN = 0 ∧ t.snapshot = [] ∧
        t.bring.ecOutUntil = s.now + 8 ∧ t.triggers = [] ∧ SameDies s t ∧
        t.ecl.held = some (s.snapBytes g (if g = 4 ∨ g = 0x84 then 1 else s.reg Od.ECL_SCOPE), s.now, g))) ∧
    (∀ b at' g, s.ecl.held = some (b, at', g) → s.reg Od.ECL_STATE = 1 → Does .snapshotCollected s fun t =>
      t.reg Od.ECL_STATE = 2 ∧ t.reg Od.SNAP_LEN = 4348464 ∧ t.reg Od.SNAP_TIME = at' ∧ t.reg Od.SNAP_TRIGGER = g ∧
      t.snapshot = b ∧ t.ecl.held = none ∧ SameDies s t) ∧
    (s.ecl.held = none → exec .snapshotCollected s = .next s)

/-- A command above ZENITH_MODE is answered LOCKED, and RESCUE serves id, baud, log and upd only. id, rd, ds, nx, log and
snap change nothing and answer the identity, the entry, its descriptor, the next address, the latest fault records and
the snapshot's bytes; baud sets a rate in its range. wr is a WRITE entry of an operator session; stop, go, step, sync,
ecl, key and upd act as the objects that they stand for; in RESCUE a firmware commit that passes resets the module
(the cause that it records is the model's reading, log entry 53). (spec/20_package_bringup.md) -/
def Obligations.ZenithMonitor : Prop :=
  ∀ (rate k off len : Nat) (idx : BitVec 16) (sub b : Byte) (val : List Byte) (f : Found) (w : Word) (u : StrandId) (ph : Phys)
    (x tick : Nat) (c : ClusterId) (key : BitVec 256) (phs : List (Phys × Nat)) (pack : List (Nat × Nat × Nat)) (s : State),
    let mode := s.reg Od.ZENITH_MODE
    let ans (v : List Byte) : Out := .next (s.answers ⟨0, 0xFF, v⟩)
    let out (code : Nat) : Out := .next (s.answers ⟨code, 0xFF, []⟩)
    let j := b.toNat
    let awake := s.silent = false ∧ s.bring.rescue = false ∧ 5 ≤ s.reg Od.BOOT_STAGE ∧ s.bring.closing = none
    let full := awake ∧ 2 ≤ mode ∧ s.reg Od.THERMAL_STATE ≠ 1 ∧ s.reg Od.MODULE_STATE ≠ MS.LEAVING
    (s.silent = false → s.bring.rescue = true → s.bring.closing = none →
      exec (.zenithRd idx sub) s = .next s ∧ exec (.zenithWr idx sub val f) s = .next s ∧ exec (.zenithStop b) s = .next s ∧
      (9600 ≤ rate → rate ≤ 3000000 → exec (.zenithBaud rate) s = .next (s.setReg Od.ZENITH_BAUD rate).ok) ∧
      (2 ≤ mode → s.reg Od.THERMAL_STATE ≠ 1 → s.reg Od.MODULE_STATE ≠ MS.LEAVING → s.security.layoutOk = true →
        leNat (s.security.stagedAt 4 1) = 0 → s.reg (Od.ITEM_VERSION 0) ≤ leNat (s.security.stagedAt 8 4) →
        Does (.zenithUpd (.commit true pack)) s fun t => t.answer = ⟨0, 0xFF, []⟩ ∧ t.reg Od.LAST_RESET_CAUSE = 1 ∧
          t.bring.rescue = false)) ∧
    (awake →
      (mode < 1 → exec (.zenithRd idx sub) s = out Code.LOCKED ∧ exec (.zenithLog k) s = out Code.LOCKED ∧
        exec (.zenithSnap off len) s = out Code.LOCKED) ∧
      (mode < 2 → exec (.zenithWr idx sub val f) s = out Code.LOCKED ∧ exec (.zenithKey key) s = out Code.LOCKED ∧
        exec (.zenithEcl .now) s = out Code.LOCKED ∧ exec (.zenithGo b) s = out Code.LOCKED) ∧
      Does .zenithId s (fun t => ∃ l, t = s.answers ⟨0, 0xFF, l ++ leBytes 1 s.bootStage ++ leBytes 8 (s.reg Od.RESETS)⟩) ∧
      (9600 ≤ rate → rate ≤ 3000000 → exec (.zenithBaud rate) s = .next (s.setReg Od.ZENITH_BAUD rate).ok) ∧
      (rate < 9600 ∨ 3000000 < rate → exec (.zenithBaud rate) s = out Code.RANGE_CONFLICT) ∧
      (1 ≤ mode →
        exec (.zenithRd 0x8000 3) s = ans (leBytes 4 (s.reg Od.HOLD_ALARM_TICKS)) ∧
        (Od.implemented idx.toNat sub.toNat = false → exec (.zenithRd idx sub) s = out Code.MISSING_OBJECT ∧
          exec (.zenithDs idx sub) s = out Code.MISSING_OBJECT) ∧
        (Od.implemented idx.toNat sub.toNat = true → exec (.zenithDs idx sub) s = ans (Od.descriptor idx.toNat sub.toNat)) ∧
        Does (.zenithRd idx sub) s (fun t => t = { s with answer := t.answer }) ∧
        Does (.zenithNx idx sub) s (fun t => t.answer.status = 0 ∧ t.answer.value.length = 4 ∧ t = { s with answer := t.answer }) ∧
        (1 ≤ k → k ≤ 64 → exec (.zenithLog k) s = ans ((s.faults.take k).flatMap FaultRec.bytes)) ∧
        (k = 0 ∨ 64 < k → exec (.zenithLog k) s = out Code.RANGE_CONFLICT) ∧
        (off + len ≤ s.reg Od.SNAP_LEN → exec (.zenithSnap off len) s = ans (slice s.snapshot off len)) ∧
        (s.reg Od.SNAP_LEN < off + len → exec (.zenithSnap off len) s = out Code.RANGE_CONFLICT))) ∧
    (full →
      (2125 ≤ w.toNat → w.toNat < 0x80000000 → exec (.zenithWr 0x8000 3 (leBytes 4 w.toNat) f) s =
        .next (s.setTicked Od.HOLD_ALARM_TICKS w.toNat).ok) ∧
      (w.toNat < 2125 → exec (.zenithWr 0x8000 3 (leBytes 4 w.toNat) f) s = out Code.RANGE_CONFLICT) ∧
      (Od.implemented idx.toNat sub.toNat = false → exec (.zenithWr idx sub val f) s = out Code.MISSING_OBJECT) ∧
      (j ≤ 64 → s.jobState j = JS.ENABLED → s.reg (Od.JOB_DEBUG j) = 1 → s.jobStrandState j ≠ SS.DEBUG → (s.job j).dbgStopAt = none →
        (∀ m ∈ s.jobModules j, m = s.coord) → Does (.zenithStop b) s fun t => t.answer = ⟨0, 0xFF, []⟩ ∧
          (t.job j).dbgStopAt = some (s.now + 2) ∧ SameDies s t) ∧
      (j ≤ 64 → (∀ y ∈ s.jobStrands j, y < 3072) → (∃ y ∈ s.jobStrands j, s.strandState y = SS.DEBUG) → Does (.zenithGo b) s fun t =>
        t.answer = ⟨0, 0xFF, []⟩ ∧ ∀ y ∈ s.jobStrands j, t.strandState y ≠ SS.DEBUG) ∧
      (phs = [] ∨ 1000 < phs.length → exec (.zenithStep u phs) s = out Code.RANGE_CONFLICT) ∧
      (∀ i t, s.strandState u.num = SS.DEBUG →
        decodeWord ⟨u, ph⟩ x (Store.get 0 (s.strand u.num).imem (s.strand u.num).pc).toNat = some i → isWait i = false →
        (s.modStrand u.num fun q => { q with stepping := true }).instruction i = .next t →
        exec (.zenithStep u [(ph, x)]) s = .next ({ t.closeAll with answer := ⟨0, 0xFF, []⟩ })) ∧
      (b.toNat < 48 → ∀ o, s.ownerOf c.num b.toNat = some o → s.strandState o = SS.DEBUG → Does (.zenithSync c b (some w)) s fun t =>
        t.answer = ⟨0, 0xFF, []⟩ ∧ t.reg (syObj c.num b.toNat 3) = w.toNat) ∧
      Does (.zenithEcl .off) s (fun t => t.answer = ⟨0, 0xFF, []⟩ ∧ t.reg Od.ECL_MODE = 0 ∧ t.ecl.nowAt = none) ∧
      Does (.zenithEcl .now) s (fun t => t.answer = ⟨0, 0xFF, []⟩ ∧ t.reg Od.ECL_MODE = 1 ∧ t.ecl.nowAt = some (s.now + 1)) ∧
      Does (.zenithEcl .ext) s (fun t => t.answer = ⟨0, 0xFF, []⟩ ∧ t.reg Od.ECL_MODE = 3) ∧
      (s.now ≤ tick → tick < 0x10000000000000000 → Does (.zenithEcl (.at' tick none)) s fun t =>
        t.answer = ⟨0, 0xFF, []⟩ ∧ t.reg Od.ECL_MODE = 2 ∧ t.reg Od.ECL_TICK = tick) ∧
      (s.now ≤ tick → tick < 0x10000000000000000 →
        (s.sliceOf w.toNat = none → Does (.zenithEcl (.at' tick (some w.toNat))) s fun t => t.answer = ⟨Code.MISSING_OBJECT, 0xFF, []⟩) ∧
        (∀ q, s.sliceOf w.toNat = some q → Does (.zenithEcl (.at' tick (some w.toNat))) s fun t => t.answer = ⟨0, 0xFF, []⟩ ∧
          t.reg Od.ECL_MODE = 2 ∧ t.reg Od.ECL_TICK = tick ∧ t.reg Od.ECL_SLICE = w.toNat)) ∧
      (s.security.layoutOk = false → exec (.zenithUpd (.commit true pack)) s = out Code.BAD_IMAGE) ∧
      (s.reg Od.OPERATOR_KEY_SET = 1 → exec (.zenithKey key) s = out Code.LOCKED) ∧
      (s.reg Od.OPERATOR_KEY_SET ≠ 1 → Does (.zenithKey key) s fun t => t.answer = ⟨0, 0xFF, []⟩ ∧
        t.reg Od.OPERATOR_KEY_SET = 1 ∧ t.security.operatorKey = leBytes 32 key.toNat) ∧
      (val.length = 4096 → w.toNat % 4096 = 0 → w.toNat + 4096 ≤ 0x1000000 → Does (.zenithUpd (.data w.toNat val)) s fun t =>
        t.answer = ⟨0, 0xFF, []⟩ ∧ ∀ i, i < 4096 → Store.get? t.security.staged (w.toNat + i) = val[i]?))
end

