-- ==== Sys2Proof/Laws/Store.lean ====
section
/-!
SUPPORT. Laws of the sparse tables and of byte memory: what is read after a write, and that every operation keeps the
canonical form.
-/
namespace Sys2Proof.Machine

/-! ## Tables -/

theorem Store.get?_set_same {α : Type} (m : Store α) (k : Nat) (v : α) : Store.get? (Store.set m k v) k = some v := by
  induction m with
  | nil => simp [Store.set, Store.get?]
  | cons e t ih =>
    obtain ⟨k', v'⟩ := e
    unfold Store.set
    split
    · simp [Store.get?]
    · split
      · simp [Store.get?]
      · rename_i h
        simp [Store.get?, h, ih]

theorem Store.get?_set_other {α : Type} (m : Store α) {k k' : Nat} (v : α) (h : k' ≠ k) :
    Store.get? (Store.set m k v) k' = Store.get? m k' := by
  induction m with
  | nil => simp [Store.set, Store.get?, h]
  | cons e t ih =>
    obtain ⟨j, w⟩ := e
    unfold Store.set
    split
    · simp [Store.get?, h]
    · split
      · rename_i e
        subst e
        simp [Store.get?, h]
      · simp only [Store.get?, ih]

@[simp] theorem Store.get_set_same {α : Type} (d : α) (m : Store α) (k : Nat) (v : α) :
    Store.get d (Store.set m k v) k = v := by simp [Store.get, Store.get?_set_same]

theorem Store.get_set_other {α : Type} (d : α) (m : Store α) {k k' : Nat} (v : α) (h : k' ≠ k) :
    Store.get d (Store.set m k v) k' = Store.get d m k' := by simp [Store.get, Store.get?_set_other m v h]

/-! ## The canonical form of tables -/

theorem Store.wfAbove_mono {α : Type} {m : Store α} {a b : Nat} (h : a ≤ b) (w : Store.wfAbove b m = true) :
    Store.wfAbove a m = true := by
  cases m with
  | nil => rfl
  | cons e t =>
    obtain ⟨k, v⟩ := e
    simp only [Store.wfAbove, Bool.and_eq_true, decide_eq_true_eq] at *
    exact ⟨by omega, w.2⟩

theorem Store.wfAbove_set {α : Type} {m : Store α} {b k : Nat} (v : α) (h : b < k) (w : Store.wfAbove b m = true) :
    Store.wfAbove b (Store.set m k v) = true := by
  induction m generalizing b with
  | nil => simp [Store.set, Store.wfAbove, h]
  | cons e t ih =>
    obtain ⟨k', v'⟩ := e
    simp only [Store.wfAbove, Bool.and_eq_true, decide_eq_true_eq] at w
    unfold Store.set
    split
    · simp_all [Store.wfAbove]
    · split
      · simp_all [Store.wfAbove]
      · simp only [Store.wfAbove, Bool.and_eq_true, decide_eq_true_eq]
        exact ⟨w.1, ih (by omega) w.2⟩

theorem Store.wf_set {α : Type} {m : Store α} (k : Nat) (v : α) (w : Store.wf m = true) : Store.wf (Store.set m k v) = true := by
  cases m with
  | nil => rfl
  | cons e t =>
    obtain ⟨k', v'⟩ := e
    simp only [Store.wf] at w
    unfold Store.set
    split
    · rename_i h
      simpa [Store.wf, Store.wfAbove, h] using w
    · split
      · rename_i h
        subst h
        exact w
      · exact Store.wfAbove_set v (by omega) w

/-! ## Byte memory -/

/-- An address at or below the lower bound of a canonical memory is not listed. -/
theorem Mem.read_below {m : Mem} {c k : Nat} (h : k ≤ c) (w : Mem.wfAbove c m = true) : Mem.read m k = 0 := by
  induction m generalizing c with
  | nil => rfl
  | cons e t ih =>
    obtain ⟨j, v⟩ := e
    simp only [Mem.wfAbove, Bool.and_eq_true, decide_eq_true_eq] at w
    have : k ≠ j := by omega
    simp only [Mem.read, this, if_false]
    exact ih (by omega) w.2

/-- The canonical form of a list's tail. -/
theorem Memory.wf_tail {e : Host.Cell} {t : Mem} (w : Memory.wf (e :: t) = true) : Mem.wfAbove e.1 t = true := by
  simp only [Memory.wf, Bool.and_eq_true] at w
  exact w.2

theorem Memory.wf_of_above {m : Mem} {b : Nat} (w : Mem.wfAbove b m = true) : Memory.wf m = true := by
  cases m with
  | nil => rfl
  | cons e t =>
    simp only [Mem.wfAbove, Bool.and_eq_true] at w
    simp only [Memory.wf, Bool.and_eq_true]
    exact ⟨w.1.2, w.2⟩

/-- A byte reads as it was written. -/
theorem Mem.read_write_same (m : Mem) (k : Nat) (v : BitVec 8) (w : Memory.wf m = true) : Mem.read (Mem.write m k v) k = v := by
  induction m with
  | nil => unfold Mem.write; split <;> simp_all [Mem.read]
  | cons e t ih =>
    have hw := Memory.wf_tail w
    obtain ⟨k', v'⟩ := e
    unfold Mem.write
    split
    · rename_i h
      split
      · rename_i hv
        have hne : k ≠ k' := by omega
        simp only [Mem.read, hne, if_false, hv]
        exact Mem.read_below (Nat.le_of_lt h) hw
      · simp [Mem.read]
    · split
      · rename_i h
        split
        · rename_i hv
          rw [hv]
          exact Mem.read_below (Nat.le_of_eq h) hw
        · simp [Mem.read]
      · rename_i h
        simp only [Mem.read, h, if_false]
        exact ih (Memory.wf_of_above hw)

theorem Mem.read_write_other (m : Mem) {k k' : Nat} (v : BitVec 8) (h : k' ≠ k) : Mem.read (Mem.write m k v) k' = Mem.read m k' := by
  induction m with
  | nil => unfold Mem.write; split <;> simp [Mem.read, h]
  | cons e t ih =>
    obtain ⟨j, w⟩ := e
    unfold Mem.write
    split
    · split <;> simp [Mem.read, h]
    · split
      · rename_i e
        subst e
        split <;> simp [Mem.read, h]
      · simp only [Mem.read, ih]

/-- Every address listed lies above a lower bound too. -/
theorem Mem.wfAbove_mono {m : Mem} {a b : Nat} (h : a ≤ b) (w : Mem.wfAbove b m = true) : Mem.wfAbove a m = true := by
  cases m with
  | nil => rfl
  | cons e t =>
    obtain ⟨k, v⟩ := e
    simp only [Mem.wfAbove, Bool.and_eq_true, decide_eq_true_eq] at *
    exact ⟨⟨by omega, w.1.2⟩, w.2⟩

theorem Mem.wfAbove_write {m : Mem} {b k : Nat} (v : BitVec 8) (h : b < k) (w : Mem.wfAbove b m = true) :
    Mem.wfAbove b (Mem.write m k v) = true := by
  induction m generalizing b with
  | nil =>
    unfold Mem.write
    split
    · rfl
    · simp_all [Mem.wfAbove]
  | cons e t ih =>
    obtain ⟨k', v'⟩ := e
    have w' := w
    simp only [Mem.wfAbove, Bool.and_eq_true, decide_eq_true_eq] at w'
    unfold Mem.write
    split
    · split
      · exact w
      · simp_all [Mem.wfAbove]
    · split
      · rename_i e
        subst e
        split
        · exact Mem.wfAbove_mono (by omega) w'.2
        · simp_all [Mem.wfAbove]
      · simp only [Mem.wfAbove, Bool.and_eq_true, decide_eq_true_eq]
        exact ⟨w'.1, ih (by omega) w'.2⟩

/-- A write of a byte keeps the canonical form. -/
theorem Mem.wf_write {m : Mem} (k : Nat) (v : BitVec 8) (w : Memory.wf m = true) : Memory.wf (Mem.write m k v) = true := by
  cases m with
  | nil =>
    unfold Mem.write
    split
    · rfl
    · simp_all [Memory.wf, Mem.wfAbove]
  | cons e t =>
    obtain ⟨k', v'⟩ := e
    have w' := w
    simp only [Memory.wf, Bool.and_eq_true, decide_eq_true_eq] at w'
    unfold Mem.write
    split
    · split
      · exact w
      · rename_i h hv
        simp_all [Memory.wf, Mem.wfAbove]
    · split
      · rename_i e
        subst e
        split
        · cases t with
          | nil => rfl
          | cons f u =>
            obtain ⟨j, x⟩ := f
            simp only [Mem.wfAbove, Bool.and_eq_true, decide_eq_true_eq] at w'
            simp only [Memory.wf, Bool.and_eq_true, decide_eq_true_eq]
            exact ⟨w'.2.1.2, w'.2.2⟩
        · simp_all [Memory.wf]
      · simp only [Memory.wf, Bool.and_eq_true, decide_eq_true_eq]
        exact ⟨w'.1, Mem.wfAbove_write v (by omega) w'.2⟩

/-- A part of the memory that a filter leaves keeps the canonical form. -/
theorem Mem.wfAbove_filter {m : Mem} {b : Nat} (p : Host.Cell → Bool) (w : Mem.wfAbove b m = true) :
    Mem.wfAbove b (m.filter p) = true := by
  induction m generalizing b with
  | nil => rfl
  | cons e t ih =>
    obtain ⟨k, v⟩ := e
    simp only [Mem.wfAbove, Bool.and_eq_true, decide_eq_true_eq] at w
    simp only [List.filter_cons]
    split
    · simp only [Mem.wfAbove, Bool.and_eq_true, decide_eq_true_eq]
      exact ⟨w.1, ih w.2⟩
    · exact ih (Mem.wfAbove_mono (by omega) w.2)

theorem Mem.wf_filter {m : Mem} (p : Host.Cell → Bool) (w : Memory.wf m = true) : Memory.wf (m.filter p) = true := by
  induction m with
  | nil => rfl
  | cons e t ih =>
    obtain ⟨k, v⟩ := e
    simp only [Memory.wf, Bool.and_eq_true, decide_eq_true_eq] at w
    simp only [List.filter_cons]
    split
    · simp only [Memory.wf, Bool.and_eq_true, decide_eq_true_eq]
      exact ⟨w.1, Mem.wfAbove_filter p w.2⟩
    · apply ih
      cases t with
      | nil => rfl
      | cons f u =>
        obtain ⟨j, x⟩ := f
        simp only [Mem.wfAbove, Bool.and_eq_true, decide_eq_true_eq] at w
        simp only [Memory.wf, Bool.and_eq_true, decide_eq_true_eq]
        exact ⟨w.2.1.2, w.2.2⟩

/-- Membership after an insertion, a removal and a change. -/
theorem NSet.mem_insert (m : NSet) (k x : Nat) : (NSet.insert m k).mem x = (x == k || m.mem x) := by
  unfold NSet.mem
  rw [Bool.eq_iff_iff]
  simp only [Bool.or_eq_true, beq_iff_eq, List.contains_iff_mem]
  induction m with
  | nil => simp [NSet.insert]
  | cons y t ih =>
    unfold NSet.insert
    split
    · simp
    · split
      · next h => subst h; simp
      · simp only [List.mem_cons, ih]
        exact or_left_comm

theorem NSet.mem_remove (m : NSet) (k x : Nat) : (NSet.remove m k).mem x = (m.mem x && x != k) := by
  unfold NSet.mem NSet.remove
  rw [Bool.eq_iff_iff]
  simp

theorem NSet.mem_put (m : NSet) (k x : Nat) (b : Bool) : (NSet.put m k b).mem x = if x = k then b else m.mem x := by
  unfold NSet.put
  cases b
  · simp only [Bool.false_eq_true, if_false, NSet.mem_remove]
    by_cases h : x = k <;> simp [h]
  · simp only [if_true, NSet.mem_insert]
    by_cases h : x = k <;> simp [h]

theorem Mem.read_write {m : Mem} (h : Memory.wf m = true) (k x : Nat) (v : BitVec 8) : Mem.read (Mem.write m k v) x = if x = k then v else Mem.read m x := by
  split
  · next e => subst e; exact Mem.read_write_same m x v h
  · next e => exact Mem.read_write_other m v e

end Sys2Proof.Machine
end

