-- ==== Sys2Proof/Laws/Issue.lean ====
section
/-!
SUPPORT. What the issue of an instruction does: the counters and the cluster that `circuit` touches, the deadline, and the
advance of the program counter.
-/
namespace Sys2Proof.Machine

/-! ## Objects -/

@[simp] theorem State.reg_setReg_same (s : State) (o : Obj) (v : Nat) : (s.setReg o v).reg o = v := by
  simp [State.reg, State.setReg, Store.get?_set_same]

theorem State.reg_setReg_other (s : State) {o o' : Obj} (v : Nat) (h : o'.key ≠ o.key) : (s.setReg o v).reg o' = s.reg o' := by
  simp [State.reg, State.setReg, Store.get?_set_other _ _ h]

/-- Two objects with the same key and addresses in range are one. -/
theorem Obj.key_ne {o o' : Obj} (h : o.addressed) (h' : o'.addressed) (ne : o ≠ o') : o.key ≠ o'.key := by
  obtain ⟨i, s, n⟩ := o
  obtain ⟨i', s', n'⟩ := o'
  simp only [Obj.addressed, Obj.key] at *
  intro e
  apply ne
  have : n = n' ∧ i = i' ∧ s = s' := by omega
  obtain ⟨rfl, rfl, rfl⟩ := this
  rfl

/-- A counter writes its own object and its wrap flags, and nothing else. -/
theorem State.bump_shape (s : State) (o : Obj) (n : Nat) : s.bump o n = { s with regs := (s.bump o n).regs } := by
  unfold State.bump
  simp only
  split <;> rfl

theorem State.reg_bump_other (s : State) {o o' : Obj} (n : Nat) (h : o'.key ≠ o.key) (h' : o'.key ≠ (wrapFlags o).key) :
    (s.bump o n).reg o' = s.reg o' := by
  unfold State.bump
  simp only
  split
  · exact State.reg_setReg_other s _ h
  · rw [State.reg_setReg_other _ _ h', State.reg_setReg_other s _ h]

/-! ## Updates of one unit -/

@[simp] theorem State.strand_setStrand_same (s : State) (u : Nat) (t : Strand) : (s.setStrand u t).strand u = t := by
  simp [State.strand, State.setStrand]

theorem State.strand_setStrand_other (s : State) {u v : Nat} (t : Strand) (h : v ≠ u) : (s.setStrand u t).strand v = s.strand v := by
  simp [State.strand, State.setStrand, Store.get_set_other _ _ _ h]

@[simp] theorem State.strand_modStrand_same (s : State) (u : Nat) (f : Strand → Strand) :
    (s.modStrand u f).strand u = f (s.strand u) := by simp [State.modStrand]

theorem State.strand_modStrand_other (s : State) {u v : Nat} (f : Strand → Strand) (h : v ≠ u) :
    (s.modStrand u f).strand v = s.strand v := by simp [State.modStrand, State.strand_setStrand_other _ _ h]

theorem State.modStrand_shape (s : State) (u : Nat) (f : Strand → Strand) :
    s.modStrand u f = { s with strands := (s.modStrand u f).strands } := rfl

@[simp] theorem State.cluster_modCluster_same (s : State) (c : Nat) (f : Cluster → Cluster) :
    (s.modCluster c f).cluster c = f (s.cluster c) := by simp [State.modCluster, State.cluster, State.setCluster]

theorem State.cluster_modCluster_other (s : State) {c d : Nat} (f : Cluster → Cluster) (h : d ≠ c) :
    (s.modCluster c f).cluster d = s.cluster d := by
  simp [State.modCluster, State.cluster, State.setCluster, Store.get_set_other _ _ _ h]

@[simp] theorem State.job_modJob_same (s : State) (j : Nat) (f : Job → Job) : (s.modJob j f).job j = f (s.job j) := by
  simp [State.modJob, State.job, State.setJob]

theorem State.job_modJob_other (s : State) {j k : Nat} (f : Job → Job) (h : k ≠ j) : (s.modJob j f).job k = s.job k := by
  simp [State.modJob, State.job, State.setJob, Store.get_set_other _ _ _ h]

@[simp] theorem State.array_modArray_same (s : State) (x : Nat) (f : ArrayU → ArrayU) : (s.modArray x f).array x = f (s.array x) := by
  simp [State.modArray, State.array, State.setArray]

theorem State.array_modArray_other (s : State) {x y : Nat} (f : ArrayU → ArrayU) (h : y ≠ x) :
    (s.modArray x f).array y = s.array y := by
  simp [State.modArray, State.array, State.setArray, Store.get_set_other _ _ _ h]

/-! ## What is kept -/

theorem clOf_num (u : StrandId) : clOf u.num = u.cl.num := by
  have := u.st.isLt
  simp only [clOf, StrandId.num]
  omega

/-- `Kept` for an operation that touches the counters and the cluster of the issue, as `circuit` does. -/
structure Quiet (i : Issue) (s t : State) : Prop where
  shape : t = { s with regs := t.regs, strands := t.strands, clusters := t.clusters, jobs := t.jobs, freeN := t.freeN }
  strands : ∀ v, v ≠ i.u.num → t.strand v = s.strand v
  clusters : ∀ c, c ≠ i.u.cl.num → t.cluster c = s.cluster c
  regs : ∀ o, o.addressed → ¬ Od.issueCounter i.u.cl.num o → t.reg o = s.reg o
  jobs : ∀ j, t.job j = { s.job j with reqs := (t.job j).reqs }

theorem Quiet.refl (i : Issue) (s : State) : Quiet i s s := ⟨rfl, fun _ _ => rfl, fun _ _ => rfl, fun _ _ _ => rfl, fun _ => rfl⟩

theorem Quiet.trans {i : Issue} {s t r : State} (h : Quiet i s t) (g : Quiet i t r) : Quiet i s r where
  shape := by rw [g.shape, h.shape]
  strands v hv := (g.strands v hv).trans (h.strands v hv)
  clusters c hc := (g.clusters c hc).trans (h.clusters c hc)
  regs o ho hn := (g.regs o ho hn).trans (h.regs o ho hn)
  jobs j := by rw [g.jobs j, h.jobs j]

/-- A counter of the die's clusters or instructions. -/
theorem Quiet.bump {i : Issue} (s : State) {o : Obj} (n : Nat) (h : Od.issueCounter i.u.cl.num o) (hs : o.sub < 0x100)
    (hi : o.idx < 0x10000) : Quiet i s (s.bump o n) where
  shape := by rw [State.bump_shape]
  strands _ _ := by rw [State.bump_shape]; rfl
  clusters _ _ := by rw [State.bump_shape]; rfl
  regs o' ho hn := by
    have ne : o' ≠ o := by rintro rfl; exact hn h
    have ne' : o' ≠ wrapFlags o := by rintro rfl; exact hn h
    exact State.reg_bump_other s n (Obj.key_ne ho ⟨hi, hs⟩ ne) (Obj.key_ne ho ⟨hi, by simp [wrapFlags]⟩ ne')
  jobs _ := by rw [State.bump_shape]; rfl

theorem Quiet.modStrand (i : Issue) (s : State) (f : Strand → Strand) : Quiet i s (s.modStrand i.u.num f) where
  shape := rfl
  strands _ hv := State.strand_modStrand_other s f hv
  clusters _ _ := rfl
  regs _ _ _ := rfl
  jobs _ := rfl

theorem Quiet.modReqs (i : Issue) (s : State) (j : Nat) (f : Job → List HoldReq) :
    Quiet i s (s.modJob j fun t => { t with reqs := f t }) where
  shape := rfl
  strands _ _ := rfl
  clusters _ _ := rfl
  regs _ _ _ := rfl
  jobs k := by
    by_cases h : k = j
    · subst h; simp
    · rw [State.job_modJob_other s _ h]

theorem Quiet.modCluster (i : Issue) (s : State) (f : Cluster → Cluster) : Quiet i s (s.modCluster i.u.cl.num f) where
  shape := rfl
  strands _ _ := rfl
  clusters _ hc := State.cluster_modCluster_other s f hc
  regs _ _ _ := rfl
  jobs _ := rfl

/-! ## The counters of an issue -/

theorem isaCnt_counter (u : StrandId) (sub : Nat) : Od.issueCounter u.cl.num (isaCnt u.cl.num sub) := Or.inr rfl
theorem clCnt_counter (u : StrandId) (sub : Nat) : Od.issueCounter u.cl.num (clCnt u.cl.num sub) := Or.inl rfl

theorem dieOf_lt (u : StrandId) : dieOf u.cl.num < 16 := by
  have := u.cl.die.isLt
  have := u.cl.k.isLt
  simp only [dieOf, ClusterId.num]
  omega

theorem Quiet.isa (i : Issue) (s : State) {sub : Nat} (n : Nat) (h : sub < 0x100) : Quiet i s (s.bump (isaCnt i.u.cl.num sub) n) := by
  refine Quiet.bump s n (isaCnt_counter i.u sub) h ?_
  have := dieOf_lt i.u
  simp only [isaCnt]
  omega

theorem Quiet.cl (i : Issue) (s : State) {sub : Nat} (n : Nat) (h : sub < 0x100) : Quiet i s (s.bump (clCnt i.u.cl.num sub) n) := by
  refine Quiet.bump s n (clCnt_counter i.u sub) h ?_
  have := dieOf_lt i.u
  simp only [clCnt]
  omega

/-- An `if` of two quiet results. -/
theorem Quiet.ite {i : Issue} {s a b : State} {p : Prop} [Decidable p] (ha : Quiet i s a) (hb : Quiet i s b) :
    Quiet i s (if p then a else b) := by split <;> assumption

/-! ## The circuit, the deadline and the advance -/

theorem circuit_quiet (i : Issue) (s : State) : Quiet i s (s.circuit i) := by
  unfold State.circuit State.endLend
  simp only
  refine Quiet.trans ?_ (Quiet.modCluster i _ _)
  have a : Quiet i s (if i.ph.fetch = .clean then s else s.bump (isaCnt i.u.cl.num 1) 1) :=
    Quiet.ite (Quiet.refl i s) (Quiet.isa i s 1 (by decide))
  refine a.trans ?_
  generalize (if i.ph.fetch = .clean then s else s.bump (isaCnt i.u.cl.num 1) 1) = r
  have b : Quiet i r (if i.ph.conflicts = 0 then r else r.bump (clCnt i.u.cl.num 4) i.ph.conflicts) :=
    Quiet.ite (Quiet.refl i r) (Quiet.cl i r _ (by decide))
  refine b.trans ?_
  exact Quiet.ite (Quiet.ite (Quiet.refl i _) (Quiet.cl i _ (sub := 8) _ (by decide)))
    (Quiet.ite (Quiet.refl i _) (Quiet.cl i _ (sub := 5) _ (by decide)))

@[simp] theorem bump_strands (s : State) (o : Obj) (n : Nat) : (s.bump o n).strands = s.strands := by rw [State.bump_shape]
@[simp] theorem bump_ticks (s : State) (o : Obj) (n : Nat) : (s.bump o n).ticks = s.ticks := by rw [State.bump_shape]
@[simp] theorem bump_clusters (s : State) (o : Obj) (n : Nat) : (s.bump o n).clusters = s.clusters := by rw [State.bump_shape]

@[simp] theorem circuit_strand (i : Issue) (s : State) (v : Nat) : (s.circuit i).strand v = s.strand v := by
  have h : (s.circuit i).strands = s.strands := by
    unfold State.circuit State.endLend State.modCluster State.setCluster
    simp only
    split <;> split <;> split <;> split <;> simp
  simp [State.strand, h]

theorem circuit_cluster (i : Issue) (s : State) : (s.circuit i).cluster i.u.cl.num = (s.cluster i.u.cl.num).issued s.ticks := by
  have h : ∀ r : State, (r.endLend i.u.cl.num).cluster i.u.cl.num = (r.cluster i.u.cl.num).issued r.ticks := fun r => by
    simp [State.endLend, Cluster.issued]
  have quiet : ∀ r : State, r.clusters = s.clusters → r.ticks = s.ticks →
      (r.endLend i.u.cl.num).cluster i.u.cl.num = (s.cluster i.u.cl.num).issued s.ticks := fun r a b => by
    rw [h, b]
    simp [State.cluster, a]
  unfold State.circuit
  simp only
  refine quiet _ ?_ ?_ <;> split <;> split <;> split <;> split <;> simp

/-- An issue whose effect is `act`. -/
theorem issue_next {i : Issue} {s : State} (h : Ready i s) (act : State → State) : issue i s act = .next (act (s.circuit i)) := by
  simp [issue, h.1, h.2.1, h.2.2]

/-- As `issue_next`, where no control operand is poisoned. -/
theorem issueCtl_next {i : Issue} {s : State} (h : Ready i s) {ctl : State → List PWord} (act : State → State)
    (c : (ctl s).any (·.poison) = false) : issueCtl i s ctl act = .next (act (s.circuit i)) := by
  simp [issueCtl, c, issue_next h]

@[simp] theorem withdraw_strands (s : State) (j : Nat) (a : Option Nat) : (s.withdraw j a).strands = s.strands := rfl
@[simp] theorem withdraw_clusters (s : State) (j : Nat) (a : Option Nat) : (s.withdraw j a).clusters = s.clusters := rfl

/-- The instruction has issued: its strand goes on at `pc`, the rest is kept. -/
theorem retireTo_quiet (i : Issue) (s : State) (pc : Nat) : Quiet i s (s.retireTo i.u.num pc) := by
  unfold State.retireTo
  simp only
  exact Quiet.trans (Quiet.ite (Quiet.refl i _) (Quiet.modReqs i _ _ _)) (Quiet.modStrand i _ _)

@[simp] theorem retireTo_strand (s : State) (u pc : Nat) : (s.retireTo u pc).strand u = (s.strand u).past pc := by
  unfold State.retireTo
  rw [State.strand_modStrand_same]
  unfold Strand.past State.strand
  split <;> simp

@[simp] theorem retireTo_clusters (s : State) (u pc : Nat) : (s.retireTo u pc).clusters = s.clusters := by
  unfold State.retireTo State.modStrand State.setStrand
  simp only
  split <;> simp

@[simp] theorem retire_strand (s : State) (i : Issue) : (s.retire i).strand i.u.num = (s.strand i.u.num).past ((s.strand i.u.num).pc + 1) := by
  simp [State.retire]

@[simp] theorem retire_clusters (s : State) (i : Issue) : (s.retire i).clusters = s.clusters := by simp [State.retire]

theorem retire_quiet (i : Issue) (s : State) : Quiet i s (s.retire i) := retireTo_quiet i s _

/-- A state reached quietly from the circuit, with the cluster as the circuit left it, keeps what an issue keeps. -/
theorem Quiet.kept {i : Issue} {s t : State} (h : Quiet i (s.circuit i) t) (c : t.cluster i.u.cl.num = (s.circuit i).cluster i.u.cl.num) :
    Kept i s t := by
  have q := (circuit_quiet i s).trans h
  refine ⟨q.shape, q.strands, q.clusters, by rw [c, circuit_cluster], q.regs, q.jobs, fun a => ?_⟩
  rw [q.shape]

/-- An instruction with an effect outside its strand. -/
theorem Effects.of {c : Instr} {i : Issue} {s r : State} {k : Strand} {act : State → State} (h : Ready i s)
    (e : exec c s = issue i s act) (hk : (act (s.circuit i)).strand i.u.num = k) (q : Kept i r (act (s.circuit i))) :
    Effects c i s r k := ⟨_, by rw [e, issue_next h], hk, q⟩

/-- An instruction with an effect outside its strand and clean control operands. -/
theorem Effects.ofCtl {c : Instr} {i : Issue} {s r : State} {k : Strand} {act : State → State} {ctl : State → List PWord}
    (h : Ready i s) (e : exec c s = issueCtl i s ctl act) (p : (ctl s).any (·.poison) = false)
    (hk : (act (s.circuit i)).strand i.u.num = k) (q : Kept i r (act (s.circuit i))) :
    Effects c i s r k := ⟨_, by rw [e, issueCtl_next h act p], hk, q⟩

/-- An instruction whose effect is quiet. -/
theorem Issues.of {c : Instr} {i : Issue} {s : State} {k : Strand} {act : State → State} (h : Ready i s)
    (e : exec c s = issue i s act) (q : Quiet i (s.circuit i) (act (s.circuit i)))
    (d : (act (s.circuit i)).cluster i.u.cl.num = (s.circuit i).cluster i.u.cl.num)
    (hk : (act (s.circuit i)).strand i.u.num = k) : Issues c i s k :=
  ⟨_, by rw [e, issue_next h], hk, Quiet.kept q d⟩

/-- An instruction whose effect is quiet, with clean control operands. -/
theorem Issues.ofCtl {c : Instr} {i : Issue} {s : State} {k : Strand} {act : State → State} {ctl : State → List PWord}
    (h : Ready i s) (e : exec c s = issueCtl i s ctl act) (p : (ctl s).any (·.poison) = false)
    (q : Quiet i (s.circuit i) (act (s.circuit i)))
    (d : (act (s.circuit i)).cluster i.u.cl.num = (s.circuit i).cluster i.u.cl.num)
    (hk : (act (s.circuit i)).strand i.u.num = k) : Issues c i s k :=
  ⟨_, by rw [e, issueCtl_next h act p], hk, Quiet.kept q d⟩

@[simp] theorem modStrand_cluster (s : State) (u : Nat) (f : Strand → Strand) (c : Nat) : (s.modStrand u f).cluster c = s.cluster c := rfl
@[simp] theorem retire_cluster (s : State) (i : Issue) (c : Nat) : (s.retire i).cluster c = s.cluster c := by
  simp [State.cluster]
@[simp] theorem retireTo_cluster (s : State) (u pc c : Nat) : (s.retireTo u pc).cluster c = s.cluster c := by
  simp [State.cluster]

@[simp] theorem Strand.setS_pc (t : Strand) (r : Reg) (w : PWord) : (t.setS r w).pc = t.pc := by
  unfold Strand.setS
  split <;> rfl

/-- An instruction that changes its strand by `f` and goes on at the next word. -/
theorem issue_modStrand {c : Instr} {i : Issue} {s : State} (h : Ready i s) (f : Strand → Strand) (pc : ∀ t, (f t).pc = t.pc)
    (e : exec c s = issue i s fun s => (s.modStrand i.u.num f).retire i) :
    Issues c i s ((f (s.strand i.u.num)).past ((s.strand i.u.num).pc + 1)) :=
  Issues.of h e (Quiet.trans (Quiet.modStrand i _ f) (retire_quiet i _)) (by simp) (by simp [pc])

/-- A scalar result of the strand as it stands. -/
theorem issue_writeS {c : Instr} {i : Issue} {s : State} (h : Ready i s) (rd : Reg) (w : State → PWord)
    (e : exec c s = issue i s fun s => s.writeS i rd (w s)) :
    Issues c i s (((s.strand i.u.num).setS rd (w (s.circuit i))).past ((s.strand i.u.num).pc + 1)) :=
  Issues.of h e (Quiet.trans (Quiet.modStrand i _ _) (retire_quiet i _)) (by simp [State.writeS]) (by simp [State.writeS])

theorem issue_scalarRR {c : Instr} {i : Issue} {rd ra rb : Reg} {s : State} (h : Ready i s) (f : Word → Word → Word)
    (e : exec c s = scalarRR f i rd ra rb s) :
    Issues c i s (((s.strand i.u.num).setS rd (PWord.map2 f ((s.strand i.u.num).s ra) ((s.strand i.u.num).s rb))).past
      ((s.strand i.u.num).pc + 1)) := by
  simpa using issue_writeS h rd (fun s => PWord.map2 f ((s.strand i.u.num).s ra) ((s.strand i.u.num).s rb)) e

theorem issue_scalarR {c : Instr} {i : Issue} {rd ra : Reg} {s : State} (h : Ready i s) (f : Word → Word)
    (e : exec c s = scalarR f i rd ra s) :
    Issues c i s (((s.strand i.u.num).setS rd (PWord.map f ((s.strand i.u.num).s ra))).past ((s.strand i.u.num).pc + 1)) := by
  simpa using issue_writeS h rd (fun s => PWord.map f ((s.strand i.u.num).s ra)) e

end Sys2Proof.Machine
end

