-- ==== Sys2Proof/Laws/Access.lean ====
section
/-!
SUPPORT. Loads and stores of SRAM and buffers: what the issue leaves of them, what a load gives and what a store changes.
-/
namespace Sys2Proof.Machine

/-! ## The circuit touches no memory -/

/-- `t` differs from `s` in the objects and the clusters at most. -/
def SameBut (s t : State) : Prop := t = { s with regs := t.regs, clusters := t.clusters }

theorem SameBut.refl (s : State) : SameBut s s := rfl

theorem SameBut.trans {s t r : State} (h : SameBut s t) (g : SameBut t r) : SameBut s r := by
  unfold SameBut at *
  rw [g, h]

theorem SameBut.bump (s : State) (o : Obj) (n : Nat) : SameBut s (s.bump o n) := by
  unfold SameBut
  rw [State.bump_shape]

theorem SameBut.ite {s a b : State} {p : Prop} [Decidable p] (ha : SameBut s a) (hb : SameBut s b) :
    SameBut s (if p then a else b) := by split <;> assumption

theorem circuit_same (i : Issue) (s : State) : SameBut s (s.circuit i) := by
  unfold State.circuit State.endLend
  simp only
  refine SameBut.trans ?_ (rfl : SameBut _ (State.modCluster _ _ _))
  have a : SameBut s (if i.ph.fetch = .clean then s else s.bump (isaCnt i.u.cl.num 1) 1) :=
    SameBut.ite (SameBut.refl s) (SameBut.bump s _ _)
  refine a.trans ?_
  generalize (if i.ph.fetch = .clean then s else s.bump (isaCnt i.u.cl.num 1) 1) = r
  have b : SameBut r (if i.ph.conflicts = 0 then r else r.bump (clCnt i.u.cl.num 4) i.ph.conflicts) :=
    SameBut.ite (SameBut.refl r) (SameBut.bump r _ _)
  refine b.trans ?_
  exact SameBut.ite (SameBut.ite (SameBut.refl _) (SameBut.bump _ _ _)) (SameBut.ite (SameBut.refl _) (SameBut.bump _ _ _))

theorem circuit_shape (i : Issue) (s : State) :
    s.circuit i = { s with regs := (s.circuit i).regs, clusters := (s.circuit i).clusters } := circuit_same i s

@[simp] theorem circuit_pages (i : Issue) (s : State) : (s.circuit i).pages = s.pages := by rw [circuit_shape]
@[simp] theorem circuit_sram (i : Issue) (s : State) : (s.circuit i).sram = s.sram := by rw [circuit_shape]
@[simp] theorem circuit_sramPoison (i : Issue) (s : State) : (s.circuit i).sramPoison = s.sramPoison := by rw [circuit_shape]
@[simp] theorem circuit_sramParity (i : Issue) (s : State) : (s.circuit i).sramParity = s.sramParity := by rw [circuit_shape]
@[simp] theorem circuit_arrays (i : Issue) (s : State) : (s.circuit i).arrays = s.arrays := by rw [circuit_shape]
@[simp] theorem circuit_jobs (i : Issue) (s : State) : (s.circuit i).jobs = s.jobs := by rw [circuit_shape]
@[simp] theorem circuit_count (i : Issue) (s : State) : (s.circuit i).count = s.count := by rw [circuit_shape]
@[simp] theorem circuit_freeN (i : Issue) (s : State) : (s.circuit i).freeN = s.freeN := by rw [circuit_shape]
@[simp] theorem circuit_net (i : Issue) (s : State) : (s.circuit i).net = s.net := by rw [circuit_shape]
@[simp] theorem circuit_array (i : Issue) (s : State) (x : Nat) : (s.circuit i).array x = s.array x := by simp [State.array]

theorem cluster_bump (s : State) (o : Obj) (n c : Nat) : (s.bump o n).cluster c = s.cluster c := by simp [State.cluster]

/-- The circuit leaves every field of a cluster but those of its allowance and its rest. -/
theorem circuit_clusters (i : Issue) (s : State) (c : Nat) :
    (s.circuit i).cluster c = if c = i.u.cl.num then (s.cluster c).issued s.ticks else s.cluster c := by
  split
  · next h => subst h; exact circuit_cluster i s
  · next h => exact (circuit_quiet i s).clusters c h

@[simp] theorem circuit_slotMap0 (i : Issue) (s : State) (c : Nat) : ((s.circuit i).cluster c).slotMap0 = (s.cluster c).slotMap0 := by
  rw [circuit_clusters]; split <;> rfl
@[simp] theorem circuit_slotMap1 (i : Issue) (s : State) (c : Nat) : ((s.circuit i).cluster c).slotMap1 = (s.cluster c).slotMap1 := by
  rw [circuit_clusters]; split <;> rfl

@[simp] theorem circuit_slotArray (i : Issue) (s : State) (u k : Nat) : (s.circuit i).slotArray u k = s.slotArray u k := by
  simp [State.slotArray, State.slotArr]

@[simp] theorem circuit_mayAccess (i : Issue) (s : State) (u a : Nat) : (s.circuit i).mayAccess u a = s.mayAccess u a := by
  simp [State.mayAccess, State.page]

@[simp] theorem circuit_bufferWait (i : Issue) (s : State) (u a : Nat) (b : Bool) :
    (s.circuit i).bufferWait u a b = s.bufferWait u a b := by
  simp [State.bufferWait]

@[simp] theorem circuit_rangeWait (i : Issue) (s : State) (u a n : Nat) (b : Bool) :
    (s.circuit i).rangeWait u a n b = s.rangeWait u a n b := by
  simp [State.rangeWait]

@[simp] theorem circuit_peek (i : Issue) (s : State) (u a : Nat) : (s.circuit i).peek u a = s.peek u a := by
  simp [State.peek, State.sramWord, State.sramTag]

/-! ## Windows -/

/-- Four bytes written keep the canonical form. -/
theorem Mem.write4_wf {m : Mem} (h : Memory.wf m = true) (a : Nat) (w : Word) : Memory.wf (Mem.write4 m a w) = true :=
  Mem.wf_write _ _ (Mem.wf_write _ _ (Mem.wf_write _ _ (Mem.wf_write _ _ h)))

/-- What four bytes written read as. -/
theorem Mem.read_write4 {m : Mem} (h : Memory.wf m = true) (a x : Nat) (w : Word) :
    Mem.read (Mem.write4 m a w) x = if a ≤ x ∧ x < a + 4 then w.extractLsb' (8 * (x - a)) 8 else Mem.read m x := by
  unfold Mem.write4
  have h1 := Mem.wf_write a (w.extractLsb' 0 8) h
  have h2 := Mem.wf_write (a + 1) (w.extractLsb' 8 8) h1
  have h3 := Mem.wf_write (a + 2) (w.extractLsb' 16 8) h2
  rw [Mem.read_write h3, Mem.read_write h2, Mem.read_write h1, Mem.read_write h]
  by_cases c3 : x = a + 3
  · subst c3; simp
  · by_cases c2 : x = a + 2
    · subst c2; simp
    · by_cases c1 : x = a + 1
      · subst c1; simp
      · by_cases c0 : x = a
        · subst c0; simp
        · have : ¬ (a ≤ x ∧ x < a + 4) := by omega
          simp [c0, c1, c2, c3, this]


theorem locate_eq {a o : Nat} (h : locate a = .sram o) : o = a ∧ a < 0x280000 := by
  unfold locate at h
  simp only at h
  split at h
  · next c => cases h; exact ⟨rfl, c⟩
  · split at h
    · split at h
      · cases h
      · split at h
        · cases h
        · split at h
          · split at h <;> cases h
          · split at h <;> cases h
    · cases h

theorem locate_buf {a k b o : Nat} (h : locate a = .buf k b o) : b < 4 ∧ ¬ a < 0x280000 := by
  unfold locate at h
  simp only at h
  split at h
  · cases h
  · next c =>
    split at h
    · split at h
      · cases h; exact ⟨by decide, c⟩
      · split at h
        · cases h; exact ⟨by decide, c⟩
        · split at h
          · split at h <;> cases h
            exact ⟨by decide, c⟩
          · split at h <;> cases h
            exact ⟨by decide, c⟩
    · cases h

theorem locate_buf_mod {a k b o : Nat} (h : locate a = .buf k b o) (z : a % 4 = 0) : o % 4 = 0 ∧ o < 0x1000 := by
  unfold locate at h
  simp only at h
  split at h
  · cases h
  · split at h
    · split at h
      · cases h; omega
      · split at h
        · cases h; omega
        · split at h
          · split at h <;> cases h
            omega
          · split at h <;> cases h
            omega
    · cases h

theorem word_bytes (w : Word) : w.extractLsb' 24 8 ++ w.extractLsb' 16 8 ++ w.extractLsb' 8 8 ++ w.extractLsb' 0 8 = w := by
  apply BitVec.eq_of_getLsbD_eq
  intro j hj
  simp only [BitVec.getLsbD_append, BitVec.getLsbD_extractLsb']
  by_cases a : j < 8
  · simp [a]
  · have e1 : 8 + (j - 8) = j := by omega
    by_cases b : j - 8 < 8
    · simp only [a, b, e1, if_true, if_false, decide_true, Bool.true_and]
    · by_cases c : j - 8 - 8 < 8
      · have e2 : 16 + (j - 8 - 8) = j := by omega
        simp only [a, b, c, e2, if_true, if_false, decide_true, Bool.true_and]
      · have d : j - 8 - 8 - 8 < 8 := by omega
        have e3 : 24 + (j - 8 - 8 - 8) = j := by omega
        simp only [a, b, c, d, e3, if_false, decide_true, Bool.true_and]

theorem inWord_putIn (x : ArrayU) (b o : Nat) (w : PWord) : (x.putIn b o w).inWord b o = w := by
  obtain ⟨v, p⟩ := w
  unfold ArrayU.inWord ArrayU.putIn
  simp only [NSet.mem_put, if_true, PWord.mk.injEq, and_true]
  have g : ∀ (m : Store (BitVec 8)) (k k' : Nat) (v : BitVec 8), Store.get 0 (Store.set m k v) k' = if k' = k then v else Store.get 0 m k' := by
    intro m k k' v
    split
    · next h => subst h; simp
    · next h => exact Store.get_set_other _ _ _ h
  simp only [g]
  simp
  exact word_bytes v

/-! ## Loads -/

/-- A load of one word with good parity changes nothing and gives the word. -/
theorem loadAt_sound {i : Issue} {s : State} {a n : Nat} (h : s.sound i a n) {x : Nat} (l : a ≤ x) (r : x < a + n) :
    s.loadAt i.ph i.u.num x = (s, s.peek i.u.num x) := by
  unfold State.loadAt State.peek
  split
  · next o ho =>
    have p := h.2 x o l r ho
    simp [State.loadSram, h.1, clOf_num, p]
  · rfl
  · rfl

theorem State.sound.congr {i : Issue} {s t : State} {a n : Nat} (h : s.sound i a n) (e : t.sramParity = s.sramParity) :
    t.sound i a n := by
  refine ⟨h.1, fun x o l r ho => ?_⟩
  rw [e]
  exact h.2 x o l r ho

theorem loadWord_sound {i : Issue} {s : State} {x : Nat} (h : s.sound i x 1) (m : s.mayAccess i.u.num x = true) :
    s.loadWord i.ph i.u.num x = (s, s.peek i.u.num x) := by
  simp [State.loadWord, m, loadAt_sound h (Nat.le_refl x) (by omega)]

/-- No page of an open range fails the check. -/
theorem badPages_allows {s : State} {u a n : Nat} (h : s.allows u a n) : s.badPages u a n = [] := by
  unfold State.badPages
  by_cases z : n = 0
  · simp [z]
  · have e : ∀ k, k < (a + n - 1) / 4096 + 1 - a / 4096 → 
      s.mayAccess u (Nat.max a ((a / 4096 + k) * 4096)) = true ∧
      s.mayAccess u (Nat.min (a + n - 1) ((a / 4096 + k) * 4096 + 4095)) = true := by
      intro k hk
      have : Nat.max a ((a / 4096 + k) * 4096) = max a ((a / 4096 + k) * 4096) := rfl
      have : Nat.min (a + n - 1) ((a / 4096 + k) * 4096 + 4095) = min (a + n - 1) ((a / 4096 + k) * 4096 + 4095) := rfl
      constructor <;> apply h <;> omega
    simp only [z, if_false]
    have : ∀ k ∈ List.range ((a + n - 1) / 4096 + 1 - a / 4096), (fun i =>
        if s.mayAccess u (Nat.max a ((a / 4096 + i) * 4096)) = true then
          (if s.mayAccess u (Nat.min (a + n - 1) ((a / 4096 + i) * 4096 + 4095)) = true then none
            else some (Nat.min (a + n - 1) ((a / 4096 + i) * 4096 + 4095)))
        else some (Nat.max a ((a / 4096 + i) * 4096))) k = none := by
      intro k hk
      have := e k (List.mem_range.mp hk)
      simp [this.1, this.2]
    rw [List.filterMap_eq_nil_iff.mpr this]
    rfl

theorem tagFaults_allows {s : State} {u a n : Nat} (h : s.allows u a n) : s.tagFaults u a n = s := by
  simp [State.tagFaults, badPages_allows h, forAll]

/-- A load of a sound and open run of words changes nothing and gives the words. -/
theorem loadWords_sound {i : Issue} {s : State} {a m : Nat} (h : s.sound i a m) (o : s.allows i.u.num a m) :
    ∀ (n b : Nat), a ≤ b → b + 4 * n ≤ a + m →
      s.loadWords i.ph i.u.num n b = (s, (List.range n).map fun k => s.peek i.u.num (b + 4 * k)) := by
  intro n
  induction n with
  | zero => intro b _ _; rfl
  | succ n ih =>
    intro b l r
    unfold State.loadWords
    have m1 := o b l (by omega)
    simp only [m1, if_true]
    rw [loadAt_sound h l (by omega)]
    simp only
    rw [ih (b + 4) (by omega) (by omega)]
    simp only [List.range_succ_eq_map, List.map_cons, List.map_map, Prod.mk.injEq, true_and]
    congr 1
    apply List.map_congr_left
    intro k _
    simp only [Function.comp, Nat.succ_eq_add_one]
    congr 1
    omega

theorem loadRange_sound {i : Issue} {s : State} {a n : Nat} (h : s.sound i a (4 * n)) (o : s.allows i.u.num a (4 * n)) :
    s.loadRange i.ph i.u.num a n = (s, (List.range n).map fun k => s.peek i.u.num (a + 4 * k)) := by
  unfold State.loadRange
  rw [tagFaults_allows o, loadWords_sound h o n a (Nat.le_refl a) (Nat.le_refl _)]

/-! ## Stores -/

/-- An effect `r` of `s` that leaves objects and clusters alone, done after the circuit, is kept through a quiet retirement. -/
theorem Kept.after {i : Issue} {s r a t : State}
    (e : a = { r with regs := (s.circuit i).regs, clusters := (s.circuit i).clusters })
    (hr : r.regs = s.regs) (hc : r.clusters = s.clusters) (ht : r.ticks = s.ticks) (q : Quiet i a t) (cl : t.clusters = a.clusters) : Kept i r t := by
  have k : Quiet i r a := by
    subst e
    refine ⟨rfl, fun _ _ => rfl, fun c h => ?_, fun o h n => ?_, fun _ => rfl⟩
    · have := (circuit_quiet i s).clusters c h
      simpa [State.cluster, hc] using this
    · have := (circuit_quiet i s).regs o h n
      simpa [State.reg, hr] using this
  have kt := k.trans q
  refine ⟨kt.shape, kt.strands, kt.clusters, ?_, kt.regs, kt.jobs, fun x => ?_⟩
  · have := circuit_cluster i s
    subst e
    simp only [State.cluster, cl, hc, ht] at *
    exact this
  · rw [kt.shape]

theorem storeAt_keeps (s : State) (u a : Nat) (w : PWord) :
    s.storeAt u a w = { s with sram := (s.storeAt u a w).sram, sramPoison := (s.storeAt u a w).sramPoison,
                               sramParity := (s.storeAt u a w).sramParity, arrays := (s.storeAt u a w).arrays } := by
  unfold State.storeAt
  split <;> rfl

/-- `s` with the objects and the clusters of another state. -/
def State.over (s c : State) : State := { s with regs := c.regs, clusters := c.clusters }

/-- The slot maps of `c` are those of `s`. -/
def SameSlots (s c : State) : Prop :=
  ∀ k, (c.cluster k).slotMap0 = (s.cluster k).slotMap0 ∧ (c.cluster k).slotMap1 = (s.cluster k).slotMap1

theorem SameSlots.circuit (i : Issue) (s : State) : SameSlots s (s.circuit i) := fun k => by simp

theorem circuit_over (i : Issue) (s : State) : s.circuit i = s.over (s.circuit i) := circuit_shape i s

theorem over_slotArray {s c : State} (h : SameSlots s c) (u k : Nat) : (s.over c).slotArray u k = s.slotArray u k := by
  have := h (clOf u)
  simp only [State.cluster] at this
  simp only [State.slotArray, State.slotArr, State.over, State.cluster, State.strand, this.1, this.2]
  rfl

theorem over_mayAccess (s c : State) (u a : Nat) : (s.over c).mayAccess u a = s.mayAccess u a := rfl

theorem over_storeAt {s c : State} (h : SameSlots s c) (u a : Nat) (w : PWord) :
    (s.over c).storeAt u a w = (s.storeAt u a w).over c := by
  unfold State.storeAt
  split
  · rfl
  · rw [over_slotArray h]; rfl
  · rfl

theorem SameSlots.storeAt {s c : State} (h : SameSlots s c) (u a : Nat) (w : PWord) : SameSlots (s.storeAt u a w) c := by
  intro k
  rw [storeAt_keeps]
  exact h k

theorem over_storeWords {c : State} (u : Nat) (ws : List PWord) : ∀ (s : State) (a : Nat), SameSlots s c →
    (s.over c).storeWords u a ws = (s.storeWords u a ws).over c := by
  induction ws with
  | nil => intro s a _; rfl
  | cons w t ih =>
    intro s a h
    unfold State.storeWords
    rw [over_mayAccess, over_storeAt h]
    split
    · exact ih _ _ (h.storeAt u a w)
    · exact ih _ _ h

theorem storeWords_keeps (u : Nat) (ws : List PWord) : ∀ (s : State) (a : Nat),
    s.storeWords u a ws = { s with sram := (s.storeWords u a ws).sram, sramPoison := (s.storeWords u a ws).sramPoison,
                                   sramParity := (s.storeWords u a ws).sramParity, arrays := (s.storeWords u a ws).arrays } := by
  induction ws with
  | nil => intro s a; rfl
  | cons w t ih =>
    intro s a
    unfold State.storeWords
    rw [ih]
    split
    · rw [storeAt_keeps]
    · rfl

end Sys2Proof.Machine
end

