-- ==== Sys2Proof/Laws/Events.lean ====
section
/-!
SUPPORT. Messages to the host, events and fault records touch no strand, cluster, memory, array, job or message in flight.
-/
namespace Sys2Proof.Machine

/-- The units of the compute dies, the jobs and the messages in flight are the same. -/
structure SameUnits (s t : State) : Prop where
  strands : t.strands = s.strands
  clusters : t.clusters = s.clusters
  sram : t.sram = s.sram
  sramPoison : t.sramPoison = s.sramPoison
  sramParity : t.sramParity = s.sramParity
  pages : t.pages = s.pages
  arrays : t.arrays = s.arrays
  jobs : t.jobs = s.jobs
  net : t.net = s.net
  count : t.count = s.count
  pending : t.pending = s.pending

theorem SameUnits.refl (s : State) : SameUnits s s := ⟨rfl, rfl, rfl, rfl, rfl, rfl, rfl, rfl, rfl, rfl, rfl⟩

theorem SameUnits.trans {s t r : State} (h : SameUnits s t) (g : SameUnits t r) : SameUnits s r :=
  ⟨g.1.trans h.1, g.2.trans h.2, g.3.trans h.3, g.4.trans h.4, g.5.trans h.5, g.6.trans h.6, g.7.trans h.7, g.8.trans h.8,
    g.9.trans h.9, g.10.trans h.10, g.11.trans h.11⟩

theorem SameUnits.ite {s a b : State} {p : Prop} [Decidable p] (ha : SameUnits s a) (hb : SameUnits s b) :
    SameUnits s (if p then a else b) := by split <;> assumption

theorem SameUnits.fold {α : Type} (f : State → α → State) (h : ∀ s x, SameUnits s (f s x)) :
    ∀ (l : List α) (s : State), SameUnits s (forAll l s f) := by
  intro l
  induction l with
  | nil => exact fun s => SameUnits.refl s
  | cons x t ih => exact fun s => (h s x).trans (ih (f s x))

theorem SameUnits.regs (s : State) (m : Store Nat) : SameUnits s { s with regs := m } := ⟨rfl, rfl, rfl, rfl, rfl, rfl, rfl, rfl, rfl, rfl, rfl⟩
theorem SameUnits.setReg (s : State) (o : Obj) (v : Nat) : SameUnits s (s.setReg o v) := SameUnits.regs s _
theorem SameUnits.bump (s : State) (o : Obj) (n : Nat) : SameUnits s (s.bump o n) := by
  rw [State.bump_shape]
  exact SameUnits.regs s _
theorem SameUnits.inc64 (s : State) (o : Obj) : SameUnits s (s.inc64 o) := SameUnits.setReg s o _
theorem SameUnits.setSession (s : State) (n : Nat) (t : Session) : SameUnits s (s.setSession n t) :=
  ⟨rfl, rfl, rfl, rfl, rfl, rfl, rfl, rfl, rfl, rfl, rfl⟩
theorem SameUnits.setCtx (s : State) (n : Nat) (t : Ctx) : SameUnits s (s.setCtx n t) :=
  ⟨rfl, rfl, rfl, rfl, rfl, rfl, rfl, rfl, rfl, rfl, rfl⟩
theorem SameUnits.answer (s : State) (a : Answer) : SameUnits s { s with answer := a } :=
  ⟨rfl, rfl, rfl, rfl, rfl, rfl, rfl, rfl, rfl, rfl, rfl⟩
theorem SameUnits.freeN (s : State) (n : Nat) : SameUnits s { s with freeN := n } :=
  ⟨rfl, rfl, rfl, rfl, rfl, rfl, rfl, rfl, rfl, rfl, rfl⟩

theorem SameUnits.grantCredit (s : State) (n : Nat) : SameUnits s (s.grantCredit n) := by
  unfold State.grantCredit
  simp only
  exact SameUnits.ite ((SameUnits.setReg s _ _).trans (SameUnits.setSession _ _ _)) (SameUnits.refl s)

theorem SameUnits.unpause (s : State) (p : Nat) : SameUnits s (s.unpause p) := by
  unfold State.unpause
  simp only
  refine SameUnits.trans ?_ (SameUnits.bump _ _ _)
  exact ⟨rfl, rfl, rfl, rfl, rfl, rfl, rfl, rfl, rfl, rfl, rfl⟩

theorem SameUnits.wire (s : State) (w : List Wire) : SameUnits s { s with wire := w } :=
  ⟨rfl, rfl, rfl, rfl, rfl, rfl, rfl, rfl, rfl, rfl, rfl⟩

theorem SameUnits.putWire (s : State) (w : Wire) : SameUnits s (s.putWire w) := by
  unfold State.putWire
  split
  · refine SameUnits.ite ⟨rfl, rfl, rfl, rfl, rfl, rfl, rfl, rfl, rfl, rfl, rfl⟩ ?_
    simp only
    exact (SameUnits.unpause s _).trans ((SameUnits.wire _ _).trans (SameUnits.bump _ _ _))
  · exact (SameUnits.wire s _).trans (SameUnits.bump _ _ _)

theorem SameUnits.sendNow (s : State) (m : OutMsg) : SameUnits s (s.sendNow m) := by
  unfold State.sendNow
  simp only
  exact (SameUnits.grantCredit s _).trans ((SameUnits.setSession _ _ _).trans (SameUnits.putWire _ _))

theorem SameUnits.cancelQuiet (s : State) (x : Nat) : SameUnits s (s.cancelQuiet x) := by
  unfold State.cancelQuiet
  simp only
  exact SameUnits.ite ((SameUnits.setReg s _ _).trans ((SameUnits.setReg _ _ _).trans
    ((SameUnits.setReg _ _ _).trans (SameUnits.setCtx _ _ _)))) (SameUnits.refl s)

theorem SameUnits.prefixes (s : State) (m : Store Prefix) : SameUnits s { s with prefixes := m } :=
  ⟨rfl, rfl, rfl, rfl, rfl, rfl, rfl, rfl, rfl, rfl, rfl⟩

theorem SameUnits.dropPrefix (s : State) (e : Nat) : SameUnits s (s.dropPrefix e) := by
  unfold State.dropPrefix
  exact (SameUnits.setReg s _ _).trans ((SameUnits.setReg _ _ _).trans ((SameUnits.setReg _ _ _).trans
    ((SameUnits.prefixes _ _).trans (SameUnits.setReg _ _ _))))

theorem SameUnits.unrefPrefix (s : State) (h : Nat) : SameUnits s (s.unrefPrefix h) := by
  unfold State.unrefPrefix
  simp only
  exact SameUnits.ite (SameUnits.refl s) (SameUnits.ite
    ((SameUnits.setReg s _ _).trans ((SameUnits.setReg _ _ _).trans (SameUnits.dropPrefix _ _)))
    ((SameUnits.setReg s _ _).trans (SameUnits.setReg _ _ _)))

theorem SameUnits.dropSession (s : State) (n : Nat) : SameUnits s (s.dropSession n) :=
  ⟨rfl, rfl, rfl, rfl, rfl, rfl, rfl, rfl, rfl, rfl, rfl⟩

theorem SameUnits.endSession (s : State) (n : Nat) (reason : Option Nat) : SameUnits s (s.endSession n reason) := by
  have tail : ∀ r : State, SameUnits r (State.dropSession (forAll ((forAll r.ctxList r fun s x =>
      if s.reg (Od.CTX_SESSION x) = n then s.cancelQuiet x else s).session n).exporting (forAll r.ctxList r fun s x =>
      if s.reg (Od.CTX_SESSION x) = n then s.cancelQuiet x else s) fun s e => s.unrefPrefix (s.prefixHandle e.entry)) n) := fun r =>
    (SameUnits.fold _ (fun s x => SameUnits.ite (SameUnits.cancelQuiet s x) (SameUnits.refl s)) _ r).trans
      ((SameUnits.fold _ (fun s _ => SameUnits.unrefPrefix s _) _ _).trans (SameUnits.dropSession _ n))
  unfold State.endSession
  simp only
  refine SameUnits.ite ?_ (SameUnits.refl s)
  cases reason with
  | none => exact tail s
  | some r => exact ((SameUnits.sendNow s _).trans (SameUnits.bump _ _ _)).trans (tail _)

theorem SameUnits.sendAs (s : State) (eng n cls kind flags reason ctx reqId : Nat) (payload : List Byte) :
    SameUnits s (s.sendAs eng n cls kind flags reason ctx reqId payload) := by
  unfold State.sendAs
  simp only
  exact SameUnits.ite (SameUnits.ite (SameUnits.endSession s _ _) (SameUnits.setSession s _ _)) (SameUnits.refl s)

theorem SameUnits.send (s : State) (n cls kind flags reason ctx reqId : Nat) (payload : List Byte) :
    SameUnits s (s.send n cls kind flags reason ctx reqId payload) := SameUnits.sendAs s _ _ _ _ _ _ _ _ _

theorem SameUnits.event (s : State) (ev : Nat) (dest : EventTo) (body : List Byte) : SameUnits s (s.event ev dest body) := by
  have tt : ∀ (s : State) (t : Nat) (p : List Byte), SameUnits s
      (match s.lowestSession fun x => x.tenant == some t with
        | some n => s.send n MC.EVENT 0 3 0 0 0 p
        | none => s.bump Od.EVENTS_DROPPED 1) := fun s t p => by
    split
    · exact SameUnits.send s _ _ _ _ _ _ _ _
    · exact SameUnits.bump s _ _
  unfold State.event
  simp only
  cases dest with
  | req x => exact SameUnits.ite (SameUnits.send s _ _ _ _ _ _ _ _) (tt s _ _)
  | tenant t => exact tt s t _
  | mgmt => exact SameUnits.ite (SameUnits.bump s _ _) (SameUnits.fold _ (fun s n => SameUnits.send s _ _ _ _ _ _ _ _) _ s)
  | session n => exact SameUnits.ite (SameUnits.send s _ _ _ _ _ _ _ _) (SameUnits.bump s _ _)

theorem SameUnits.faults (s : State) (m : List FaultRec) : SameUnits s { s with faults := m } :=
  ⟨rfl, rfl, rfl, rfl, rfl, rfl, rfl, rfl, rfl, rfl, rfl⟩

theorem SameUnits.fault (s : State) (kind die cl unit detail : Nat) (body : List Byte) :
    SameUnits s (s.fault kind die cl unit detail body) := by
  unfold State.fault
  simp only
  exact SameUnits.ite (SameUnits.faults s _) ((SameUnits.inc64 s _).trans ((SameUnits.faults _ _).trans (SameUnits.event _ _ _ _)))

theorem SameUnits.clFault (s : State) (kind c unit detail : Nat) (body : List Byte) :
    SameUnits s (s.clFault kind c unit detail body) := SameUnits.fault s _ _ _ _ _ _

/-- A tag fault changes objects, the fault log and the host's queues only (R125). -/
theorem SameUnits.tagFault (s : State) (u a tenant : Nat) : SameUnits s (s.tagFault u a tenant) := by
  unfold State.tagFault
  simp only
  exact (SameUnits.bump s _ _).trans ((SameUnits.clFault _ _ _ _ _ _).trans (SameUnits.event _ _ _ _))

theorem SameUnits.strand {s t : State} (h : SameUnits s t) (u : Nat) : t.strand u = s.strand u := by
  simp [State.strand, h.strands]
theorem SameUnits.array {s t : State} (h : SameUnits s t) (x : Nat) : t.array x = s.array x := by
  simp [State.array, h.arrays]
theorem SameUnits.job {s t : State} (h : SameUnits s t) (j : Nat) : t.job j = s.job j := by
  simp [State.job, h.jobs]
theorem SameUnits.cluster {s t : State} (h : SameUnits s t) (c : Nat) : t.cluster c = s.cluster c := by
  simp [State.cluster, h.clusters]

end Sys2Proof.Machine
end

