-- ==== Sys2Proof/Laws/Vector.lean ====
section
/-!
SUPPORT. What a vector, predicate or scalar result does to the strand that issues it.
-/
namespace Sys2Proof.Machine

@[simp] theorem spend_strand (s : State) (n u : Nat) : (s.spend n).strand u = s.strand u := rfl
@[simp] theorem spend_cluster (s : State) (n c : Nat) : (s.spend n).cluster c = s.cluster c := rfl
@[simp] theorem spend_array (s : State) (n x : Nat) : (s.spend n).array x = s.array x := rfl

theorem Quiet.spend (i : Issue) (s : State) (n : Nat) : Quiet i s (s.spend n) :=
  ⟨rfl, fun _ _ => rfl, fun _ _ => rfl, fun _ _ _ => rfl, fun _ => rfl⟩

@[simp] theorem Strand.setV_pc (t : Strand) (r : Nat) (v : VReg) : (t.setV r v).pc = t.pc := rfl
@[simp] theorem Strand.setP_pc (t : Strand) (r : PReg) (v : PredReg) : (t.setP r v).pc = t.pc := by
  unfold Strand.setP
  split <;> rfl

theorem residues_none (s : State) {i : Issue} (h : i.ph.residue = []) (vd : Nat) (p : PredReg) : s.residues i vd p = s := by
  simp [State.residues, h]

/-- The strand after a vector result. -/
def Strand.putV (k : Strand) (vd : Reg) (pr : PReg) (f : Nat → PWord) : Strand :=
  (k.setV vd.val (mergeV (k.v vd.val) (k.p pr) f)).past (k.pc + 1)

theorem writeV_quiet (i : Issue) (s : State) (r : i.ph.residue = []) (vd : Reg) (pr : PReg) (chk : Bool) (f : Nat → PWord) :
    Quiet i s (s.writeV i vd pr chk f) := by
  unfold State.writeV
  simp only [residues_none _ r, ite_self]
  exact Quiet.trans (Quiet.modStrand i _ _) (retire_quiet i _)

theorem writeV_cluster (i : Issue) (s : State) (r : i.ph.residue = []) (vd : Reg) (pr : PReg) (chk : Bool) (f : Nat → PWord) (c : Nat) :
    (s.writeV i vd pr chk f).cluster c = s.cluster c := by
  unfold State.writeV
  simp only [residues_none _ r, ite_self]
  simp

theorem writeV_strand (i : Issue) (s : State) (r : i.ph.residue = []) (vd : Reg) (pr : PReg) (chk : Bool) (f : Nat → PWord) :
    (s.writeV i vd pr chk f).strand i.u.num = (s.strand i.u.num).putV vd pr f := by
  unfold State.writeV
  simp only [residues_none _ r, ite_self]
  simp [Strand.putV]

/-- An instruction that writes a vector result and uses up `n` free values. -/
theorem issue_writeV {c : Instr} {i : Issue} {s : State} (h : Ready i s) (r : i.ph.residue = []) {vd : Reg} {pr : PReg} {chk : Bool}
    {f : State → Nat → PWord} {n : Nat} (e : exec c s = issue i s fun s => (s.spend n).writeV i vd pr chk (f s)) :
    Issues c i s ((s.strand i.u.num).putV vd pr (f (s.circuit i))) :=
  Issues.of h e (Quiet.trans (Quiet.spend i _ n) (writeV_quiet i _ r _ _ _ _)) (by rw [writeV_cluster _ _ r]; rfl)
    (by rw [writeV_strand _ _ r]; simp)

/-- As `issue_writeV`, with no free value. -/
theorem issue_writeV0 {c : Instr} {i : Issue} {s : State} (h : Ready i s) (r : i.ph.residue = []) {vd : Reg} {pr : PReg} {chk : Bool}
    {f : State → Nat → PWord} (e : exec c s = issue i s fun s => s.writeV i vd pr chk (f s)) :
    Issues c i s ((s.strand i.u.num).putV vd pr (f (s.circuit i))) :=
  Issues.of h e (writeV_quiet i _ r _ _ _ _) (by rw [writeV_cluster _ _ r]) (by rw [writeV_strand _ _ r]; simp)

/-- A lane operation on two registers in a legal format. -/
theorem issue_vec2 {c : Instr} {i : Issue} {o : VOps} {s : State} (h : Ready i s) (r : i.ph.residue = []) {legal : VFmt → Bool}
    {chk : Bool} {g : VFmt → Word → Word → Word} (e : exec c s = vec2 legal chk g i o s) (l : legal o.fmt = true) :
    Issues c i s ((s.strand i.u.num).putV o.vd o.pr fun l =>
      ⟨g o.fmt (lane ((s.strand i.u.num).v o.va.val) l).val (lane ((s.strand i.u.num).v o.vb.val) l).val,
        (lane ((s.strand i.u.num).v o.va.val) l).poison || (lane ((s.strand i.u.num).v o.vb.val) l).poison⟩) := by
  unfold vec2 at e
  rw [if_pos l] at e
  simpa using issue_writeV0 h r e

/-! ## Predicates built by bits -/

/-- The number whose bits below `n` are those of `f`. -/
theorem foldl_bits (f : Nat → Bool) : ∀ n, (List.range n).foldl (fun a i => if f i then a + 2 ^ i else a) 0 < 2 ^ n ∧
    ∀ l, ((List.range n).foldl (fun a i => if f i then a + 2 ^ i else a) 0).testBit l = (decide (l < n) && f l) := by
  intro n
  induction n with
  | zero => simp
  | succ n ih =>
    rw [List.range_succ, List.foldl_append]
    simp only [List.foldl_cons, List.foldl_nil]
    obtain ⟨h1, h2⟩ := ih
    generalize (List.range n).foldl (fun a i => if f i then a + 2 ^ i else a) 0 = a at *
    have e : 2 ^ (n + 1) = 2 ^ n + 2 ^ n := by rw [Nat.pow_succ]; omega
    by_cases c : f n
    · simp only [c, if_true]
      refine ⟨by omega, fun l => ?_⟩
      rw [Nat.add_comm]
      rcases Nat.lt_trichotomy l n with g | g | g
      · rw [Nat.testBit_two_pow_add_gt g, h2]
        have : l < n + 1 := by omega
        simp [g, this]
      · subst g
        rw [Nat.testBit_two_pow_add_eq, Nat.testBit_lt_two_pow h1]
        simp [c]
      · have : 2 ^ n + a < 2 ^ l := Nat.lt_of_lt_of_le (by omega) (Nat.pow_le_pow_right (by decide) g)
        rw [Nat.testBit_lt_two_pow this]
        have : ¬ l < n + 1 := by omega
        simp [this]
    · simp only [c]
      refine ⟨by simp; omega, fun l => ?_⟩
      simp only [Bool.false_eq_true, if_false, h2]
      by_cases hl : l = n
      · subst hl; simp [c]
      · have : (l < n + 1) ↔ (l < n) := by omega
        simp [this]

/-- Bit `l` of a predicate built by `PredReg.ofFn`. -/
theorem PredReg.ofFn_bit (f g : Nat → Bool) (l : Nat) (h : l < 256) : (PredReg.ofFn f g).bit l = f l := by
  have := (foldl_bits f 256).2 l
  unfold PredReg.bit PredReg.ofFn
  simp only [BitVec.getLsbD_ofNat, this]
  simp [h]

/-- Word tag `l` of a predicate built by `PredReg.ofFn`. -/
theorem PredReg.ofFn_word (f g : Nat → Bool) (l : Nat) (h : l < 8) : (PredReg.ofFn f g).poison.getLsbD l = g l := by
  have := (foldl_bits g 8).2 l
  unfold PredReg.ofFn
  simp only [BitVec.getLsbD_ofNat, this]
  simp [h]

/-- A predicate result. -/
theorem issue_writeP {c : Instr} {i : Issue} {s : State} (h : Ready i s) {pd : PReg} {p : State → PredReg}
    (e : exec c s = issue i s fun s => s.writeP i pd (p s)) :
    Issues c i s (((s.strand i.u.num).setP pd (p (s.circuit i))).past ((s.strand i.u.num).pc + 1)) :=
  Issues.of h e (Quiet.trans (Quiet.modStrand i _ _) (retire_quiet i _)) (by simp [State.writeP]) (by simp [State.writeP])

end Sys2Proof.Machine
end

