-- ==== Sys2Proof/Laws/Bytes.lean ====
section
/-!
SUPPORT. Runs of bytes in SRAM: what a load of bytes gives, and what a store of bytes and of words changes.
-/
namespace Sys2Proof.Machine

/-- A store of words keeps the canonical form. -/
theorem storeWords_wf (u : Nat) (ws : List PWord) : ∀ (s : State) (a : Nat), SramCanonical s → SramCanonical (s.storeWords u a ws) := by
  induction ws with
  | nil => intro s a h; exact h
  | cons w t ih =>
    intro s a h
    unfold State.storeWords
    refine ih _ _ ?_
    split
    · unfold State.storeAt
      split
      · exact Mem.write4_wf h _ _
      · exact h
      · exact h
    · exact h

theorem locate_sram {a : Nat} (h : a < 0x280000) : locate a = .sram a := by
  unfold locate
  simp only
  rw [if_pos h]

/-- The word that peek finds in SRAM. -/
theorem peek_sram (s : State) (u : Nat) {a : Nat} (h : a < 0x280000) :
    s.peek u a = ⟨s.sramWord (clOf u) a, s.sramTag (clOf u) a⟩ := by
  unfold State.peek
  rw [locate_sram h]

/-- A run of words stored in SRAM: every byte and tag of it and outside it. -/
theorem storeWords_sram (u : Nat) (ws : List PWord) : ∀ (s : State) (a : Nat), SramCanonical s → a % 4 = 0 →
    a + 4 * ws.length ≤ 0x280000 → s.allows u a (4 * ws.length) →
    (∀ x, Mem.read (s.storeWords u a ws).sram (sramAt (clOf u) x) =
      if a ≤ x ∧ x < a + 4 * ws.length then (ws.getD ((x - a) / 4) PWord.zero).val.extractLsb' (8 * (x % 4)) 8
      else Mem.read s.sram (sramAt (clOf u) x)) ∧
    (∀ x, (x < sramAt (clOf u) a ∨ sramAt (clOf u) a + 4 * ws.length ≤ x) →
      Mem.read (s.storeWords u a ws).sram x = Mem.read s.sram x) ∧
    (∀ x, (s.storeWords u a ws).sramPoison.mem x = if wordAt (clOf u) a ≤ x ∧ x < wordAt (clOf u) a + ws.length then
      (ws.getD (x - wordAt (clOf u) a) PWord.zero).poison else s.sramPoison.mem x) ∧
    (s.storeWords u a ws).arrays = s.arrays := by
  induction ws with
  | nil =>
    intro s a _ _ _ _
    refine ⟨fun x => ?_, fun _ _ => rfl, fun x => ?_, rfl⟩
    · rw [if_neg (by simp only [List.length_nil]; omega)]; rfl
    · rw [if_neg (by simp only [List.length_nil]; omega)]; rfl
  | cons w ws ih =>
    intro s a wf al lt op
    simp only [List.length_cons] at *
    have m : s.mayAccess u a = true := op a (Nat.le_refl a) (by omega)
    have e : s.storeWords u a (w :: ws) = (s.putSram (clOf u) a w).storeWords u (a + 4) ws := by
      rw [State.storeWords, if_pos m, State.storeAt, locate_sram (by omega)]
    obtain ⟨h1, h2, h3, h4⟩ := ih (s.putSram (clOf u) a w) (a + 4) (Mem.write4_wf wf _ _) (by omega) (by omega)
      (fun x l r => op x (by omega) (by omega))
    rw [e]
    have rd : ∀ x, Mem.read (s.putSram (clOf u) a w).sram x =
        if sramAt (clOf u) a ≤ x ∧ x < sramAt (clOf u) a + 4 then w.val.extractLsb' (8 * (x - sramAt (clOf u) a)) 8
        else Mem.read s.sram x := fun x => Mem.read_write4 wf _ x _
    refine ⟨fun x => ?_, fun x hx => ?_, fun x => ?_, h4⟩
    · rw [h1 x, rd]
      by_cases c : a + 4 ≤ x ∧ x < a + 4 + 4 * ws.length
      · rw [if_pos c, if_pos (by omega)]
        have : (x - a) / 4 = (x - (a + 4)) / 4 + 1 := by omega
        rw [this, List.getD_cons_succ]
      · rw [if_neg c]
        by_cases d : a ≤ x ∧ x < a + 4
        · rw [if_pos (by simp only [sramAt]; omega), if_pos (by omega)]
          have : (x - a) / 4 = 0 := by omega
          rw [this, List.getD_cons_zero]
          have : sramAt (clOf u) x - sramAt (clOf u) a = x % 4 := by simp only [sramAt]; omega
          rw [this]
        · rw [if_neg (by simp only [sramAt]; omega), if_neg (by omega)]
    · rw [h2 x (by simp only [sramAt] at *; omega), rd, if_neg (by omega)]
    · rw [h3 x]
      have wa : wordAt (clOf u) (a + 4) = wordAt (clOf u) a + 1 := by simp only [wordAt]; omega
      rw [wa]
      have pd : (s.putSram (clOf u) a w).sramPoison.mem x = if x = wordAt (clOf u) a then w.poison else s.sramPoison.mem x :=
        NSet.mem_put _ _ _ _
      rw [pd]
      by_cases c : wordAt (clOf u) a + 1 ≤ x ∧ x < wordAt (clOf u) a + 1 + ws.length
      · rw [if_pos c, if_pos (by omega)]
        have : x - wordAt (clOf u) a = x - (wordAt (clOf u) a + 1) + 1 := by omega
        rw [this, List.getD_cons_succ]
      · rw [if_neg c]
        by_cases d : x = wordAt (clOf u) a
        · subst d
          rw [if_pos rfl, if_pos (by omega), Nat.sub_self, List.getD_cons_zero]
        · rw [if_neg d, if_neg (by omega)]

/-! ## Bytes of words -/

theorem flatMap_bytes (ws : List PWord) : ∀ n : Nat, (ws.flatMap PWord.bytes)[n]? =
    (ws[n / 4]?).map fun w => (w.val.extractLsb' (8 * (n % 4)) 8, w.poison) := by
  induction ws with
  | nil => intro n; simp
  | cons w t ih =>
    intro n
    simp only [List.flatMap_cons]
    have len : w.bytes.length = 4 := rfl
    by_cases h : n < 4
    · rw [List.getElem?_append_left (by rw [len]; exact h)]
      have z : n / 4 = 0 := by omega
      rw [z]
      match n, h with
      | 0, _ => rfl
      | 1, _ => rfl
      | 2, _ => rfl
      | 3, _ => rfl
    · rw [List.getElem?_append_right (by rw [len]; omega), len, ih (n - 4)]
      have a : n / 4 = (n - 4) / 4 + 1 := by omega
      have b : n % 4 = (n - 4) % 4 := by omega
      rw [a, b, List.getElem?_cons_succ]

theorem sramWord_byte (s : State) (c a j : Nat) (h : j < 4) :
    (s.sramWord c a).extractLsb' (8 * j) 8 = Mem.read s.sram (sramAt c a + j) := by
  unfold State.sramWord
  apply BitVec.eq_of_getLsbD_eq
  intro k hk
  simp only [BitVec.getLsbD_extractLsb', BitVec.getLsbD_append, hk, decide_true, Bool.true_and]
  match j, h with
  | 0, _ => simp [hk]
  | 1, _ =>
    have a : ¬ 8 * 1 + k < 8 := by omega
    have b : 8 * 1 + k - 8 = k := by omega
    simp only [a, b, hk, if_false, if_true]
  | 2, _ =>
    have a : ¬ 8 * 2 + k < 8 := by omega
    have b : ¬ 8 * 2 + k - 8 < 8 := by omega
    have c : 8 * 2 + k - 8 - 8 = k := by omega
    simp only [a, b, c, hk, if_false, if_true]
  | 3, _ =>
    have a : ¬ 8 * 3 + k < 8 := by omega
    have b : ¬ 8 * 3 + k - 8 < 8 := by omega
    have c : ¬ 8 * 3 + k - 8 - 8 < 8 := by omega
    have d : 8 * 3 + k - 8 - 8 - 8 = k := by omega
    simp only [a, b, c, d, if_false]

theorem wordSpan_cases (a n : Nat) : (n = 0 ∧ wordSpan a n = 0) ∨ (0 < n ∧ wordSpan a n = (a + n + 3) / 4 - a / 4) := by
  unfold wordSpan
  split <;> omega

/-- A sound and open load of bytes in SRAM gives the bytes and changes nothing. -/
theorem loadBytes_sram {i : Issue} {s : State} {a n : Nat} (z : a + n ≤ 0x280000)
    (h : s.sound i (a / 4 * 4) (4 * wordSpan a n)) (o : s.allows i.u.num (a / 4 * 4) (4 * wordSpan a n)) :
    s.loadBytes i.ph i.u.num a n = (s, s.run i.u.cl.num a n) := by
  unfold State.loadBytes
  simp only
  rw [loadRange_sound h o]
  simp only [Prod.mk.injEq, true_and]
  apply List.ext_getElem?
  intro j
  unfold State.run
  rw [List.getElem?_take]
  by_cases c : j < n
  · rw [if_pos c, List.getElem?_drop, flatMap_bytes]
    have ws := wordSpan_cases a n
    have d : (a - a / 4 * 4 + j) / 4 < wordSpan a n := by omega
    rw [List.getElem?_map, List.getElem?_range d]
    simp only [Option.map_some, List.getElem?_map, List.getElem?_range c]
    have p : a / 4 * 4 + 4 * ((a - a / 4 * 4 + j) / 4) < 0x280000 := by omega
    rw [peek_sram _ _ p, clOf_num]
    simp only [Option.some.injEq, Prod.mk.injEq]
    constructor
    · rw [sramWord_byte _ _ _ _ (Nat.mod_lt _ (by decide))]
      congr 1
      simp only [sramAt]
      omega
    · unfold State.sramTag
      congr 1
      simp only [wordAt]
      omega
  · rw [if_neg c]
    exact (List.getElem?_eq_none (by rw [List.length_map, List.length_range]; omega)).symm

/-! ## A store of bytes -/

/-- Byte `j` of a word as `PWord.bytes` gives it. -/
theorem bytes_getD (w : PWord) {j : Nat} (h : j < 4) (d : Byte × Bool) :
    w.bytes.getD j d = (w.val.extractLsb' (8 * j) 8, w.poison) := by
  match j, h with
  | 0, _ => rfl
  | 1, _ => rfl
  | 2, _ => rfl
  | 3, _ => rfl

theorem append_byte (b : Nat → Byte) (j : Nat) (h : j < 4) : ((b 3 ++ b 2 ++ b 1 ++ b 0 : Word)).extractLsb' (8 * j) 8 = b j := by
  apply BitVec.eq_of_getLsbD_eq
  intro k hk
  simp only [BitVec.getLsbD_extractLsb', BitVec.getLsbD_append, hk, decide_true, Bool.true_and]
  match j, h with
  | 0, _ => simp [hk]
  | 1, _ =>
    have a : ¬ 8 * 1 + k < 8 := by omega
    have e : 8 * 1 + k - 8 = k := by omega
    simp only [a, e, hk, if_false, if_true]
  | 2, _ =>
    have a : ¬ 8 * 2 + k < 8 := by omega
    have e : ¬ 8 * 2 + k - 8 < 8 := by omega
    have f : 8 * 2 + k - 8 - 8 = k := by omega
    simp only [a, e, f, hk, if_false, if_true]
  | 3, _ =>
    have a : ¬ 8 * 3 + k < 8 := by omega
    have e : ¬ 8 * 3 + k - 8 < 8 := by omega
    have f : ¬ 8 * 3 + k - 8 - 8 < 8 := by omega
    have g : 8 * 3 + k - 8 - 8 - 8 = k := by omega
    simp only [a, e, f, g, if_false]

theorem mergeBytes_length (s : State) (u a : Nat) (bs : List (Byte × Bool)) :
    (s.mergeBytes u a bs).length = wordSpan a bs.length := by simp [State.mergeBytes]

/-- The byte and the tag that the merged word gives at place `x`. -/
theorem mergeBytes_byte (s : State) (u a : Nat) (bs : List (Byte × Bool)) (hz : a + bs.length ≤ 0x280000) {x : Nat}
    (lo : a / 4 * 4 ≤ x) (hi : x < a / 4 * 4 + 4 * wordSpan a bs.length) :
    ((s.mergeBytes u a bs).getD ((x - a / 4 * 4) / 4) PWord.zero).val.extractLsb' (8 * (x % 4)) 8 =
      (if a ≤ x ∧ x < a + bs.length then (bs.getD (x - a) (0, false)).1 else Mem.read s.sram (sramAt (clOf u) x)) ∧
    (a ≤ x → x < a + bs.length → (bs.getD (x - a) (0, false)).2 = true →
      ((s.mergeBytes u a bs).getD ((x - a / 4 * 4) / 4) PWord.zero).poison = true) := by
  have ws := wordSpan_cases a bs.length
  have hi' : (x - a / 4 * 4) / 4 < wordSpan a bs.length := by omega
  have e : (s.mergeBytes u a bs).getD ((x - a / 4 * 4) / 4) PWord.zero =
      (let i := (x - a / 4 * 4) / 4
       let b := a / 4 * 4
       let old := (s.peek u (b + 4 * i)).bytes
       let g (k : Nat) : Byte × Bool :=
         if b + 4 * i + k < a then old.getD k (0, false)
         else match bs[b + 4 * i + k - a]? with
           | some x => x
           | none => old.getD k (0, false)
       (⟨(g 3).1 ++ (g 2).1 ++ (g 1).1 ++ (g 0).1, (g 0).2 || (g 1).2 || (g 2).2 || (g 3).2⟩ : PWord)) := by
    unfold State.mergeBytes
    rw [List.getD_eq_getElem?_getD, List.getElem?_map, List.getElem?_range hi']
    rfl
  rw [e]
  simp only
  generalize hi2 : (x - a / 4 * 4) / 4 = i at *
  have xe : a / 4 * 4 + 4 * i + x % 4 = x := by omega
  have r : x % 4 < 4 := Nat.mod_lt _ (by decide)
  have pk : a / 4 * 4 + 4 * i < 0x280000 := by omega
  refine ⟨?_, fun l h c => ?_⟩
  · rw [append_byte (fun k => (if a / 4 * 4 + 4 * i + k < a then (s.peek u (a / 4 * 4 + 4 * i)).bytes.getD k (0, false)
        else match bs[a / 4 * 4 + 4 * i + k - a]? with
          | some x => x
          | none => (s.peek u (a / 4 * 4 + 4 * i)).bytes.getD k (0, false)).1) _ r]
    simp only [xe]
    have old : ((s.peek u (a / 4 * 4 + 4 * i)).bytes.getD (x % 4) (0, false)).1 = Mem.read s.sram (sramAt (clOf u) x) := by
      rw [bytes_getD _ r, peek_sram _ _ pk]
      show (s.sramWord (clOf u) (a / 4 * 4 + 4 * i)).extractLsb' _ _ = _
      rw [sramWord_byte _ _ _ _ r]
      congr 1
      simp only [sramAt]
      omega
    by_cases c : x < a
    · rw [if_pos c, if_neg (by omega), old]
    · rw [if_neg c]
      by_cases d : x < a + bs.length
      · have lt : x - a < bs.length := by omega
        have g : bs.getD (x - a) (0, false) = bs[x - a] := by
          rw [List.getD_eq_getElem?_getD, List.getElem?_eq_getElem lt]
          rfl
        rw [if_pos (by omega), g, List.getElem?_eq_getElem lt]
      · rw [if_neg (by omega), List.getElem?_eq_none (by omega)]
        exact old
  · have hg : (if a / 4 * 4 + 4 * i + x % 4 < a then (s.peek u (a / 4 * 4 + 4 * i)).bytes.getD (x % 4) (0, false)
        else match bs[a / 4 * 4 + 4 * i + x % 4 - a]? with
          | some x => x
          | none => (s.peek u (a / 4 * 4 + 4 * i)).bytes.getD (x % 4) (0, false)).2 = true := by
      rw [xe, if_neg (by omega), List.getElem?_eq_getElem (by omega)]
      rw [List.getD_eq_getElem?_getD, List.getElem?_eq_getElem (by omega)] at c
      exact c
    have q : x % 4 = 0 ∨ x % 4 = 1 ∨ x % 4 = 2 ∨ x % 4 = 3 := by omega
    rcases q with q | q | q | q <;> rw [q] at hg <;> simp only [hg, Bool.or_true, Bool.true_or]

/-- A store of bytes to an open range of SRAM: exactly those bytes change, and the word of a tagged byte is tagged. -/
theorem storeBytes_sram (u : Nat) {s : State} {a : Nat} {bs : List (Byte × Bool)} (wf : SramCanonical s)
    (z : a + bs.length ≤ 0x280000) (o : s.allows u (spanOf a bs.length).1 (spanOf a bs.length).2) :
    s.storeBytes u a bs = s.storeWords u (a / 4 * 4) (s.mergeBytes u a bs) ∧
    (∀ j, j < bs.length → Mem.read (s.storeBytes u a bs).sram (sramAt (clOf u) a + j) = (bs.getD j (0, false)).1) ∧
    (∀ j, j < bs.length → (bs.getD j (0, false)).2 = true → (s.storeBytes u a bs).sramTag (clOf u) (a + j) = true) ∧
    (∀ x, (x < sramAt (clOf u) a ∨ sramAt (clOf u) a + bs.length ≤ x) →
      Mem.read (s.storeBytes u a bs).sram x = Mem.read s.sram x) ∧
    (s.storeBytes u a bs).arrays = s.arrays := by
  have e : s.storeBytes u a bs = s.storeWords u (a / 4 * 4) (s.mergeBytes u a bs) := by
    unfold State.storeBytes State.storeRange
    rw [tagFaults_allows (by rw [mergeBytes_length]; exact o)]
  have len := mergeBytes_length s u a bs
  have ws := wordSpan_cases a bs.length
  obtain ⟨h1, h2, h3, h4⟩ := storeWords_sram u (s.mergeBytes u a bs) s (a / 4 * 4) wf (by omega) (by rw [len]; omega)
    (by rw [len]; exact o)
  rw [e]
  rw [len] at h1 h2 h3
  refine ⟨rfl, fun j hj => ?_, fun j hj hp => ?_, fun x hx => ?_, h4⟩
  · have lo : a / 4 * 4 ≤ a + j := by omega
    have hi : a + j < a / 4 * 4 + 4 * wordSpan a bs.length := by omega
    have := h1 (a + j)
    rw [if_pos ⟨lo, hi⟩, (mergeBytes_byte s u a bs z lo hi).1, if_pos (by omega)] at this
    have q : sramAt (clOf u) a + j = sramAt (clOf u) (a + j) := by simp only [sramAt]; omega
    rw [q, this]
    congr 2
    omega
  · have lo : a / 4 * 4 ≤ a + j := by omega
    have hi : a + j < a / 4 * 4 + 4 * wordSpan a bs.length := by omega
    unfold State.sramTag
    have wa : wordAt (clOf u) (a + j) - wordAt (clOf u) (a / 4 * 4) = (a + j - a / 4 * 4) / 4 := by simp only [wordAt]; omega
    rw [h3, if_pos (by simp only [wordAt]; omega), wa]
    have q : a + j - a = j := by omega
    exact (mergeBytes_byte s u a bs z lo hi).2 (by omega) (by omega) (by rw [q]; exact hp)
  · by_cases c : x < sramAt (clOf u) (a / 4 * 4) ∨ sramAt (clOf u) (a / 4 * 4) + 4 * wordSpan a bs.length ≤ x
    · exact h2 x c
    · obtain ⟨y, rfl⟩ : ∃ y, x = sramAt (clOf u) y := ⟨x - sramAt (clOf u) 0, by simp only [sramAt] at *; omega⟩
      have lo : a / 4 * 4 ≤ y := by simp only [sramAt] at *; omega
      have hi : y < a / 4 * 4 + 4 * wordSpan a bs.length := by simp only [sramAt] at *; omega
      rw [h1 y, if_pos ⟨lo, hi⟩, (mergeBytes_byte s u a bs z lo hi).1, if_neg (by simp only [sramAt] at *; omega)]

/-! ## Instructions that store bytes -/

/-- The units that an access reads are those of another state. -/
structure SameAccess (s t : State) : Prop where
  strands : t.strands = s.strands
  sram : t.sram = s.sram
  sramPoison : t.sramPoison = s.sramPoison
  sramParity : t.sramParity = s.sramParity
  pages : t.pages = s.pages
  arrays : t.arrays = s.arrays

theorem SameUnits.access {s t : State} (h : SameUnits s t) : SameAccess s t :=
  ⟨h.strands, h.sram, h.sramPoison, h.sramParity, h.pages, h.arrays⟩

theorem SameAccess.trans {s t r : State} (h : SameAccess s t) (g : SameAccess t r) : SameAccess s r :=
  ⟨g.1.trans h.1, g.2.trans h.2, g.3.trans h.3, g.4.trans h.4, g.5.trans h.5, g.6.trans h.6⟩

theorem SameAccess.circuit (i : Issue) (s : State) : SameAccess s (s.circuit i) :=
  ⟨by rw [circuit_shape], by simp, by simp, by simp, by simp, by simp⟩

theorem SameAccess.spend (s : State) (n : Nat) : SameAccess s (s.spend n) := ⟨rfl, rfl, rfl, rfl, rfl, rfl⟩

theorem SameAccess.strand {s t : State} (h : SameAccess s t) (u : Nat) : t.strand u = s.strand u := by
  simp [State.strand, h.strands]

theorem SameAccess.mayAccess {s t : State} (h : SameAccess s t) (u a : Nat) : t.mayAccess u a = s.mayAccess u a := by
  unfold State.mayAccess State.page
  rw [h.pages, h.strand u]

theorem SameAccess.allows {s t : State} (h : SameAccess s t) {u a n : Nat} (o : s.allows u a n) : t.allows u a n :=
  fun x l r => by rw [h.mayAccess]; exact o x l r

theorem SameAccess.sound {s t : State} (h : SameAccess s t) {i : Issue} {a n : Nat} (o : s.sound i a n) : t.sound i a n :=
  o.congr h.sramParity

theorem SameUnits.countQuant (s : State) (c : Nat) (bs : List QBlock) : SameUnits s (s.countQuant c bs) := by
  have add : ∀ (s : State) (sub n : Nat), SameUnits s (if n = 0 then s else s.bump (fmtCnt c sub) n) := fun s sub n =>
    SameUnits.ite (SameUnits.refl s) (SameUnits.bump s _ _)
  unfold State.countQuant
  exact (add s _ _).trans ((add _ _ _).trans ((add _ _ _).trans (add _ _ _)))

@[simp] theorem retire_sram (s : State) (i : Issue) : (s.retire i).sram = s.sram := by rw [(retire_quiet i s).shape]
@[simp] theorem retire_sramPoison (s : State) (i : Issue) : (s.retire i).sramPoison = s.sramPoison := by rw [(retire_quiet i s).shape]
@[simp] theorem retire_arrays (s : State) (i : Issue) : (s.retire i).arrays = s.arrays := by rw [(retire_quiet i s).shape]

/-- An instruction that stores bytes and advances lays them. -/
theorem Lays.of {c : Instr} {i : Issue} {s x : State} {a : Nat} {bs : List (Byte × Bool)} (h : SameAccess s x)
    (e : exec c s = .next ((x.storeBytes i.u.num a bs).retire i)) (wf : SramCanonical s) (z : a + bs.length ≤ 0x280000)
    (o : s.allows i.u.num (spanOf a bs.length).1 (spanOf a bs.length).2) : Lays c i s a bs := by
  obtain ⟨h0, h1, h2, h3, h4⟩ := storeBytes_sram i.u.num (s := x) (a := a) (bs := bs) (by unfold SramCanonical; rw [h.sram]; exact wf) z (h.allows o)
  rw [clOf_num] at h1 h2 h3
  refine ⟨_, e, ?_, fun j hj => ?_, fun j hj hp => ?_, fun y hy => ?_, ?_⟩
  · rw [retire_strand, h0]
    have : (x.storeWords i.u.num (a / 4 * 4) (x.mergeBytes i.u.num a bs)).strand i.u.num = s.strand i.u.num := by
      rw [storeWords_keeps]
      exact h.strand _
    rw [this]
  · rw [retire_sram]; exact h1 j hj
  · unfold State.sramTag
    rw [retire_sramPoison]
    exact h2 j hj hp
  · rw [retire_sram, h3 y hy, h.sram]
  · rw [retire_arrays, h4, h.arrays]

end Sys2Proof.Machine
end

