-- ==== Sys2Proof/Laws/Dispatch.lean ====
section
/-!
SUPPORT. The execution of each command is its meaning.
-/
namespace Sys2Proof.Machine

theorem exec_nop (iss : Issue) (s : State) :
    exec (.nop iss) s = execNop iss s := rfl
theorem exec_add (iss : Issue) (rd : Reg) (ra : Reg) (rb : Reg) (s : State) :
    exec (.add iss rd ra rb) s = execAdd iss rd ra rb s := rfl
theorem exec_sub (iss : Issue) (rd : Reg) (ra : Reg) (rb : Reg) (s : State) :
    exec (.sub iss rd ra rb) s = execSub iss rd ra rb s := rfl
theorem exec_and (iss : Issue) (rd : Reg) (ra : Reg) (rb : Reg) (s : State) :
    exec (.and iss rd ra rb) s = execAnd iss rd ra rb s := rfl
theorem exec_or (iss : Issue) (rd : Reg) (ra : Reg) (rb : Reg) (s : State) :
    exec (.or iss rd ra rb) s = execOr iss rd ra rb s := rfl
theorem exec_xor (iss : Issue) (rd : Reg) (ra : Reg) (rb : Reg) (s : State) :
    exec (.xor iss rd ra rb) s = execXor iss rd ra rb s := rfl
theorem exec_shl (iss : Issue) (rd : Reg) (ra : Reg) (rb : Reg) (s : State) :
    exec (.shl iss rd ra rb) s = execShl iss rd ra rb s := rfl
theorem exec_shr (iss : Issue) (rd : Reg) (ra : Reg) (rb : Reg) (s : State) :
    exec (.shr iss rd ra rb) s = execShr iss rd ra rb s := rfl
theorem exec_sra (iss : Issue) (rd : Reg) (ra : Reg) (rb : Reg) (s : State) :
    exec (.sra iss rd ra rb) s = execSra iss rd ra rb s := rfl
theorem exec_mul (iss : Issue) (rd : Reg) (ra : Reg) (rb : Reg) (s : State) :
    exec (.mul iss rd ra rb) s = execMul iss rd ra rb s := rfl
theorem exec_slt (iss : Issue) (rd : Reg) (ra : Reg) (rb : Reg) (s : State) :
    exec (.slt iss rd ra rb) s = execSlt iss rd ra rb s := rfl
theorem exec_sltu (iss : Issue) (rd : Reg) (ra : Reg) (rb : Reg) (s : State) :
    exec (.sltu iss rd ra rb) s = execSltu iss rd ra rb s := rfl
theorem exec_min (iss : Issue) (rd : Reg) (ra : Reg) (rb : Reg) (s : State) :
    exec (.min iss rd ra rb) s = execMin iss rd ra rb s := rfl
theorem exec_max (iss : Issue) (rd : Reg) (ra : Reg) (rb : Reg) (s : State) :
    exec (.max iss rd ra rb) s = execMax iss rd ra rb s := rfl
theorem exec_addi (iss : Issue) (rd : Reg) (ra : Reg) (imm : BitVec 16) (s : State) :
    exec (.addi iss rd ra imm) s = execAddi iss rd ra imm s := rfl
theorem exec_andi (iss : Issue) (rd : Reg) (ra : Reg) (imm : BitVec 16) (s : State) :
    exec (.andi iss rd ra imm) s = execAndi iss rd ra imm s := rfl
theorem exec_ori (iss : Issue) (rd : Reg) (ra : Reg) (imm : BitVec 16) (s : State) :
    exec (.ori iss rd ra imm) s = execOri iss rd ra imm s := rfl
theorem exec_xori (iss : Issue) (rd : Reg) (ra : Reg) (imm : BitVec 16) (s : State) :
    exec (.xori iss rd ra imm) s = execXori iss rd ra imm s := rfl
theorem exec_slti (iss : Issue) (rd : Reg) (ra : Reg) (imm : BitVec 16) (s : State) :
    exec (.slti iss rd ra imm) s = execSlti iss rd ra imm s := rfl
theorem exec_shiShl (iss : Issue) (rd : Reg) (ra : Reg) (sh : BitVec 5) (s : State) :
    exec (.shiShl iss rd ra sh) s = execShiShl iss rd ra sh s := rfl
theorem exec_shiShr (iss : Issue) (rd : Reg) (ra : Reg) (sh : BitVec 5) (s : State) :
    exec (.shiShr iss rd ra sh) s = execShiShr iss rd ra sh s := rfl
theorem exec_shiSra (iss : Issue) (rd : Reg) (ra : Reg) (sh : BitVec 5) (s : State) :
    exec (.shiSra iss rd ra sh) s = execShiSra iss rd ra sh s := rfl
theorem exec_lui (iss : Issue) (rd : Reg) (imm : BitVec 16) (s : State) :
    exec (.lui iss rd imm) s = execLui iss rd imm s := rfl
theorem exec_lds (iss : Issue) (rd : Reg) (ra : Reg) (imm : BitVec 16) (s : State) :
    exec (.lds iss rd ra imm) s = execLds iss rd ra imm s := rfl
theorem exec_sts (iss : Issue) (rd : Reg) (ra : Reg) (imm : BitVec 16) (s : State) :
    exec (.sts iss rd ra imm) s = execSts iss rd ra imm s := rfl
theorem exec_sysr (iss : Issue) (rd : Reg) (imm : BitVec 16) (s : State) :
    exec (.sysr iss rd imm) s = execSysr iss rd imm s := rfl
theorem exec_beq (iss : Issue) (ra : Reg) (rb : Reg) (off : BitVec 16) (s : State) :
    exec (.beq iss ra rb off) s = execBeq iss ra rb off s := rfl
theorem exec_bne (iss : Issue) (ra : Reg) (rb : Reg) (off : BitVec 16) (s : State) :
    exec (.bne iss ra rb off) s = execBne iss ra rb off s := rfl
theorem exec_blt (iss : Issue) (ra : Reg) (rb : Reg) (off : BitVec 16) (s : State) :
    exec (.blt iss ra rb off) s = execBlt iss ra rb off s := rfl
theorem exec_bge (iss : Issue) (ra : Reg) (rb : Reg) (off : BitVec 16) (s : State) :
    exec (.bge iss ra rb off) s = execBge iss ra rb off s := rfl
theorem exec_bltu (iss : Issue) (ra : Reg) (rb : Reg) (off : BitVec 16) (s : State) :
    exec (.bltu iss ra rb off) s = execBltu iss ra rb off s := rfl
theorem exec_bgeu (iss : Issue) (ra : Reg) (rb : Reg) (off : BitVec 16) (s : State) :
    exec (.bgeu iss ra rb off) s = execBgeu iss ra rb off s := rfl
theorem exec_jal (iss : Issue) (off : BitVec 26) (s : State) :
    exec (.jal iss off) s = execJal iss off s := rfl
theorem exec_jr (iss : Issue) (ra : Reg) (s : State) :
    exec (.jr iss ra) s = execJr iss ra s := rfl
theorem exec_bpany (iss : Issue) (pn : PReg) (off : BitVec 16) (s : State) :
    exec (.bpany iss pn off) s = execBpany iss pn off s := rfl
theorem exec_bpall (iss : Issue) (pn : PReg) (off : BitVec 16) (s : State) :
    exec (.bpall iss pn off) s = execBpall iss pn off s := rfl
theorem exec_vadd (iss : Issue) (o : VOps) (s : State) :
    exec (.vadd iss o) s = execVadd iss o s := rfl
theorem exec_vsub (iss : Issue) (o : VOps) (s : State) :
    exec (.vsub iss o) s = execVsub iss o s := rfl
theorem exec_vmul (iss : Issue) (o : VOps) (s : State) :
    exec (.vmul iss o) s = execVmul iss o s := rfl
theorem exec_vmax (iss : Issue) (o : VOps) (s : State) :
    exec (.vmax iss o) s = execVmax iss o s := rfl
theorem exec_vmin (iss : Issue) (o : VOps) (s : State) :
    exec (.vmin iss o) s = execVmin iss o s := rfl
theorem exec_vfma (iss : Issue) (o : VOps) (s : State) :
    exec (.vfma iss o) s = execVfma iss o s := rfl
theorem exec_vand (iss : Issue) (o : VOps) (s : State) :
    exec (.vand iss o) s = execVand iss o s := rfl
theorem exec_vor (iss : Issue) (o : VOps) (s : State) :
    exec (.vor iss o) s = execVor iss o s := rfl
theorem exec_vxor (iss : Issue) (o : VOps) (s : State) :
    exec (.vxor iss o) s = execVxor iss o s := rfl
theorem exec_vshl (iss : Issue) (o : VOps) (s : State) :
    exec (.vshl iss o) s = execVshl iss o s := rfl
theorem exec_vshr (iss : Issue) (o : VOps) (s : State) :
    exec (.vshr iss o) s = execVshr iss o s := rfl
theorem exec_vabs (iss : Issue) (o : VOps) (s : State) :
    exec (.vabs iss o) s = execVabs iss o s := rfl
theorem exec_vneg (iss : Issue) (o : VOps) (s : State) :
    exec (.vneg iss o) s = execVneg iss o s := rfl
theorem exec_vsel (iss : Issue) (o : VOps) (s : State) :
    exec (.vsel iss o) s = execVsel iss o s := rfl
theorem exec_vexp2 (iss : Issue) (o : VOps) (s : State) :
    exec (.vexp2 iss o) s = execVexp2 iss o s := rfl
theorem exec_vexp (iss : Issue) (o : VOps) (s : State) :
    exec (.vexp iss o) s = execVexp iss o s := rfl
theorem exec_vrcp (iss : Issue) (o : VOps) (s : State) :
    exec (.vrcp iss o) s = execVrcp iss o s := rfl
theorem exec_vrsqrt (iss : Issue) (o : VOps) (s : State) :
    exec (.vrsqrt iss o) s = execVrsqrt iss o s := rfl
theorem exec_vlog2 (iss : Issue) (o : VOps) (s : State) :
    exec (.vlog2 iss o) s = execVlog2 iss o s := rfl
theorem exec_vsigm (iss : Issue) (o : VOps) (s : State) :
    exec (.vsigm iss o) s = execVsigm iss o s := rfl
theorem exec_vtanh (iss : Issue) (o : VOps) (s : State) :
    exec (.vtanh iss o) s = execVtanh iss o s := rfl
theorem exec_vsilu (iss : Issue) (o : VOps) (s : State) :
    exec (.vsilu iss o) s = execVsilu iss o s := rfl
theorem exec_vrsum (iss : Issue) (o : VOps) (s : State) :
    exec (.vrsum iss o) s = execVrsum iss o s := rfl
theorem exec_vrmax (iss : Issue) (o : VOps) (s : State) :
    exec (.vrmax iss o) s = execVrmax iss o s := rfl
theorem exec_vrmin (iss : Issue) (o : VOps) (s : State) :
    exec (.vrmin iss o) s = execVrmin iss o s := rfl
theorem exec_vrargmax (iss : Issue) (o : VOps) (s : State) :
    exec (.vrargmax iss o) s = execVrargmax iss o s := rfl
theorem exec_vcmplt (iss : Issue) (o : VOps) (s : State) :
    exec (.vcmplt iss o) s = execVcmplt iss o s := rfl
theorem exec_vcmple (iss : Issue) (o : VOps) (s : State) :
    exec (.vcmple iss o) s = execVcmple iss o s := rfl
theorem exec_vcmpeq (iss : Issue) (o : VOps) (s : State) :
    exec (.vcmpeq iss o) s = execVcmpeq iss o s := rfl
theorem exec_vcmpne (iss : Issue) (o : VOps) (s : State) :
    exec (.vcmpne iss o) s = execVcmpne iss o s := rfl
theorem exec_vcvt (iss : Issue) (vd : Reg) (va : Reg) (pr : PReg) (src : VFmt) (dst : VFmt) (sat : Bool) (s : State) :
    exec (.vcvt iss vd va pr src dst sat) s = execVcvt iss vd va pr src dst sat s := rfl
theorem exec_vbcast (iss : Issue) (vd : Reg) (sa : Reg) (pr : PReg) (s : State) :
    exec (.vbcast iss vd sa pr) s = execVbcast iss vd sa pr s := rfl
theorem exec_viota (iss : Issue) (vd : Reg) (pr : PReg) (s : State) :
    exec (.viota iss vd pr) s = execViota iss vd pr s := rfl
theorem exec_vcopy (iss : Issue) (vd : Reg) (va : Reg) (pr : PReg) (s : State) :
    exec (.vcopy iss vd va pr) s = execVcopy iss vd va pr s := rfl
theorem exec_vld (iss : Issue) (vd : Reg) (ra : Reg) (len : Fin 32) (off : BitVec 11) (s : State) :
    exec (.vld iss vd ra len off) s = execVld iss vd ra len off s := rfl
theorem exec_vst (iss : Issue) (vd : Reg) (ra : Reg) (len : Fin 32) (off : BitVec 11) (s : State) :
    exec (.vst iss vd ra len off) s = execVst iss vd ra len off s := rfl
theorem exec_pand (iss : Issue) (pd : PReg) (pa : PReg) (pb : PReg) (pr : PReg) (s : State) :
    exec (.pand iss pd pa pb pr) s = execPand iss pd pa pb pr s := rfl
theorem exec_por (iss : Issue) (pd : PReg) (pa : PReg) (pb : PReg) (pr : PReg) (s : State) :
    exec (.por iss pd pa pb pr) s = execPor iss pd pa pb pr s := rfl
theorem exec_pxor (iss : Issue) (pd : PReg) (pa : PReg) (pb : PReg) (pr : PReg) (s : State) :
    exec (.pxor iss pd pa pb pr) s = execPxor iss pd pa pb pr s := rfl
theorem exec_pnot (iss : Issue) (pd : PReg) (pa : PReg) (pr : PReg) (s : State) :
    exec (.pnot iss pd pa pr) s = execPnot iss pd pa pr s := rfl
theorem exec_pcnt (iss : Issue) (sd : Reg) (pa : PReg) (pr : PReg) (s : State) :
    exec (.pcnt iss sd pa pr) s = execPcnt iss sd pa pr s := rfl
theorem exec_qa (iss : Issue) (va : Reg) (sd : Reg) (sp : Reg) (dst : QDst) (mode : QMode) (a4 : Bool) (rpl : Bool) (x : Nat) (s : State) :
    exec (.qa iss va sd sp dst mode a4 rpl x) s = execQa iss va sd sp dst mode a4 rpl x s := rfl
theorem exec_qkv4 (iss : Issue) (va : Reg) (sd : Reg) (sp : Reg) (s : State) :
    exec (.qkv4 iss va sd sp) s = execQkv4 iss va sd sp s := rfl
theorem exec_qkv8 (iss : Issue) (va : Reg) (sd : Reg) (sp : Reg) (s : State) :
    exec (.qkv8 iss va sd sp) s = execQkv8 iss va sd sp s := rfl
theorem exec_qmx4 (iss : Issue) (va : Reg) (sd : Reg) (sp : Reg) (s : State) :
    exec (.qmx4 iss va sd sp) s = execQmx4 iss va sd sp s := rfl
theorem exec_qmx5 (iss : Issue) (va : Reg) (sd : Reg) (sp : Reg) (s : State) :
    exec (.qmx5 iss va sd sp) s = execQmx5 iss va sd sp s := rfl
theorem exec_mxexp (iss : Issue) (sd : Reg) (sp : Reg) (s : State) :
    exec (.mxexp iss sd sp) s = execMxexp iss sd sp s := rfl
theorem exec_mximp (iss : Issue) (sd : Reg) (sp : Reg) (s : State) :
    exec (.mximp iss sd sp) s = execMximp iss sd sp s := rfl
theorem exec_dqa8 (iss : Issue) (va : Reg) (sd : Reg) (sp : Reg) (s : State) :
    exec (.dqa8 iss va sd sp) s = execDqa8 iss va sd sp s := rfl
theorem exec_dqa4 (iss : Issue) (va : Reg) (sd : Reg) (sp : Reg) (s : State) :
    exec (.dqa4 iss va sd sp) s = execDqa4 iss va sd sp s := rfl
theorem exec_dqkv4 (iss : Issue) (va : Reg) (sd : Reg) (sp : Reg) (s : State) :
    exec (.dqkv4 iss va sd sp) s = execDqkv4 iss va sd sp s := rfl
theorem exec_dqkv8 (iss : Issue) (va : Reg) (sd : Reg) (sp : Reg) (s : State) :
    exec (.dqkv8 iss va sd sp) s = execDqkv8 iss va sd sp s := rfl
theorem exec_dqmx4 (iss : Issue) (va : Reg) (sd : Reg) (sp : Reg) (s : State) :
    exec (.dqmx4 iss va sd sp) s = execDqmx4 iss va sd sp s := rfl
theorem exec_dqmx5 (iss : Issue) (va : Reg) (sd : Reg) (sp : Reg) (s : State) :
    exec (.dqmx5 iss va sd sp) s = execDqmx5 iss va sd sp s := rfl
theorem exec_mvm (iss : Issue) (o : ArrOps) (s : State) :
    exec (.mvm iss o) s = execMvm iss o s := rfl
theorem exec_tread (iss : Issue) (o : ArrOps) (s : State) :
    exec (.tread iss o) s = execTread iss o s := rfl
theorem exec_seq0 (iss : Issue) (o : ArrOps) (s : State) :
    exec (.seq0 iss o) s = execSeq0 iss o s := rfl
theorem exec_seq6 (iss : Issue) (o : ArrOps) (s : State) :
    exec (.seq6 iss o) s = execSeq6 iss o s := rfl
theorem exec_dma (iss : Issue) (rd : Reg) (ra : Reg) (rb : Reg) (notify : Fin 64) (s : State) :
    exec (.dma iss rd ra rb notify) s = execDma iss rd ra rb notify s := rfl
theorem exec_rsend (iss : Issue) (rd : Reg) (ra : Reg) (rb : Reg) (ring : Fin 4) (auto : Bool) (reduce : Fin 3) (pack : Fin 3) (s : State) :
    exec (.rsend iss rd ra rb ring auto reduce pack) s = execRsend iss rd ra rb ring auto reduce pack s := rfl
theorem exec_rrecv (iss : Issue) (rd : Reg) (ra : Reg) (chan : Fin 16) (notify : Fin 64) (s : State) :
    exec (.rrecv iss rd ra chan notify) s = execRrecv iss rd ra chan notify s := rfl
theorem exec_sinc (iss : Issue) (obj : Fin 64) (ra : Reg) (s : State) :
    exec (.sinc iss obj ra) s = execSinc iss obj ra s := rfl
theorem exec_sset (iss : Issue) (obj : Fin 64) (ra : Reg) (s : State) :
    exec (.sset iss obj ra) s = execSset iss obj ra s := rfl
theorem exec_swait (iss : Issue) (obj : Fin 64) (ra : Reg) (s : State) :
    exec (.swait iss obj ra) s = execSwait iss obj ra s := rfl
theorem exec_swaiteq (iss : Issue) (obj : Fin 64) (ra : Reg) (s : State) :
    exec (.swaiteq iss obj ra) s = execSwaiteq iss obj ra s := rfl
theorem exec_sread (iss : Issue) (obj : Fin 64) (rd : Reg) (s : State) :
    exec (.sread iss obj rd) s = execSread iss obj rd s := rfl
theorem exec_ssig (iss : Issue) (obj : Fin 64) (ra : Reg) (rd : Reg) (s : State) :
    exec (.ssig iss obj ra rd) s = execSsig iss obj ra rd s := rfl
theorem exec_sarrive (iss : Issue) (obj : Fin 64) (s : State) :
    exec (.sarrive iss obj) s = execSarrive iss obj s := rfl
theorem exec_twait (iss : Issue) (p : BitVec 12) (s : State) :
    exec (.twait iss p) s = execTwait iss p s := rfl
theorem exec_dln (iss : Issue) (p : BitVec 12) (s : State) :
    exec (.dln iss p) s = execDln iss p s := rfl
theorem exec_tbase (iss : Issue) (p : BitVec 12) (s : State) :
    exec (.tbase iss p) s = execTbase iss p s := rfl
theorem exec_tnow (iss : Issue) (rd : Reg) (s : State) :
    exec (.tnow iss rd) s = execTnow iss rd s := rfl
theorem exec_tgap (iss : Issue) (g : BitVec 12) (s : State) :
    exec (.tgap iss g) s = execTgap iss g s := rfl
theorem exec_batch (iss : Issue) (bank : Fin 2) (s : State) :
    exec (.batch iss bank) s = execBatch iss bank s := rfl
theorem exec_step (iss : Issue) (s : State) :
    exec (.step iss) s = execStep iss s := rfl
theorem exec_endJob (iss : Issue) (s : State) :
    exec (.endJob iss) s = execEnd iss s := rfl
theorem exec_trst (iss : Issue) (s : State) :
    exec (.trst iss) s = execTrst iss s := rfl
theorem exec_pslot (iss : Issue) (ra : Reg) (s : State) :
    exec (.pslot iss ra) s = execPslot iss ra s := rfl
theorem exec_ptag (iss : Issue) (ra : Reg) (rd : Reg) (s : State) :
    exec (.ptag iss ra rd) s = execPtag iss ra rd s := rfl
theorem exec_pcsrr (iss : Issue) (rd : Reg) (n : BitVec 12) (s : State) :
    exec (.pcsrr iss rd n) s = execPcsrr iss rd n s := rfl
theorem exec_pcsrw (iss : Issue) (ra : Reg) (n : BitVec 12) (s : State) :
    exec (.pcsrw iss ra n) s = execPcsrw iss ra n s := rfl
theorem exec_pclr (iss : Issue) (ra : Reg) (s : State) :
    exec (.pclr iss ra) s = execPclr iss ra s := rfl
theorem exec_degenReplay (u : StrandId) (s : State) :
    exec (.degenReplay u) s = execDegenReplay u s := rfl
theorem exec_arrayQueueEntry (x : ArrayId) (clk : Fin 8) (late : Nat) (s : State) :
    exec (.arrayQueueEntry x clk late) s = execArrayQueueEntry x clk late s := rfl
theorem exec_arrayCommandStart (x : ArrayId) (st : Fin 2) (clk : Fin 8) (s : State) :
    exec (.arrayCommandStart x st clk) s = execArrayCommandStart x st clk s := rfl
theorem exec_arrayPhaseStart (x : ArrayId) (clk : Fin 8) (s : State) :
    exec (.arrayPhaseStart x clk) s = execArrayPhaseStart x clk s := rfl
theorem exec_arrayResultAvailable (x : ArrayId) (s : State) :
    exec (.arrayResultAvailable x) s = execArrayResultAvailable x s := rfl
theorem exec_programRow (x : ArrayId) (clk : Fin 8) (iters : Fin 8) (ok : Bool) (s : State) :
    exec (.programRow x clk iters ok) s = execProgramRow x clk iters ok s := rfl
theorem exec_seqStart (n : Nat) (x : ArrayId) (v : BitVec 8) (s : State) :
    exec (.seqStart n x v) s = execSeqStart n x v s := rfl
theorem exec_seqAbort (n : Nat) (x : ArrayId) (v : Bool) (s : State) :
    exec (.seqAbort n x v) s = execSeqAbort n x v s := rfl
theorem exec_seqEntry (n : Nat) (x : ArrayId) (e : Fin 32) (v : BitVec 64) (s : State) :
    exec (.seqEntry n x e v) s = execSeqEntry n x e v s := rfl
theorem exec_seqResume (x : ArrayId) (s : State) :
    exec (.seqResume x) s = execSeqResume x s := rfl
theorem exec_seqNop (x : ArrayId) (s : State) :
    exec (.seqNop x) s = execSeqNop x s := rfl
theorem exec_senseCol (x : ArrayId) (s : State) :
    exec (.senseCol x) s = execSenseCol x s := rfl
theorem exec_senseRow (x : ArrayId) (s : State) :
    exec (.senseRow x) s = execSenseRow x s := rfl
theorem exec_zeroRef (x : ArrayId) (s : State) :
    exec (.zeroRef x) s = execZeroRef x s := rfl
theorem exec_refCol (x : ArrayId) (s : State) :
    exec (.refCol x) s = execRefCol x s := rfl
theorem exec_openWire (x : ArrayId) (faults : List WireMeas) (s : State) :
    exec (.openWire x faults) s = execOpenWire x faults s := rfl
theorem exec_biasMon (x : ArrayId) (s : State) :
    exec (.biasMon x) s = execBiasMon x s := rfl
theorem exec_monitorWindowEnd (x : ArrayId) (s : State) :
    exec (.monitorWindowEnd x) s = execMonitorWindowEnd x s := rfl
theorem exec_strandStart (j : Nat) (s : State) :
    exec (.strandStart j) s = execStrandStart j s := rfl
theorem exec_holdStart (j : Nat) (s : State) :
    exec (.holdStart j) s = execHoldStart j s := rfl
theorem exec_holdEnd (j : Nat) (s : State) :
    exec (.holdEnd j) s = execHoldEnd j s := rfl
theorem exec_strandClearDone (v : StrandId) (s : State) :
    exec (.strandClearDone v) s = execStrandClearDone v s := rfl
theorem exec_dmaComplete (v : StrandId) (parity : List (Nat × Bool)) (s : State) :
    exec (.dmaComplete v parity) s = execDmaComplete v parity s := rfl
theorem exec_messageLand (k : Nat) (conflicts : Nat) (s : State) :
    exec (.messageLand k conflicts) s = execMessageLand k conflicts s := rfl
theorem exec_badHeaders (d : Fin 16) (type : Fin 16) (s : State) :
    exec (.badHeaders d type) s = execBadHeaders d type s := rfl
theorem exec_mergeForward (j : Nat) (rgid : Nat) (iss : Nat) (s : State) :
    exec (.mergeForward j rgid iss) s = execMergeForward j rgid iss s := rfl
theorem exec_mergeTimeout (j : Nat) (rgid : Nat) (iss : Nat) (s : State) :
    exec (.mergeTimeout j rgid iss) s = execMergeTimeout j rgid iss s := rfl
theorem exec_flitReplay (d : Fin 16) (g : Fin 400) (link : Option (Fin 33)) (what : ReplayOf) (again : Again) (s : State) :
    exec (.flitReplay d g link what again) s = execFlitReplay d g link what again s := rfl
theorem exec_linkAckTimeout (l : Fin 33) (s : State) :
    exec (.linkAckTimeout l) s = execLinkAckTimeout l s := rfl
theorem exec_linkTrainingDone (l : Fin 33) (ok : Bool) (s : State) :
    exec (.linkTrainingDone l ok) s = execLinkTrainingDone l ok s := rfl
theorem exec_linkRetrain (n : Nat) (l : Fin 33) (v : Bool) (s : State) :
    exec (.linkRetrain n l v) s = execLinkRetrain n l v s := rfl
theorem exec_syncAdd (k : Nat) (s : State) :
    exec (.syncAdd k) s = execSyncAdd k s := rfl
theorem exec_arrive (k : Nat) (s : State) :
    exec (.arrive k) s = execArrive k s := rfl
theorem exec_release (k : Nat) (s : State) :
    exec (.release k) s = execRelease k s := rfl
theorem exec_orphan (k : Nat) (s : State) :
    exec (.orphan k) s = execOrphan k s := rfl
theorem exec_control (k : Nat) (s : State) :
    exec (.control k) s = execControl k s := rfl
theorem exec_ballastFloorUpdate (dst : FloorTo) (s : State) :
    exec (.ballastFloorUpdate dst) s = execBallastFloorUpdate dst s := rfl
theorem exec_allowanceLend (c : ClusterId) (s : State) :
    exec (.allowanceLend c) s = execAllowanceLend c s := rfl
theorem exec_syncValue (n : Nat) (c : ClusterId) (b : Fin 48) (v : Word) (s : State) :
    exec (.syncValue n c b v) s = execSyncValue n c b v s := rfl
theorem exec_nodeForce (n : Nat) (c : ClusterId) (b : Fin 48) (v : Bool) (s : State) :
    exec (.nodeForce n c b v) s = execNodeForce n c b v s := rfl
theorem exec_idleGap (v : StrandId) (s : State) :
    exec (.idleGap v) s = execIdleGap v s := rfl
theorem exec_beaconSend (ptp : Option (BitVec 64)) (s : State) :
    exec (.beaconSend ptp) s = execBeaconSend ptp s := rfl
theorem exec_beacon (p : Fin 6) (cnt : BitVec 64) (root : Fin 0x1000000) (hops : Fin 256) (seq : Word) (flags : Byte) (off : BitVec 16) (s : State) :
    exec (.beacon p cnt root hops seq flags off) s = execBeacon p cnt root hops seq flags off s := rfl
theorem exec_slew (s : State) :
    exec (.slew) s = execSlew s := rfl
theorem exec_beaconTimeout (s : State) :
    exec (.beaconTimeout) s = execBeaconTimeout s := rfl
theorem exec_syncReacquire (s : State) :
    exec (.syncReacquire) s = execSyncReacquire s := rfl
theorem exec_ptpTimeValid (t : BitVec 64) (s : State) :
    exec (.ptpTimeValid t) s = execPtpTimeValid t s := rfl
theorem exec_holdRecord (j : Nat) (m : Nat) (cause : Nat) (times : HoldTimes) (s : State) :
    exec (.holdRecord j m cause times) s = execHoldRecord j m cause times s := rfl
theorem exec_peerHoldRequest (j : Nat) (m : Nat) (off : Word) (s : State) :
    exec (.peerHoldRequest j m off) s = execPeerHoldRequest j m off s := rfl
theorem exec_elasticRelease (j : Nat) (k : Nat) (s : State) :
    exec (.elasticRelease j k) s = execElasticRelease j k s := rfl
theorem exec_ceilingReport (m : Nat) (d : Fin 16) (c : Nat) (s : State) :
    exec (.ceilingReport m d c) s = execCeilingReport m d c s := rfl
theorem exec_unsupportedFrame (s : State) :
    exec (.unsupportedFrame) s = execUnsupportedFrame s := rfl
theorem exec_pfcFrame (enable : Byte) (quanta : List (BitVec 16)) (s : State) :
    exec (.pfcFrame enable quanta) s = execPfcFrame enable quanta s := rfl
theorem exec_esmcFrame (ql : Fin 16) (s : State) :
    exec (.esmcFrame ql) s = execEsmcFrame ql s := rfl
theorem exec_ptpFrame (vlan : Nat) (domain : Nat) (announce : Option Bool) (s : State) :
    exec (.ptpFrame vlan domain announce) s = execPtpFrame vlan domain announce s := rfl
theorem exec_arpRequest (vlan : Nat) (target : BitVec 32) (s : State) :
    exec (.arpRequest vlan target) s = execArpRequest vlan target s := rfl
theorem exec_ipv6Nd (vlan : Nat) (target : BitVec 128) (s : State) :
    exec (.ipv6Nd vlan target) s = execIpv6Nd vlan target s := rfl
theorem exec_hostLinkChange (v : Fin 4) (s : State) :
    exec (.hostLinkChange v) s = execHostLinkChange v s := rfl
theorem exec_unknownMessage (h : MbtHdr) (s : State) :
    exec (.unknownMessage h) s = execUnknownMessage h s := rfl
theorem exec_submitParams (h : MbtHdr) (payload : List Byte) (s : State) :
    exec (.submitParams h payload) s = execSubmitParams h payload s := rfl
theorem exec_submitPrompt (h : MbtHdr) (payload : List Byte) (s : State) :
    exec (.submitPrompt h payload) s = execSubmitPrompt h payload s := rfl
theorem exec_admissionRecord (x : Fin 4096) (s : State) :
    exec (.admissionRecord x) s = execAdmissionRecord x s := rfl
theorem exec_stream (k : Nat) (s : State) :
    exec (.stream k) s = execStream k s := rfl
theorem exec_stepReport (k : Nat) (s : State) :
    exec (.stepReport k) s = execStepReport k s := rfl
theorem exec_kvReleased (x : Fin 4096) (s : State) :
    exec (.kvReleased x) s = execKvReleased x s := rfl
theorem exec_retainExpiry (x : Fin 4096) (s : State) :
    exec (.retainExpiry x) s = execRetainExpiry x s := rfl
theorem exec_ctxCancel (n : Nat) (x : BitVec 16) (s : State) :
    exec (.ctxCancel n x) s = execCtxCancel n x s := rfl
theorem exec_trainResume (j : Nat) (s : State) :
    exec (.trainResume j) s = execTrainResume j s := rfl
theorem exec_prefixPut (h : MbtHdr) (payload : List Byte) (s : State) :
    exec (.prefixPut h payload) s = execPrefixPut h payload s := rfl
theorem exec_prefixExport (h : MbtHdr) (payload : List Byte) (s : State) :
    exec (.prefixExport h payload) s = execPrefixExport h payload s := rfl
theorem exec_prefixImport (h : MbtHdr) (payload : List Byte) (s : State) :
    exec (.prefixImport h payload) s = execPrefixImport h payload s := rfl
theorem exec_kvput (h : MbtHdr) (payload : List Byte) (s : State) :
    exec (.kvput h payload) s = execKvput h payload s := rfl
theorem exec_importDeadline (e : Fin 16384) (s : State) :
    exec (.importDeadline e) s = execImportDeadline e s := rfl
theorem exec_prefixDelete (n : Nat) (h : Word) (s : State) :
    exec (.prefixDelete n h) s = execPrefixDelete n h s := rfl
theorem exec_loadImage (h : MbtHdr) (payload : List Byte) (s : State) :
    exec (.loadImage h payload) s = execLoadImage h payload s := rfl
theorem exec_loadManifest (h : MbtHdr) (payload : List Byte) (s : State) :
    exec (.loadManifest h payload) s = execLoadManifest h payload s := rfl
theorem exec_loadWeights (h : MbtHdr) (payload : List Byte) (s : State) :
    exec (.loadWeights h payload) s = execLoadWeights h payload s := rfl
theorem exec_loadAdapter (h : MbtHdr) (payload : List Byte) (s : State) :
    exec (.loadAdapter h payload) s = execLoadAdapter h payload s := rfl
theorem exec_loadTreeFragment (b : List Byte) (poison : Bool) (s : State) :
    exec (.loadTreeFragment b poison) s = execLoadTreeFragment b poison s := rfl
theorem exec_chunkDecode (e : Fin 16) (d : Fin 16) (num : Word) (k : Fin 64) (bad : Option Nat) (s : State) :
    exec (.chunkDecode e d num k bad) s = execChunkDecode e d num k bad s := rfl
theorem exec_blockProgram (c : ClusterId) (s : State) :
    exec (.blockProgram c) s = execBlockProgram c s := rfl
theorem exec_odMessage (h : MbtHdr) (payload : List Byte) (found : List Found) (s : State) :
    exec (.odMessage h payload found) s = execOdMessage h payload found s := rfl
theorem exec_odRead (n : Nat) (idx : BitVec 16) (sub : Byte) (s : State) :
    exec (.odRead n idx sub) s = execOdRead n idx sub s := rfl
theorem exec_odWrite (n : Nat) (f : Found) (idx : BitVec 16) (sub : Byte) (val : List Byte) (s : State) :
    exec (.odWrite n f idx sub val) s = execOdWrite n f idx sub val s := rfl
theorem exec_odDescribe (n : Nat) (idx : BitVec 16) (sub : Byte) (s : State) :
    exec (.odDescribe n idx sub) s = execOdDescribe n idx sub s := rfl
theorem exec_odNext (n : Nat) (idx : BitVec 16) (sub : Byte) (s : State) :
    exec (.odNext n idx sub) s = execOdNext n idx sub s := rfl
theorem exec_transportAck (h : MbtHdr) (payload : List Byte) (s : State) :
    exec (.transportAck h payload) s = execTransportAck h payload s := rfl
theorem exec_nack (h : MbtHdr) (payload : List Byte) (s : State) :
    exec (.nack h payload) s = execNack h payload s := rfl
theorem exec_ackDone (h : MbtHdr) (payload : List Byte) (s : State) :
    exec (.ackDone h payload) s = execDone h payload s := rfl
theorem exec_openSession (h : MbtHdr) (payload : List Byte) (mgmt : Bool) (authOk : Bool) (s : State) :
    exec (.openSession h payload mgmt authOk) s = execOpen h payload mgmt authOk s := rfl
theorem exec_closeSession (h : MbtHdr) (payload : List Byte) (s : State) :
    exec (.closeSession h payload) s = execClose h payload s := rfl
theorem exec_keepalive (h : MbtHdr) (payload : List Byte) (s : State) :
    exec (.keepalive h payload) s = execKeepalive h payload s := rfl
theorem exec_rtoExpiry (n : Nat) (seq : Word) (s : State) :
    exec (.rtoExpiry n seq) s = execRtoExpiry n seq s := rfl
theorem exec_ackDelayExpiry (n : Nat) (s : State) :
    exec (.ackDelayExpiry n) s = execAckDelayExpiry n s := rfl
theorem exec_keepaliveTicks (n : Nat) (s : State) :
    exec (.keepaliveTicks n) s = execKeepaliveTicks n s := rfl
theorem exec_sessionTimeout (n : Nat) (s : State) :
    exec (.sessionTimeout n) s = execSessionTimeout n s := rfl
theorem exec_protocolEngineSlice (s : State) :
    exec (.protocolEngineSlice) s = execProtocolEngineSlice s := rfl
theorem exec_verCreate (n : Nat) (e : Fin 16) (v : Bool) (s : State) :
    exec (.verCreate n e v) s = execVerCreate n e v s := rfl
theorem exec_verCommit (n : Nat) (e : Fin 16) (v : Bool) (peer : Option PeerInfo) (s : State) :
    exec (.verCommit n e v peer) s = execVerCommit n e v peer s := rfl
theorem exec_verSwitch (n : Nat) (e : Fin 16) (v : Bool) (s : State) :
    exec (.verSwitch n e v) s = execVerSwitch n e v s := rfl
theorem exec_verDelete (n : Nat) (e : Fin 16) (v : Bool) (s : State) :
    exec (.verDelete n e v) s = execVerDelete n e v s := rfl
theorem exec_verFixed (n : Nat) (e : Fin 16) (v : Bool) (s : State) :
    exec (.verFixed n e v) s = execVerFixed n e v s := rfl
theorem exec_drainComplete (e : Fin 16) (s : State) :
    exec (.drainComplete e) s = execDrainComplete e s := rfl
theorem exec_meridianReport (e : Fin 16) (m : Nat) (c : Nat) (s : State) :
    exec (.meridianReport e m c) s = execMeridianReport e m c s := rfl
theorem exec_meridianPointerMove (e : Fin 16) (s : State) :
    exec (.meridianPointerMove e) s = execMeridianPointerMove e s := rfl
theorem exec_meridianTimeout (e : Fin 16) (s : State) :
    exec (.meridianTimeout e) s = execMeridianTimeout e s := rfl
theorem exec_versionRelease (e : Fin 16) (s : State) :
    exec (.versionRelease e) s = execVersionRelease e s := rfl
theorem exec_failedVersionExpiry (e : Fin 16) (s : State) :
    exec (.failedVersionExpiry e) s = execFailedVersionExpiry e s := rfl
theorem exec_copyRead (x : ArrayId) (use : CopyUse) (cells : List (Nat × BitVec 4)) (amb : Nat) (s : State) :
    exec (.copyRead x use cells amb) s = execCopyRead x use cells amb s := rfl
theorem exec_adapterDelete (n : Nat) (h : Word) (s : State) :
    exec (.adapterDelete n h) s = execAdapterDelete n h s := rfl
theorem exec_adapterIdleExpiry (e : Fin 4096) (s : State) :
    exec (.adapterIdleExpiry e) s = execAdapterIdleExpiry e s := rfl
theorem exec_transitStart (c : ClusterId) (s : State) :
    exec (.transitStart c) s = execTransitStart c s := rfl
theorem exec_transitOverdue (x : ArrayId) (s : State) :
    exec (.transitOverdue x) s = execTransitOverdue x s := rfl
theorem exec_shadowWindowEnd (c : ClusterId) (s : State) :
    exec (.shadowWindowEnd c) s = execShadowWindowEnd c s := rfl
theorem exec_transitSwap (c : ClusterId) (s : State) :
    exec (.transitSwap c) s = execTransitSwap c s := rfl
theorem exec_transitCopyTimeout (c : ClusterId) (s : State) :
    exec (.transitCopyTimeout c) s = execTransitCopyTimeout c s := rfl
theorem exec_transitPeriodS (n : Nat) (v : Word) (s : State) :
    exec (.transitPeriodS n v) s = execTransitPeriodS n v s := rfl
theorem exec_restCalibration (x : ArrayId) (fit : List (Nat × Int × Nat × Int)) (faults : List WireMeas) (s : State) :
    exec (.restCalibration x fit faults) s = execRestCalibration x fit faults s := rfl
theorem exec_correctionTargetUpdate (x : ArrayId) (s : State) :
    exec (.correctionTargetUpdate x) s = execCorrectionTargetUpdate x s := rfl
theorem exec_rampStep (s : State) :
    exec (.rampStep) s = execRampStep s := rfl
theorem exec_portLight (p : Fin 6) (s : State) :
    exec (.portLight p) s = execPortLight p s := rfl
theorem exec_portTrainingDone (p : Fin 6) (n : Fin 0x1000000) (epoch : Word) (delay : Nat) (s : State) :
    exec (.portTrainingDone p n epoch delay) s = execPortTrainingDone p n epoch delay s := rfl
theorem exec_portLossOfLight (p : Fin 6) (s : State) :
    exec (.portLossOfLight p) s = execPortLossOfLight p s := rfl
theorem exec_fabricFlitReplay (p : Fin 6) (flit : Resent) (s : State) :
    exec (.fabricFlitReplay p flit) s = execFabricFlitReplay p flit s := rfl
theorem exec_portRetrain (n : Nat) (p : Fin 6) (v : Bool) (s : State) :
    exec (.portRetrain n p v) s = execPortRetrain n p v s := rfl
theorem exec_linkDelayMeasure (p : Fin 6) (delay : Nat) (s : State) :
    exec (.linkDelayMeasure p delay) s = execLinkDelayMeasure p delay s := rfl
theorem exec_losDebounceExpiry (p : Fin 6) (s : State) :
    exec (.losDebounceExpiry p) s = execLosDebounceExpiry p s := rfl
theorem exec_probeTimeout (p : Fin 6) (s : State) :
    exec (.probeTimeout p) s = execProbeTimeout p s := rfl
theorem exec_departure (p : Fin 6) (m : Fin 0x1000000) (epoch : Word) (s : State) :
    exec (.departure p m epoch) s = execDeparture p m epoch s := rfl
theorem exec_lost (p : Fin 6) (m : Fin 0x1000000) (epoch : Word) (cause : Byte) (port : Byte) (s : State) :
    exec (.lost p m epoch cause port) s = execLost p m epoch cause port s := rfl
theorem exec_probe (m : Fin 0x1000000) (port : Byte) (s : State) :
    exec (.probe m port) s = execProbe m port s := rfl
theorem exec_probeAck (m : Fin 0x1000000) (s : State) :
    exec (.probeAck m) s = execProbeAck m s := rfl
theorem exec_beaconReq (p : Fin 6) (s : State) :
    exec (.beaconReq p) s = execBeaconReq p s := rfl
theorem exec_beaconRel (p : Fin 6) (s : State) :
    exec (.beaconRel p) s = execBeaconRel p s := rfl
theorem exec_fabricMessageArrival (p : Fin 6) (fs : List FabFlit) (s : State) :
    exec (.fabricMessageArrival p fs) s = execFabricMessageArrival p fs s := rfl
theorem exec_e2eAck (m : Fin 0x1000000) (f : Word) (s : State) :
    exec (.e2eAck m f) s = execE2eAck m f s := rfl
theorem exec_e2eAckSend (m : Fin 0x1000000) (s : State) :
    exec (.e2eAckSend m) s = execE2eAckSend m s := rfl
theorem exec_fabricResendTimeout (k : Nat) (s : State) :
    exec (.fabricResendTimeout k) s = execFabricResendTimeout k s := rfl
theorem exec_sliceReshape (n : Nat) (k : Fin 64) (f : Fin 4) (v : Nat) (s : State) :
    exec (.sliceReshape n k f v) s = execSliceReshape n k f v s := rfl
theorem exec_enableQuery (j : Nat) (m : Nat) (s : State) :
    exec (.enableQuery j m) s = execEnableQuery j m s := rfl
theorem exec_enableQueryReply (j : Nat) (m : Nat) (r : EnableReply) (s : State) :
    exec (.enableQueryReply j m r) s = execEnableQueryReply j m r s := rfl
theorem exec_enableQueryTimeout (j : Nat) (s : State) :
    exec (.enableQueryTimeout j) s = execEnableQueryTimeout j s := rfl
theorem exec_enableStart (j : Nat) (mask : Nat) (delay : Nat) (start : BitVec 64) (s : State) :
    exec (.enableStart j mask delay start) s = execEnableStart j mask delay start s := rfl
theorem exec_rejoin (n : Nat) (mask : Byte) (s : State) :
    exec (.rejoin n mask) s = execRejoin n mask s := rfl
theorem exec_expectUntilExpiry (s : State) :
    exec (.expectUntilExpiry) s = execExpectUntilExpiry s := rfl
theorem exec_moduleEnable (n : Nat) (v : Bool) (f : Found) (s : State) :
    exec (.moduleEnable n v f) s = execModuleEnable n v f s := rfl
theorem exec_checkOnly (n : Nat) (v : Bool) (f : Found) (s : State) :
    exec (.checkOnly n v f) s = execCheckOnly n v f s := rfl
theorem exec_restoreDefaults (n : Nat) (v : Bool) (s : State) :
    exec (.restoreDefaults n v) s = execRestoreDefaults n v s := rfl
theorem exec_jobBind (n : Nat) (j : Fin 64) (v : Bool) (s : State) :
    exec (.jobBind n j v) s = execJobBind n j v s := rfl
theorem exec_jobEnable (n : Nat) (j : Fin 64) (v : Bool) (s : State) :
    exec (.jobEnable n j v) s = execJobEnable n j v s := rfl
theorem exec_jobUnload (n : Nat) (j : Fin 64) (v : Bool) (s : State) :
    exec (.jobUnload n j v) s = execJobUnload n j v s := rfl
theorem exec_imageDelete (n : Nat) (iss : Fin 16) (v : Bool) (s : State) :
    exec (.imageDelete n iss v) s = execImageDelete n iss v s := rfl
theorem exec_poisonReport (c : ClusterId) (w : Fin 655360) (bank : Fin 80) (s : State) :
    exec (.poisonReport c w bank) s = execPoisonReport c w bank s := rfl
theorem exec_fragmentStart (c : ClusterId) (a : Fin 34) (s : State) :
    exec (.fragmentStart c a) s = execFragmentStart c a s := rfl
theorem exec_fragmentEnd (c : ClusterId) (sig : Word) (bad : List Nat) (rows : Bool) (s : State) :
    exec (.fragmentEnd c sig bad rows) s = execFragmentEnd c sig bad rows s := rfl
theorem exec_holdStuck (j : Nat) (s : State) :
    exec (.holdStuck j) s = execHoldStuck j s := rfl
theorem exec_heartbeat (n : Nat) (v : Word) (s : State) :
    exec (.heartbeat n v) s = execHeartbeat n v s := rfl
theorem exec_serviceLoopDone (core : Fin 8) (s : State) :
    exec (.serviceLoopDone core) s = execServiceLoopDone core s := rfl
theorem exec_resetCluster (n : Nat) (c : BitVec 16) (s : State) :
    exec (.resetCluster n c) s = execResetCluster n c s := rfl
theorem exec_clusterResetDone (c : ClusterId) (s : State) :
    exec (.clusterResetDone c) s = execClusterResetDone c s := rfl
theorem exec_resetDie (n : Nat) (d : Byte) (s : State) :
    exec (.resetDie n d) s = execResetDie n d s := rfl
theorem exec_dieResetDone (d : Fin 16) (s : State) :
    exec (.dieResetDone d) s = execDieResetDone d s := rfl
theorem exec_resetModule (n : Nat) (v : Bool) (s : State) :
    exec (.resetModule n v) s = execResetModule n v s := rfl
theorem exec_departureWaitExpiry (s : State) :
    exec (.departureWaitExpiry) s = execDepartureWaitExpiry s := rfl
theorem exec_phResetTimeout (s : State) :
    exec (.phResetTimeout) s = execPhResetTimeout s := rfl
theorem exec_mrstN (v : Bool) (s : State) :
    exec (.mrstN v) s = execMrstN v s := rfl
theorem exec_pwrgd (v : Bool) (s : State) :
    exec (.pwrgd v) s = execPwrgd v s := rfl
theorem exec_dumpClear (n : Nat) (v : Bool) (s : State) :
    exec (.dumpClear n v) s = execDumpClear n v s := rfl
theorem exec_hostSignal (s : State) :
    exec (.hostSignal) s = execHostSignal s := rfl
theorem exec_cdrLock (s : State) :
    exec (.cdrLock) s = execCdrLock s := rfl
theorem exec_cdrLockTimeout (s : State) :
    exec (.cdrLockTimeout) s = execCdrLockTimeout s := rfl
theorem exec_pllStable (die : Option (Fin 16)) (s : State) :
    exec (.pllStable die) s = execPllStable die s := rfl
theorem exec_hbBoot (a : Bool) (b : Bool) (newest : Bool) (s : State) :
    exec (.hbBoot a b newest) s = execHbBoot a b newest s := rfl
theorem exec_trimsReloaded (s : State) :
    exec (.trimsReloaded) s = execTrimsReloaded s := rfl
theorem exec_arraySweep (x : ArrayId) (te : BitVec 64) (zero : List (Nat × Int)) (refErr : Int) (ambig : Nat) (s : State) :
    exec (.arraySweep x te zero refErr ambig) s = execArraySweep x te zero refErr ambig s := rfl
theorem exec_refLoss (lock : Bool) (s : State) :
    exec (.refLoss lock) s = execRefLoss lock s := rfl
theorem exec_refHoldoverExpiry (s : State) :
    exec (.refHoldoverExpiry) s = execRefHoldoverExpiry s := rfl
theorem exec_oppChange (d : Fin 16) (s : State) :
    exec (.oppChange d) s = execOppChange d s := rfl
theorem exec_clusterRetention (c : ClusterId) (s : State) :
    exec (.clusterRetention c) s = execClusterRetention c s := rfl
theorem exec_clusterWake (c : ClusterId) (s : State) :
    exec (.clusterWake c) s = execClusterWake c s := rfl
theorem exec_retainWakeExpiry (c : ClusterId) (s : State) :
    exec (.retainWakeExpiry c) s = execRetainWakeExpiry c s := rfl
theorem exec_biasIdle (x : ArrayId) (s : State) :
    exec (.biasIdle x) s = execBiasIdle x s := rfl
theorem exec_clPwrReq (n : Nat) (c : ClusterId) (v : Byte) (s : State) :
    exec (.clPwrReq n c v) s = execClPwrReq n c v s := rfl
theorem exec_fabPortPwr (n : Nat) (p : Fin 6) (v : Byte) (s : State) :
    exec (.fabPortPwr n p v) s = execFabPortPwr n p v s := rfl
theorem exec_sensorWindow (readings : List (Nat × Int)) (s : State) :
    exec (.sensorWindow readings) s = execSensorWindow readings s := rfl
theorem exec_thermalRestart (n : Nat) (v : Bool) (s : State) :
    exec (.thermalRestart n v) s = execThermalRestart n v s := rfl
theorem exec_operatorKey (n : Nat) (key : BitVec 256) (s : State) :
    exec (.operatorKey n key) s = execOperatorKey n key s := rfl
theorem exec_tenantKey (n : Nat) (t : Fin 1024) (key : BitVec 256) (s : State) :
    exec (.tenantKey n t key) s = execTenantKey n t key s := rfl
theorem exec_tenantDelete (n : Nat) (t : Fin 1024) (v : Bool) (s : State) :
    exec (.tenantDelete n t v) s = execTenantDelete n t v s := rfl
theorem exec_updateData (n : Nat) (b : List Byte) (s : State) :
    exec (.updateData n b) s = execUpdateData n b s := rfl
theorem exec_updateCommit (n : Nat) (v : Bool) (sigOk : Bool) (pack : List (Nat × Nat × Nat)) (s : State) :
    exec (.updateCommit n v sigOk pack) s = execUpdateCommit n v sigOk pack s := rfl
theorem exec_kemRotate (n : Nat) (v : Bool) (s : State) :
    exec (.kemRotate n v) s = execKemRotate n v s := rfl
theorem exec_attestSign (n : Nat) (v : Bool) (s : State) :
    exec (.attestSign n v) s = execAttestSign n v s := rfl
theorem exec_keyInstall (n : Nat) (b : List Byte) (tagOk : Bool) (s : State) :
    exec (.keyInstall n b tagOk) s = execKeyInstall n b tagOk s := rfl
theorem exec_keyDelete (n : Nat) (h : Word) (s : State) :
    exec (.keyDelete n h) s = execKeyDelete n h s := rfl
theorem exec_i2cRead (off : BitVec 8) (len : Nat) (s : State) :
    exec (.i2cRead off len) s = execI2cRead off len s := rfl
theorem exec_i2cWrite (b : Byte) (s : State) :
    exec (.i2cWrite b) s = execI2cWrite b s := rfl
theorem exec_timingRoot (v : Bool) (s : State) :
    exec (.timingRoot v) s = execTimingRoot v s := rfl
theorem exec_dbgStop (n : Nat) (v : Bool) (s : State) :
    exec (.dbgStop n v) s = execDbgStop n v s := rfl
theorem exec_debugEntry (j : Nat) (stop : Option Nat) (s : State) :
    exec (.debugEntry j stop) s = execDebugEntry j stop s := rfl
theorem exec_dbgStep (n : Nat) (v : BitVec 16) (ph : Phys) (x : Nat) (s : State) :
    exec (.dbgStep n v ph x) s = execDbgStep n v ph x s := rfl
theorem exec_dbgResume (n : Nat) (v : Bool) (s : State) :
    exec (.dbgResume n v) s = execDbgResume n v s := rfl
theorem exec_dbgRegisterAccess (n : Nat) (r : DbgReg) (x : Option Nat) (s : State) :
    exec (.dbgRegisterAccess n r x) s = execDbgRegisterAccess n r x s := rfl
theorem exec_eclNow (n : Nat) (s : State) :
    exec (.eclNow n) s = execEclNow n s := rfl
theorem exec_eclAtTick (n : Nat) (s : State) :
    exec (.eclAtTick n) s = execEclAtTick n s := rfl
theorem exec_eclExternal (n : Nat) (s : State) :
    exec (.eclExternal n) s = execEclExternal n s := rfl
theorem exec_eclOff (n : Nat) (s : State) :
    exec (.eclOff n) s = execEclOff n s := rfl
theorem exec_eclRemoteArm (tick : Nat) (s : State) :
    exec (.eclRemoteArm tick) s = execEclRemoteArm tick s := rfl
theorem exec_ecIn (v : Bool) (s : State) :
    exec (.ecIn v) s = execEcIn v s := rfl
theorem exec_eclipse (s : State) :
    exec (.eclipse) s = execEclipse s := rfl
theorem exec_snapshotCollected (s : State) :
    exec (.snapshotCollected) s = execSnapshotCollected s := rfl
theorem exec_zenithId (s : State) :
    exec (.zenithId) s = execZenithId s := rfl
theorem exec_zenithBaud (rate : Nat) (s : State) :
    exec (.zenithBaud rate) s = execZenithBaud rate s := rfl
theorem exec_zenithRd (idx : BitVec 16) (sub : Byte) (s : State) :
    exec (.zenithRd idx sub) s = execZenithRd idx sub s := rfl
theorem exec_zenithDs (idx : BitVec 16) (sub : Byte) (s : State) :
    exec (.zenithDs idx sub) s = execZenithDs idx sub s := rfl
theorem exec_zenithNx (idx : BitVec 16) (sub : Byte) (s : State) :
    exec (.zenithNx idx sub) s = execZenithNx idx sub s := rfl
theorem exec_zenithLog (k : Nat) (s : State) :
    exec (.zenithLog k) s = execZenithLog k s := rfl
theorem exec_zenithSnap (off : Nat) (len : Nat) (s : State) :
    exec (.zenithSnap off len) s = execZenithSnap off len s := rfl
theorem exec_zenithWr (idx : BitVec 16) (sub : Byte) (val : List Byte) (f : Found) (s : State) :
    exec (.zenithWr idx sub val f) s = execZenithWr idx sub val f s := rfl
theorem exec_zenithStop (j : Byte) (s : State) :
    exec (.zenithStop j) s = execZenithStop j s := rfl
theorem exec_zenithGo (j : Byte) (s : State) :
    exec (.zenithGo j) s = execZenithGo j s := rfl
theorem exec_zenithStep (u : StrandId) (phs : List (Phys × Nat)) (s : State) :
    exec (.zenithStep u phs) s = execZenithStep u phs s := rfl
theorem exec_zenithSync (c : ClusterId) (b : Byte) (v : Option Word) (s : State) :
    exec (.zenithSync c b v) s = execZenithSync c b v s := rfl
theorem exec_zenithEcl (e : EclCmd) (s : State) :
    exec (.zenithEcl e) s = execZenithEcl e s := rfl
theorem exec_zenithKey (key : BitVec 256) (s : State) :
    exec (.zenithKey key) s = execZenithKey key s := rfl
theorem exec_zenithUpd (u : UpdCmd) (s : State) :
    exec (.zenithUpd u) s = execZenithUpd u s := rfl
theorem exec_siderealTick (s : State) :
    exec (.siderealTick) s = execSiderealTick s := rfl
theorem exec_crashDumpCommitted (s : State) :
    exec (.crashDumpCommitted) s = execCrashDumpCommitted s := rfl
theorem exec_firmwareFault (core : Fin 8) (kind : Fin 3) (pc : Word) (addr : Word) (s : State) :
    exec (.firmwareFault core kind pc addr) s = execFirmwareFault core kind pc addr s := rfl
theorem exec_esmcTimeout (s : State) :
    exec (.esmcTimeout) s = execEsmcTimeout s := rfl
theorem exec_esmcQlDnuSend (s : State) :
    exec (.esmcQlDnuSend) s = execEsmcQlDnuSend s := rfl
theorem exec_pfcPauseExpiry (p : Fin 8) (s : State) :
    exec (.pfcPauseExpiry p) s = execPfcPauseExpiry p s := rfl

end Sys2Proof.Machine
end

