-- ==== Sys2Proof/Laws/State.lean ====
section
/-!
SUPPORT. What each update of the state leaves in every field: true by computation, for `simp`.
-/
namespace Sys2Proof.Machine

/-! ## setReg -/

@[simp] theorem State.setReg_count (s : State) (o : Obj) (v : Nat) : (s.setReg o v).count = s.count := rfl
@[simp] theorem State.setReg_ticks (s : State) (o : Obj) (v : Nat) : (s.setReg o v).ticks = s.ticks := rfl
@[simp] theorem State.setReg_strands (s : State) (o : Obj) (v : Nat) : (s.setReg o v).strands = s.strands := rfl
@[simp] theorem State.setReg_clusters (s : State) (o : Obj) (v : Nat) : (s.setReg o v).clusters = s.clusters := rfl
@[simp] theorem State.setReg_sram (s : State) (o : Obj) (v : Nat) : (s.setReg o v).sram = s.sram := rfl
@[simp] theorem State.setReg_sramPoison (s : State) (o : Obj) (v : Nat) : (s.setReg o v).sramPoison = s.sramPoison := rfl
@[simp] theorem State.setReg_sramParity (s : State) (o : Obj) (v : Nat) : (s.setReg o v).sramParity = s.sramParity := rfl
@[simp] theorem State.setReg_pages (s : State) (o : Obj) (v : Nat) : (s.setReg o v).pages = s.pages := rfl
@[simp] theorem State.setReg_arrays (s : State) (o : Obj) (v : Nat) : (s.setReg o v).arrays = s.arrays := rfl
@[simp] theorem State.setReg_syncDiscards (s : State) (o : Obj) (v : Nat) : (s.setReg o v).syncDiscards = s.syncDiscards := rfl
@[simp] theorem State.setReg_residueEvents (s : State) (o : Obj) (v : Nat) : (s.setReg o v).residueEvents = s.residueEvents := rfl
@[simp] theorem State.setReg_excursionEvents (s : State) (o : Obj) (v : Nat) : (s.setReg o v).excursionEvents = s.excursionEvents := rfl
@[simp] theorem State.setReg_eqTime (s : State) (o : Obj) (v : Nat) : (s.setReg o v).eqTime = s.eqTime := rfl
@[simp] theorem State.setReg_net (s : State) (o : Obj) (v : Nat) : (s.setReg o v).net = s.net := rfl
@[simp] theorem State.setReg_mids (s : State) (o : Obj) (v : Nat) : (s.setReg o v).mids = s.mids := rfl
@[simp] theorem State.setReg_jobs (s : State) (o : Obj) (v : Nat) : (s.setReg o v).jobs = s.jobs := rfl
@[simp] theorem State.setReg_ctxs (s : State) (o : Obj) (v : Nat) : (s.setReg o v).ctxs = s.ctxs := rfl
@[simp] theorem State.setReg_prefixes (s : State) (o : Obj) (v : Nat) : (s.setReg o v).prefixes = s.prefixes := rfl
@[simp] theorem State.setReg_sessions (s : State) (o : Obj) (v : Nat) : (s.setReg o v).sessions = s.sessions := rfl
@[simp] theorem State.setReg_wire (s : State) (o : Obj) (v : Nat) : (s.setReg o v).wire = s.wire := rfl
@[simp] theorem State.setReg_txHeld (s : State) (o : Obj) (v : Nat) : (s.setReg o v).txHeld = s.txHeld := rfl
@[simp] theorem State.setReg_engineSlices (s : State) (o : Obj) (v : Nat) : (s.setReg o v).engineSlices = s.engineSlices := rfl
@[simp] theorem State.setReg_engineTurns (s : State) (o : Obj) (v : Nat) : (s.setReg o v).engineTurns = s.engineTurns := rfl
@[simp] theorem State.setReg_freedAt (s : State) (o : Obj) (v : Nat) : (s.setReg o v).freedAt = s.freedAt := rfl
@[simp] theorem State.setReg_images (s : State) (o : Obj) (v : Nat) : (s.setReg o v).images = s.images := rfl
@[simp] theorem State.setReg_versions (s : State) (o : Obj) (v : Nat) : (s.setReg o v).versions = s.versions := rfl
@[simp] theorem State.setReg_adapters (s : State) (o : Obj) (v : Nat) : (s.setReg o v).adapters = s.adapters := rfl
@[simp] theorem State.setReg_ports (s : State) (o : Obj) (v : Nat) : (s.setReg o v).ports = s.ports := rfl
@[simp] theorem State.setReg_resend (s : State) (o : Obj) (v : Nat) : (s.setReg o v).resend = s.resend := rfl
@[simp] theorem State.setReg_fabWait (s : State) (o : Obj) (v : Nat) : (s.setReg o v).fabWait = s.fabWait := rfl
@[simp] theorem State.setReg_fabOut (s : State) (o : Obj) (v : Nat) : (s.setReg o v).fabOut = s.fabOut := rfl
@[simp] theorem State.setReg_fseqTx (s : State) (o : Obj) (v : Nat) : (s.setReg o v).fseqTx = s.fseqTx := rfl
@[simp] theorem State.setReg_fseqRx (s : State) (o : Obj) (v : Nat) : (s.setReg o v).fseqRx = s.fseqRx := rfl
@[simp] theorem State.setReg_fseqAhead (s : State) (o : Obj) (v : Nat) : (s.setReg o v).fseqAhead = s.fseqAhead := rfl
@[simp] theorem State.setReg_ackedRx (s : State) (o : Obj) (v : Nat) : (s.setReg o v).ackedRx = s.ackedRx := rfl
@[simp] theorem State.setReg_notices (s : State) (o : Obj) (v : Nat) : (s.setReg o v).notices = s.notices := rfl
@[simp] theorem State.setReg_seen (s : State) (o : Obj) (v : Nat) : (s.setReg o v).seen = s.seen := rfl
@[simp] theorem State.setReg_sliceRev (s : State) (o : Obj) (v : Nat) : (s.setReg o v).sliceRev = s.sliceRev := rfl
@[simp] theorem State.setReg_faults (s : State) (o : Obj) (v : Nat) : (s.setReg o v).faults = s.faults := rfl
@[simp] theorem State.setReg_exposures (s : State) (o : Obj) (v : Nat) : (s.setReg o v).exposures = s.exposures := rfl
@[simp] theorem State.setReg_dump (s : State) (o : Obj) (v : Nat) : (s.setReg o v).dump = s.dump := rfl
@[simp] theorem State.setReg_packs (s : State) (o : Obj) (v : Nat) : (s.setReg o v).packs = s.packs := rfl
@[simp] theorem State.setReg_resets (s : State) (o : Obj) (v : Nat) : (s.setReg o v).resets = s.resets := rfl
@[simp] theorem State.setReg_security (s : State) (o : Obj) (v : Nat) : (s.setReg o v).security = s.security := rfl
@[simp] theorem State.setReg_sync (s : State) (o : Obj) (v : Nat) : (s.setReg o v).sync = s.sync := rfl
@[simp] theorem State.setReg_bring (s : State) (o : Obj) (v : Nat) : (s.setReg o v).bring = s.bring := rfl
@[simp] theorem State.setReg_snapshot (s : State) (o : Obj) (v : Nat) : (s.setReg o v).snapshot = s.snapshot := rfl
@[simp] theorem State.setReg_ecl (s : State) (o : Obj) (v : Nat) : (s.setReg o v).ecl = s.ecl := rfl
@[simp] theorem State.setReg_pfc (s : State) (o : Obj) (v : Nat) : (s.setReg o v).pfc = s.pfc := rfl
@[simp] theorem State.setReg_esmcAt (s : State) (o : Obj) (v : Nat) : (s.setReg o v).esmcAt = s.esmcAt := rfl
@[simp] theorem State.setReg_esmcTx (s : State) (o : Obj) (v : Nat) : (s.setReg o v).esmcTx = s.esmcTx := rfl
@[simp] theorem State.setReg_ethOut (s : State) (o : Obj) (v : Nat) : (s.setReg o v).ethOut = s.ethOut := rfl
@[simp] theorem State.setReg_oppTarget (s : State) (o : Obj) (v : Nat) : (s.setReg o v).oppTarget = s.oppTarget := rfl
@[simp] theorem State.setReg_volt (s : State) (o : Obj) (v : Nat) : (s.setReg o v).volt = s.volt := rfl
@[simp] theorem State.setReg_linkReplays (s : State) (o : Obj) (v : Nat) : (s.setReg o v).linkReplays = s.linkReplays := rfl
@[simp] theorem State.setReg_linkDowns (s : State) (o : Obj) (v : Nat) : (s.setReg o v).linkDowns = s.linkDowns := rfl
@[simp] theorem State.setReg_linkTrainAt (s : State) (o : Obj) (v : Nat) : (s.setReg o v).linkTrainAt = s.linkTrainAt := rfl
@[simp] theorem State.setReg_startRegs (s : State) (o : Obj) (v : Nat) : (s.setReg o v).startRegs = s.startRegs := rfl
@[simp] theorem State.setReg_peerCeil (s : State) (o : Obj) (v : Nat) : (s.setReg o v).peerCeil = s.peerCeil := rfl
@[simp] theorem State.setReg_segReplays (s : State) (o : Obj) (v : Nat) : (s.setReg o v).segReplays = s.segReplays := rfl
@[simp] theorem State.setReg_merges (s : State) (o : Obj) (v : Nat) : (s.setReg o v).merges = s.merges := rfl
@[simp] theorem State.setReg_tables (s : State) (o : Obj) (v : Nat) : (s.setReg o v).tables = s.tables := rfl
@[simp] theorem State.setReg_refHold (s : State) (o : Obj) (v : Nat) : (s.setReg o v).refHold = s.refHold := rfl
@[simp] theorem State.setReg_hbPending (s : State) (o : Obj) (v : Nat) : (s.setReg o v).hbPending = s.hbPending := rfl
@[simp] theorem State.setReg_fwStopped (s : State) (o : Obj) (v : Nat) : (s.setReg o v).fwStopped = s.fwStopped := rfl
@[simp] theorem State.setReg_odRuns (s : State) (o : Obj) (v : Nat) : (s.setReg o v).odRuns = s.odRuns := rfl
@[simp] theorem State.setReg_i2c (s : State) (o : Obj) (v : Nat) : (s.setReg o v).i2c = s.i2c := rfl
@[simp] theorem State.setReg_answer (s : State) (o : Obj) (v : Nat) : (s.setReg o v).answer = s.answer := rfl
@[simp] theorem State.setReg_freeN (s : State) (o : Obj) (v : Nat) : (s.setReg o v).freeN = s.freeN := rfl
@[simp] theorem State.setReg_pending (s : State) (o : Obj) (v : Nat) : (s.setReg o v).pending = s.pending := rfl
@[simp] theorem State.setReg_strand (s : State) (o : Obj) (v : Nat) (q : Nat) : (s.setReg o v).strand q = s.strand q := rfl
@[simp] theorem State.setReg_cluster (s : State) (o : Obj) (v : Nat) (q : Nat) : (s.setReg o v).cluster q = s.cluster q := rfl
@[simp] theorem State.setReg_array (s : State) (o : Obj) (v : Nat) (q : Nat) : (s.setReg o v).array q = s.array q := rfl
@[simp] theorem State.setReg_job (s : State) (o : Obj) (v : Nat) (q : Nat) : (s.setReg o v).job q = s.job q := rfl
@[simp] theorem State.setReg_ctx (s : State) (o : Obj) (v : Nat) (q : Nat) : (s.setReg o v).ctx q = s.ctx q := rfl
@[simp] theorem State.setReg_session (s : State) (o : Obj) (v : Nat) (q : Nat) : (s.setReg o v).session q = s.session q := rfl
@[simp] theorem State.setReg_now (s : State) (o : Obj) (v : Nat) : (s.setReg o v).now = s.now := rfl

/-! ## setStrand -/

@[simp] theorem State.setStrand_regs (s : State) (u : Nat) (t : Strand) : (s.setStrand u t).regs = s.regs := rfl
@[simp] theorem State.setStrand_count (s : State) (u : Nat) (t : Strand) : (s.setStrand u t).count = s.count := rfl
@[simp] theorem State.setStrand_ticks (s : State) (u : Nat) (t : Strand) : (s.setStrand u t).ticks = s.ticks := rfl
@[simp] theorem State.setStrand_clusters (s : State) (u : Nat) (t : Strand) : (s.setStrand u t).clusters = s.clusters := rfl
@[simp] theorem State.setStrand_sram (s : State) (u : Nat) (t : Strand) : (s.setStrand u t).sram = s.sram := rfl
@[simp] theorem State.setStrand_sramPoison (s : State) (u : Nat) (t : Strand) : (s.setStrand u t).sramPoison = s.sramPoison := rfl
@[simp] theorem State.setStrand_sramParity (s : State) (u : Nat) (t : Strand) : (s.setStrand u t).sramParity = s.sramParity := rfl
@[simp] theorem State.setStrand_pages (s : State) (u : Nat) (t : Strand) : (s.setStrand u t).pages = s.pages := rfl
@[simp] theorem State.setStrand_arrays (s : State) (u : Nat) (t : Strand) : (s.setStrand u t).arrays = s.arrays := rfl
@[simp] theorem State.setStrand_syncDiscards (s : State) (u : Nat) (t : Strand) : (s.setStrand u t).syncDiscards = s.syncDiscards := rfl
@[simp] theorem State.setStrand_residueEvents (s : State) (u : Nat) (t : Strand) : (s.setStrand u t).residueEvents = s.residueEvents := rfl
@[simp] theorem State.setStrand_excursionEvents (s : State) (u : Nat) (t : Strand) : (s.setStrand u t).excursionEvents = s.excursionEvents := rfl
@[simp] theorem State.setStrand_eqTime (s : State) (u : Nat) (t : Strand) : (s.setStrand u t).eqTime = s.eqTime := rfl
@[simp] theorem State.setStrand_net (s : State) (u : Nat) (t : Strand) : (s.setStrand u t).net = s.net := rfl
@[simp] theorem State.setStrand_mids (s : State) (u : Nat) (t : Strand) : (s.setStrand u t).mids = s.mids := rfl
@[simp] theorem State.setStrand_jobs (s : State) (u : Nat) (t : Strand) : (s.setStrand u t).jobs = s.jobs := rfl
@[simp] theorem State.setStrand_ctxs (s : State) (u : Nat) (t : Strand) : (s.setStrand u t).ctxs = s.ctxs := rfl
@[simp] theorem State.setStrand_prefixes (s : State) (u : Nat) (t : Strand) : (s.setStrand u t).prefixes = s.prefixes := rfl
@[simp] theorem State.setStrand_sessions (s : State) (u : Nat) (t : Strand) : (s.setStrand u t).sessions = s.sessions := rfl
@[simp] theorem State.setStrand_wire (s : State) (u : Nat) (t : Strand) : (s.setStrand u t).wire = s.wire := rfl
@[simp] theorem State.setStrand_txHeld (s : State) (u : Nat) (t : Strand) : (s.setStrand u t).txHeld = s.txHeld := rfl
@[simp] theorem State.setStrand_engineSlices (s : State) (u : Nat) (t : Strand) : (s.setStrand u t).engineSlices = s.engineSlices := rfl
@[simp] theorem State.setStrand_engineTurns (s : State) (u : Nat) (t : Strand) : (s.setStrand u t).engineTurns = s.engineTurns := rfl
@[simp] theorem State.setStrand_freedAt (s : State) (u : Nat) (t : Strand) : (s.setStrand u t).freedAt = s.freedAt := rfl
@[simp] theorem State.setStrand_images (s : State) (u : Nat) (t : Strand) : (s.setStrand u t).images = s.images := rfl
@[simp] theorem State.setStrand_versions (s : State) (u : Nat) (t : Strand) : (s.setStrand u t).versions = s.versions := rfl
@[simp] theorem State.setStrand_adapters (s : State) (u : Nat) (t : Strand) : (s.setStrand u t).adapters = s.adapters := rfl
@[simp] theorem State.setStrand_ports (s : State) (u : Nat) (t : Strand) : (s.setStrand u t).ports = s.ports := rfl
@[simp] theorem State.setStrand_resend (s : State) (u : Nat) (t : Strand) : (s.setStrand u t).resend = s.resend := rfl
@[simp] theorem State.setStrand_fabWait (s : State) (u : Nat) (t : Strand) : (s.setStrand u t).fabWait = s.fabWait := rfl
@[simp] theorem State.setStrand_fabOut (s : State) (u : Nat) (t : Strand) : (s.setStrand u t).fabOut = s.fabOut := rfl
@[simp] theorem State.setStrand_fseqTx (s : State) (u : Nat) (t : Strand) : (s.setStrand u t).fseqTx = s.fseqTx := rfl
@[simp] theorem State.setStrand_fseqRx (s : State) (u : Nat) (t : Strand) : (s.setStrand u t).fseqRx = s.fseqRx := rfl
@[simp] theorem State.setStrand_fseqAhead (s : State) (u : Nat) (t : Strand) : (s.setStrand u t).fseqAhead = s.fseqAhead := rfl
@[simp] theorem State.setStrand_ackedRx (s : State) (u : Nat) (t : Strand) : (s.setStrand u t).ackedRx = s.ackedRx := rfl
@[simp] theorem State.setStrand_notices (s : State) (u : Nat) (t : Strand) : (s.setStrand u t).notices = s.notices := rfl
@[simp] theorem State.setStrand_seen (s : State) (u : Nat) (t : Strand) : (s.setStrand u t).seen = s.seen := rfl
@[simp] theorem State.setStrand_sliceRev (s : State) (u : Nat) (t : Strand) : (s.setStrand u t).sliceRev = s.sliceRev := rfl
@[simp] theorem State.setStrand_faults (s : State) (u : Nat) (t : Strand) : (s.setStrand u t).faults = s.faults := rfl
@[simp] theorem State.setStrand_exposures (s : State) (u : Nat) (t : Strand) : (s.setStrand u t).exposures = s.exposures := rfl
@[simp] theorem State.setStrand_dump (s : State) (u : Nat) (t : Strand) : (s.setStrand u t).dump = s.dump := rfl
@[simp] theorem State.setStrand_packs (s : State) (u : Nat) (t : Strand) : (s.setStrand u t).packs = s.packs := rfl
@[simp] theorem State.setStrand_resets (s : State) (u : Nat) (t : Strand) : (s.setStrand u t).resets = s.resets := rfl
@[simp] theorem State.setStrand_security (s : State) (u : Nat) (t : Strand) : (s.setStrand u t).security = s.security := rfl
@[simp] theorem State.setStrand_sync (s : State) (u : Nat) (t : Strand) : (s.setStrand u t).sync = s.sync := rfl
@[simp] theorem State.setStrand_bring (s : State) (u : Nat) (t : Strand) : (s.setStrand u t).bring = s.bring := rfl
@[simp] theorem State.setStrand_snapshot (s : State) (u : Nat) (t : Strand) : (s.setStrand u t).snapshot = s.snapshot := rfl
@[simp] theorem State.setStrand_ecl (s : State) (u : Nat) (t : Strand) : (s.setStrand u t).ecl = s.ecl := rfl
@[simp] theorem State.setStrand_pfc (s : State) (u : Nat) (t : Strand) : (s.setStrand u t).pfc = s.pfc := rfl
@[simp] theorem State.setStrand_esmcAt (s : State) (u : Nat) (t : Strand) : (s.setStrand u t).esmcAt = s.esmcAt := rfl
@[simp] theorem State.setStrand_esmcTx (s : State) (u : Nat) (t : Strand) : (s.setStrand u t).esmcTx = s.esmcTx := rfl
@[simp] theorem State.setStrand_ethOut (s : State) (u : Nat) (t : Strand) : (s.setStrand u t).ethOut = s.ethOut := rfl
@[simp] theorem State.setStrand_oppTarget (s : State) (u : Nat) (t : Strand) : (s.setStrand u t).oppTarget = s.oppTarget := rfl
@[simp] theorem State.setStrand_volt (s : State) (u : Nat) (t : Strand) : (s.setStrand u t).volt = s.volt := rfl
@[simp] theorem State.setStrand_linkReplays (s : State) (u : Nat) (t : Strand) : (s.setStrand u t).linkReplays = s.linkReplays := rfl
@[simp] theorem State.setStrand_linkDowns (s : State) (u : Nat) (t : Strand) : (s.setStrand u t).linkDowns = s.linkDowns := rfl
@[simp] theorem State.setStrand_linkTrainAt (s : State) (u : Nat) (t : Strand) : (s.setStrand u t).linkTrainAt = s.linkTrainAt := rfl
@[simp] theorem State.setStrand_startRegs (s : State) (u : Nat) (t : Strand) : (s.setStrand u t).startRegs = s.startRegs := rfl
@[simp] theorem State.setStrand_peerCeil (s : State) (u : Nat) (t : Strand) : (s.setStrand u t).peerCeil = s.peerCeil := rfl
@[simp] theorem State.setStrand_segReplays (s : State) (u : Nat) (t : Strand) : (s.setStrand u t).segReplays = s.segReplays := rfl
@[simp] theorem State.setStrand_merges (s : State) (u : Nat) (t : Strand) : (s.setStrand u t).merges = s.merges := rfl
@[simp] theorem State.setStrand_tables (s : State) (u : Nat) (t : Strand) : (s.setStrand u t).tables = s.tables := rfl
@[simp] theorem State.setStrand_refHold (s : State) (u : Nat) (t : Strand) : (s.setStrand u t).refHold = s.refHold := rfl
@[simp] theorem State.setStrand_hbPending (s : State) (u : Nat) (t : Strand) : (s.setStrand u t).hbPending = s.hbPending := rfl
@[simp] theorem State.setStrand_fwStopped (s : State) (u : Nat) (t : Strand) : (s.setStrand u t).fwStopped = s.fwStopped := rfl
@[simp] theorem State.setStrand_odRuns (s : State) (u : Nat) (t : Strand) : (s.setStrand u t).odRuns = s.odRuns := rfl
@[simp] theorem State.setStrand_i2c (s : State) (u : Nat) (t : Strand) : (s.setStrand u t).i2c = s.i2c := rfl
@[simp] theorem State.setStrand_answer (s : State) (u : Nat) (t : Strand) : (s.setStrand u t).answer = s.answer := rfl
@[simp] theorem State.setStrand_freeN (s : State) (u : Nat) (t : Strand) : (s.setStrand u t).freeN = s.freeN := rfl
@[simp] theorem State.setStrand_pending (s : State) (u : Nat) (t : Strand) : (s.setStrand u t).pending = s.pending := rfl
@[simp] theorem State.setStrand_reg (s : State) (u : Nat) (t : Strand) (q : Obj) : (s.setStrand u t).reg q = s.reg q := rfl
@[simp] theorem State.setStrand_cluster (s : State) (u : Nat) (t : Strand) (q : Nat) : (s.setStrand u t).cluster q = s.cluster q := rfl
@[simp] theorem State.setStrand_array (s : State) (u : Nat) (t : Strand) (q : Nat) : (s.setStrand u t).array q = s.array q := rfl
@[simp] theorem State.setStrand_job (s : State) (u : Nat) (t : Strand) (q : Nat) : (s.setStrand u t).job q = s.job q := rfl
@[simp] theorem State.setStrand_ctx (s : State) (u : Nat) (t : Strand) (q : Nat) : (s.setStrand u t).ctx q = s.ctx q := rfl
@[simp] theorem State.setStrand_session (s : State) (u : Nat) (t : Strand) (q : Nat) : (s.setStrand u t).session q = s.session q := rfl
@[simp] theorem State.setStrand_jobState (s : State) (u : Nat) (t : Strand) (q : Nat) : (s.setStrand u t).jobState q = s.jobState q := rfl
@[simp] theorem State.setStrand_now (s : State) (u : Nat) (t : Strand) : (s.setStrand u t).now = s.now := rfl

/-! ## modStrand -/

@[simp] theorem State.modStrand_regs (s : State) (u : Nat) (f : Strand → Strand) : (s.modStrand u f).regs = s.regs := rfl
@[simp] theorem State.modStrand_count (s : State) (u : Nat) (f : Strand → Strand) : (s.modStrand u f).count = s.count := rfl
@[simp] theorem State.modStrand_ticks (s : State) (u : Nat) (f : Strand → Strand) : (s.modStrand u f).ticks = s.ticks := rfl
@[simp] theorem State.modStrand_clusters (s : State) (u : Nat) (f : Strand → Strand) : (s.modStrand u f).clusters = s.clusters := rfl
@[simp] theorem State.modStrand_sram (s : State) (u : Nat) (f : Strand → Strand) : (s.modStrand u f).sram = s.sram := rfl
@[simp] theorem State.modStrand_sramPoison (s : State) (u : Nat) (f : Strand → Strand) : (s.modStrand u f).sramPoison = s.sramPoison := rfl
@[simp] theorem State.modStrand_sramParity (s : State) (u : Nat) (f : Strand → Strand) : (s.modStrand u f).sramParity = s.sramParity := rfl
@[simp] theorem State.modStrand_pages (s : State) (u : Nat) (f : Strand → Strand) : (s.modStrand u f).pages = s.pages := rfl
@[simp] theorem State.modStrand_arrays (s : State) (u : Nat) (f : Strand → Strand) : (s.modStrand u f).arrays = s.arrays := rfl
@[simp] theorem State.modStrand_syncDiscards (s : State) (u : Nat) (f : Strand → Strand) : (s.modStrand u f).syncDiscards = s.syncDiscards := rfl
@[simp] theorem State.modStrand_residueEvents (s : State) (u : Nat) (f : Strand → Strand) : (s.modStrand u f).residueEvents = s.residueEvents := rfl
@[simp] theorem State.modStrand_excursionEvents (s : State) (u : Nat) (f : Strand → Strand) : (s.modStrand u f).excursionEvents = s.excursionEvents := rfl
@[simp] theorem State.modStrand_eqTime (s : State) (u : Nat) (f : Strand → Strand) : (s.modStrand u f).eqTime = s.eqTime := rfl
@[simp] theorem State.modStrand_net (s : State) (u : Nat) (f : Strand → Strand) : (s.modStrand u f).net = s.net := rfl
@[simp] theorem State.modStrand_mids (s : State) (u : Nat) (f : Strand → Strand) : (s.modStrand u f).mids = s.mids := rfl
@[simp] theorem State.modStrand_jobs (s : State) (u : Nat) (f : Strand → Strand) : (s.modStrand u f).jobs = s.jobs := rfl
@[simp] theorem State.modStrand_ctxs (s : State) (u : Nat) (f : Strand → Strand) : (s.modStrand u f).ctxs = s.ctxs := rfl
@[simp] theorem State.modStrand_prefixes (s : State) (u : Nat) (f : Strand → Strand) : (s.modStrand u f).prefixes = s.prefixes := rfl
@[simp] theorem State.modStrand_sessions (s : State) (u : Nat) (f : Strand → Strand) : (s.modStrand u f).sessions = s.sessions := rfl
@[simp] theorem State.modStrand_wire (s : State) (u : Nat) (f : Strand → Strand) : (s.modStrand u f).wire = s.wire := rfl
@[simp] theorem State.modStrand_txHeld (s : State) (u : Nat) (f : Strand → Strand) : (s.modStrand u f).txHeld = s.txHeld := rfl
@[simp] theorem State.modStrand_engineSlices (s : State) (u : Nat) (f : Strand → Strand) : (s.modStrand u f).engineSlices = s.engineSlices := rfl
@[simp] theorem State.modStrand_engineTurns (s : State) (u : Nat) (f : Strand → Strand) : (s.modStrand u f).engineTurns = s.engineTurns := rfl
@[simp] theorem State.modStrand_freedAt (s : State) (u : Nat) (f : Strand → Strand) : (s.modStrand u f).freedAt = s.freedAt := rfl
@[simp] theorem State.modStrand_images (s : State) (u : Nat) (f : Strand → Strand) : (s.modStrand u f).images = s.images := rfl
@[simp] theorem State.modStrand_versions (s : State) (u : Nat) (f : Strand → Strand) : (s.modStrand u f).versions = s.versions := rfl
@[simp] theorem State.modStrand_adapters (s : State) (u : Nat) (f : Strand → Strand) : (s.modStrand u f).adapters = s.adapters := rfl
@[simp] theorem State.modStrand_ports (s : State) (u : Nat) (f : Strand → Strand) : (s.modStrand u f).ports = s.ports := rfl
@[simp] theorem State.modStrand_resend (s : State) (u : Nat) (f : Strand → Strand) : (s.modStrand u f).resend = s.resend := rfl
@[simp] theorem State.modStrand_fabWait (s : State) (u : Nat) (f : Strand → Strand) : (s.modStrand u f).fabWait = s.fabWait := rfl
@[simp] theorem State.modStrand_fabOut (s : State) (u : Nat) (f : Strand → Strand) : (s.modStrand u f).fabOut = s.fabOut := rfl
@[simp] theorem State.modStrand_fseqTx (s : State) (u : Nat) (f : Strand → Strand) : (s.modStrand u f).fseqTx = s.fseqTx := rfl
@[simp] theorem State.modStrand_fseqRx (s : State) (u : Nat) (f : Strand → Strand) : (s.modStrand u f).fseqRx = s.fseqRx := rfl
@[simp] theorem State.modStrand_fseqAhead (s : State) (u : Nat) (f : Strand → Strand) : (s.modStrand u f).fseqAhead = s.fseqAhead := rfl
@[simp] theorem State.modStrand_ackedRx (s : State) (u : Nat) (f : Strand → Strand) : (s.modStrand u f).ackedRx = s.ackedRx := rfl
@[simp] theorem State.modStrand_notices (s : State) (u : Nat) (f : Strand → Strand) : (s.modStrand u f).notices = s.notices := rfl
@[simp] theorem State.modStrand_seen (s : State) (u : Nat) (f : Strand → Strand) : (s.modStrand u f).seen = s.seen := rfl
@[simp] theorem State.modStrand_sliceRev (s : State) (u : Nat) (f : Strand → Strand) : (s.modStrand u f).sliceRev = s.sliceRev := rfl
@[simp] theorem State.modStrand_faults (s : State) (u : Nat) (f : Strand → Strand) : (s.modStrand u f).faults = s.faults := rfl
@[simp] theorem State.modStrand_exposures (s : State) (u : Nat) (f : Strand → Strand) : (s.modStrand u f).exposures = s.exposures := rfl
@[simp] theorem State.modStrand_dump (s : State) (u : Nat) (f : Strand → Strand) : (s.modStrand u f).dump = s.dump := rfl
@[simp] theorem State.modStrand_packs (s : State) (u : Nat) (f : Strand → Strand) : (s.modStrand u f).packs = s.packs := rfl
@[simp] theorem State.modStrand_resets (s : State) (u : Nat) (f : Strand → Strand) : (s.modStrand u f).resets = s.resets := rfl
@[simp] theorem State.modStrand_security (s : State) (u : Nat) (f : Strand → Strand) : (s.modStrand u f).security = s.security := rfl
@[simp] theorem State.modStrand_sync (s : State) (u : Nat) (f : Strand → Strand) : (s.modStrand u f).sync = s.sync := rfl
@[simp] theorem State.modStrand_bring (s : State) (u : Nat) (f : Strand → Strand) : (s.modStrand u f).bring = s.bring := rfl
@[simp] theorem State.modStrand_snapshot (s : State) (u : Nat) (f : Strand → Strand) : (s.modStrand u f).snapshot = s.snapshot := rfl
@[simp] theorem State.modStrand_ecl (s : State) (u : Nat) (f : Strand → Strand) : (s.modStrand u f).ecl = s.ecl := rfl
@[simp] theorem State.modStrand_pfc (s : State) (u : Nat) (f : Strand → Strand) : (s.modStrand u f).pfc = s.pfc := rfl
@[simp] theorem State.modStrand_esmcAt (s : State) (u : Nat) (f : Strand → Strand) : (s.modStrand u f).esmcAt = s.esmcAt := rfl
@[simp] theorem State.modStrand_esmcTx (s : State) (u : Nat) (f : Strand → Strand) : (s.modStrand u f).esmcTx = s.esmcTx := rfl
@[simp] theorem State.modStrand_ethOut (s : State) (u : Nat) (f : Strand → Strand) : (s.modStrand u f).ethOut = s.ethOut := rfl
@[simp] theorem State.modStrand_oppTarget (s : State) (u : Nat) (f : Strand → Strand) : (s.modStrand u f).oppTarget = s.oppTarget := rfl
@[simp] theorem State.modStrand_volt (s : State) (u : Nat) (f : Strand → Strand) : (s.modStrand u f).volt = s.volt := rfl
@[simp] theorem State.modStrand_linkReplays (s : State) (u : Nat) (f : Strand → Strand) : (s.modStrand u f).linkReplays = s.linkReplays := rfl
@[simp] theorem State.modStrand_linkDowns (s : State) (u : Nat) (f : Strand → Strand) : (s.modStrand u f).linkDowns = s.linkDowns := rfl
@[simp] theorem State.modStrand_linkTrainAt (s : State) (u : Nat) (f : Strand → Strand) : (s.modStrand u f).linkTrainAt = s.linkTrainAt := rfl
@[simp] theorem State.modStrand_startRegs (s : State) (u : Nat) (f : Strand → Strand) : (s.modStrand u f).startRegs = s.startRegs := rfl
@[simp] theorem State.modStrand_peerCeil (s : State) (u : Nat) (f : Strand → Strand) : (s.modStrand u f).peerCeil = s.peerCeil := rfl
@[simp] theorem State.modStrand_segReplays (s : State) (u : Nat) (f : Strand → Strand) : (s.modStrand u f).segReplays = s.segReplays := rfl
@[simp] theorem State.modStrand_merges (s : State) (u : Nat) (f : Strand → Strand) : (s.modStrand u f).merges = s.merges := rfl
@[simp] theorem State.modStrand_tables (s : State) (u : Nat) (f : Strand → Strand) : (s.modStrand u f).tables = s.tables := rfl
@[simp] theorem State.modStrand_refHold (s : State) (u : Nat) (f : Strand → Strand) : (s.modStrand u f).refHold = s.refHold := rfl
@[simp] theorem State.modStrand_hbPending (s : State) (u : Nat) (f : Strand → Strand) : (s.modStrand u f).hbPending = s.hbPending := rfl
@[simp] theorem State.modStrand_fwStopped (s : State) (u : Nat) (f : Strand → Strand) : (s.modStrand u f).fwStopped = s.fwStopped := rfl
@[simp] theorem State.modStrand_odRuns (s : State) (u : Nat) (f : Strand → Strand) : (s.modStrand u f).odRuns = s.odRuns := rfl
@[simp] theorem State.modStrand_i2c (s : State) (u : Nat) (f : Strand → Strand) : (s.modStrand u f).i2c = s.i2c := rfl
@[simp] theorem State.modStrand_answer (s : State) (u : Nat) (f : Strand → Strand) : (s.modStrand u f).answer = s.answer := rfl
@[simp] theorem State.modStrand_freeN (s : State) (u : Nat) (f : Strand → Strand) : (s.modStrand u f).freeN = s.freeN := rfl
@[simp] theorem State.modStrand_pending (s : State) (u : Nat) (f : Strand → Strand) : (s.modStrand u f).pending = s.pending := rfl
@[simp] theorem State.modStrand_reg (s : State) (u : Nat) (f : Strand → Strand) (q : Obj) : (s.modStrand u f).reg q = s.reg q := rfl
@[simp] theorem State.modStrand_cluster (s : State) (u : Nat) (f : Strand → Strand) (q : Nat) : (s.modStrand u f).cluster q = s.cluster q := rfl
@[simp] theorem State.modStrand_array (s : State) (u : Nat) (f : Strand → Strand) (q : Nat) : (s.modStrand u f).array q = s.array q := rfl
@[simp] theorem State.modStrand_job (s : State) (u : Nat) (f : Strand → Strand) (q : Nat) : (s.modStrand u f).job q = s.job q := rfl
@[simp] theorem State.modStrand_ctx (s : State) (u : Nat) (f : Strand → Strand) (q : Nat) : (s.modStrand u f).ctx q = s.ctx q := rfl
@[simp] theorem State.modStrand_session (s : State) (u : Nat) (f : Strand → Strand) (q : Nat) : (s.modStrand u f).session q = s.session q := rfl
@[simp] theorem State.modStrand_jobState (s : State) (u : Nat) (f : Strand → Strand) (q : Nat) : (s.modStrand u f).jobState q = s.jobState q := rfl
@[simp] theorem State.modStrand_now (s : State) (u : Nat) (f : Strand → Strand) : (s.modStrand u f).now = s.now := rfl

/-! ## setCluster -/

@[simp] theorem State.setCluster_regs (s : State) (c : Nat) (t : Cluster) : (s.setCluster c t).regs = s.regs := rfl
@[simp] theorem State.setCluster_count (s : State) (c : Nat) (t : Cluster) : (s.setCluster c t).count = s.count := rfl
@[simp] theorem State.setCluster_ticks (s : State) (c : Nat) (t : Cluster) : (s.setCluster c t).ticks = s.ticks := rfl
@[simp] theorem State.setCluster_strands (s : State) (c : Nat) (t : Cluster) : (s.setCluster c t).strands = s.strands := rfl
@[simp] theorem State.setCluster_sram (s : State) (c : Nat) (t : Cluster) : (s.setCluster c t).sram = s.sram := rfl
@[simp] theorem State.setCluster_sramPoison (s : State) (c : Nat) (t : Cluster) : (s.setCluster c t).sramPoison = s.sramPoison := rfl
@[simp] theorem State.setCluster_sramParity (s : State) (c : Nat) (t : Cluster) : (s.setCluster c t).sramParity = s.sramParity := rfl
@[simp] theorem State.setCluster_pages (s : State) (c : Nat) (t : Cluster) : (s.setCluster c t).pages = s.pages := rfl
@[simp] theorem State.setCluster_arrays (s : State) (c : Nat) (t : Cluster) : (s.setCluster c t).arrays = s.arrays := rfl
@[simp] theorem State.setCluster_syncDiscards (s : State) (c : Nat) (t : Cluster) : (s.setCluster c t).syncDiscards = s.syncDiscards := rfl
@[simp] theorem State.setCluster_residueEvents (s : State) (c : Nat) (t : Cluster) : (s.setCluster c t).residueEvents = s.residueEvents := rfl
@[simp] theorem State.setCluster_excursionEvents (s : State) (c : Nat) (t : Cluster) : (s.setCluster c t).excursionEvents = s.excursionEvents := rfl
@[simp] theorem State.setCluster_eqTime (s : State) (c : Nat) (t : Cluster) : (s.setCluster c t).eqTime = s.eqTime := rfl
@[simp] theorem State.setCluster_net (s : State) (c : Nat) (t : Cluster) : (s.setCluster c t).net = s.net := rfl
@[simp] theorem State.setCluster_mids (s : State) (c : Nat) (t : Cluster) : (s.setCluster c t).mids = s.mids := rfl
@[simp] theorem State.setCluster_jobs (s : State) (c : Nat) (t : Cluster) : (s.setCluster c t).jobs = s.jobs := rfl
@[simp] theorem State.setCluster_ctxs (s : State) (c : Nat) (t : Cluster) : (s.setCluster c t).ctxs = s.ctxs := rfl
@[simp] theorem State.setCluster_prefixes (s : State) (c : Nat) (t : Cluster) : (s.setCluster c t).prefixes = s.prefixes := rfl
@[simp] theorem State.setCluster_sessions (s : State) (c : Nat) (t : Cluster) : (s.setCluster c t).sessions = s.sessions := rfl
@[simp] theorem State.setCluster_wire (s : State) (c : Nat) (t : Cluster) : (s.setCluster c t).wire = s.wire := rfl
@[simp] theorem State.setCluster_txHeld (s : State) (c : Nat) (t : Cluster) : (s.setCluster c t).txHeld = s.txHeld := rfl
@[simp] theorem State.setCluster_engineSlices (s : State) (c : Nat) (t : Cluster) : (s.setCluster c t).engineSlices = s.engineSlices := rfl
@[simp] theorem State.setCluster_engineTurns (s : State) (c : Nat) (t : Cluster) : (s.setCluster c t).engineTurns = s.engineTurns := rfl
@[simp] theorem State.setCluster_freedAt (s : State) (c : Nat) (t : Cluster) : (s.setCluster c t).freedAt = s.freedAt := rfl
@[simp] theorem State.setCluster_images (s : State) (c : Nat) (t : Cluster) : (s.setCluster c t).images = s.images := rfl
@[simp] theorem State.setCluster_versions (s : State) (c : Nat) (t : Cluster) : (s.setCluster c t).versions = s.versions := rfl
@[simp] theorem State.setCluster_adapters (s : State) (c : Nat) (t : Cluster) : (s.setCluster c t).adapters = s.adapters := rfl
@[simp] theorem State.setCluster_ports (s : State) (c : Nat) (t : Cluster) : (s.setCluster c t).ports = s.ports := rfl
@[simp] theorem State.setCluster_resend (s : State) (c : Nat) (t : Cluster) : (s.setCluster c t).resend = s.resend := rfl
@[simp] theorem State.setCluster_fabWait (s : State) (c : Nat) (t : Cluster) : (s.setCluster c t).fabWait = s.fabWait := rfl
@[simp] theorem State.setCluster_fabOut (s : State) (c : Nat) (t : Cluster) : (s.setCluster c t).fabOut = s.fabOut := rfl
@[simp] theorem State.setCluster_fseqTx (s : State) (c : Nat) (t : Cluster) : (s.setCluster c t).fseqTx = s.fseqTx := rfl
@[simp] theorem State.setCluster_fseqRx (s : State) (c : Nat) (t : Cluster) : (s.setCluster c t).fseqRx = s.fseqRx := rfl
@[simp] theorem State.setCluster_fseqAhead (s : State) (c : Nat) (t : Cluster) : (s.setCluster c t).fseqAhead = s.fseqAhead := rfl
@[simp] theorem State.setCluster_ackedRx (s : State) (c : Nat) (t : Cluster) : (s.setCluster c t).ackedRx = s.ackedRx := rfl
@[simp] theorem State.setCluster_notices (s : State) (c : Nat) (t : Cluster) : (s.setCluster c t).notices = s.notices := rfl
@[simp] theorem State.setCluster_seen (s : State) (c : Nat) (t : Cluster) : (s.setCluster c t).seen = s.seen := rfl
@[simp] theorem State.setCluster_sliceRev (s : State) (c : Nat) (t : Cluster) : (s.setCluster c t).sliceRev = s.sliceRev := rfl
@[simp] theorem State.setCluster_faults (s : State) (c : Nat) (t : Cluster) : (s.setCluster c t).faults = s.faults := rfl
@[simp] theorem State.setCluster_exposures (s : State) (c : Nat) (t : Cluster) : (s.setCluster c t).exposures = s.exposures := rfl
@[simp] theorem State.setCluster_dump (s : State) (c : Nat) (t : Cluster) : (s.setCluster c t).dump = s.dump := rfl
@[simp] theorem State.setCluster_packs (s : State) (c : Nat) (t : Cluster) : (s.setCluster c t).packs = s.packs := rfl
@[simp] theorem State.setCluster_resets (s : State) (c : Nat) (t : Cluster) : (s.setCluster c t).resets = s.resets := rfl
@[simp] theorem State.setCluster_security (s : State) (c : Nat) (t : Cluster) : (s.setCluster c t).security = s.security := rfl
@[simp] theorem State.setCluster_sync (s : State) (c : Nat) (t : Cluster) : (s.setCluster c t).sync = s.sync := rfl
@[simp] theorem State.setCluster_bring (s : State) (c : Nat) (t : Cluster) : (s.setCluster c t).bring = s.bring := rfl
@[simp] theorem State.setCluster_snapshot (s : State) (c : Nat) (t : Cluster) : (s.setCluster c t).snapshot = s.snapshot := rfl
@[simp] theorem State.setCluster_ecl (s : State) (c : Nat) (t : Cluster) : (s.setCluster c t).ecl = s.ecl := rfl
@[simp] theorem State.setCluster_pfc (s : State) (c : Nat) (t : Cluster) : (s.setCluster c t).pfc = s.pfc := rfl
@[simp] theorem State.setCluster_esmcAt (s : State) (c : Nat) (t : Cluster) : (s.setCluster c t).esmcAt = s.esmcAt := rfl
@[simp] theorem State.setCluster_esmcTx (s : State) (c : Nat) (t : Cluster) : (s.setCluster c t).esmcTx = s.esmcTx := rfl
@[simp] theorem State.setCluster_ethOut (s : State) (c : Nat) (t : Cluster) : (s.setCluster c t).ethOut = s.ethOut := rfl
@[simp] theorem State.setCluster_oppTarget (s : State) (c : Nat) (t : Cluster) : (s.setCluster c t).oppTarget = s.oppTarget := rfl
@[simp] theorem State.setCluster_volt (s : State) (c : Nat) (t : Cluster) : (s.setCluster c t).volt = s.volt := rfl
@[simp] theorem State.setCluster_linkReplays (s : State) (c : Nat) (t : Cluster) : (s.setCluster c t).linkReplays = s.linkReplays := rfl
@[simp] theorem State.setCluster_linkDowns (s : State) (c : Nat) (t : Cluster) : (s.setCluster c t).linkDowns = s.linkDowns := rfl
@[simp] theorem State.setCluster_linkTrainAt (s : State) (c : Nat) (t : Cluster) : (s.setCluster c t).linkTrainAt = s.linkTrainAt := rfl
@[simp] theorem State.setCluster_startRegs (s : State) (c : Nat) (t : Cluster) : (s.setCluster c t).startRegs = s.startRegs := rfl
@[simp] theorem State.setCluster_peerCeil (s : State) (c : Nat) (t : Cluster) : (s.setCluster c t).peerCeil = s.peerCeil := rfl
@[simp] theorem State.setCluster_segReplays (s : State) (c : Nat) (t : Cluster) : (s.setCluster c t).segReplays = s.segReplays := rfl
@[simp] theorem State.setCluster_merges (s : State) (c : Nat) (t : Cluster) : (s.setCluster c t).merges = s.merges := rfl
@[simp] theorem State.setCluster_tables (s : State) (c : Nat) (t : Cluster) : (s.setCluster c t).tables = s.tables := rfl
@[simp] theorem State.setCluster_refHold (s : State) (c : Nat) (t : Cluster) : (s.setCluster c t).refHold = s.refHold := rfl
@[simp] theorem State.setCluster_hbPending (s : State) (c : Nat) (t : Cluster) : (s.setCluster c t).hbPending = s.hbPending := rfl
@[simp] theorem State.setCluster_fwStopped (s : State) (c : Nat) (t : Cluster) : (s.setCluster c t).fwStopped = s.fwStopped := rfl
@[simp] theorem State.setCluster_odRuns (s : State) (c : Nat) (t : Cluster) : (s.setCluster c t).odRuns = s.odRuns := rfl
@[simp] theorem State.setCluster_i2c (s : State) (c : Nat) (t : Cluster) : (s.setCluster c t).i2c = s.i2c := rfl
@[simp] theorem State.setCluster_answer (s : State) (c : Nat) (t : Cluster) : (s.setCluster c t).answer = s.answer := rfl
@[simp] theorem State.setCluster_freeN (s : State) (c : Nat) (t : Cluster) : (s.setCluster c t).freeN = s.freeN := rfl
@[simp] theorem State.setCluster_pending (s : State) (c : Nat) (t : Cluster) : (s.setCluster c t).pending = s.pending := rfl
@[simp] theorem State.setCluster_reg (s : State) (c : Nat) (t : Cluster) (q : Obj) : (s.setCluster c t).reg q = s.reg q := rfl
@[simp] theorem State.setCluster_strand (s : State) (c : Nat) (t : Cluster) (q : Nat) : (s.setCluster c t).strand q = s.strand q := rfl
@[simp] theorem State.setCluster_array (s : State) (c : Nat) (t : Cluster) (q : Nat) : (s.setCluster c t).array q = s.array q := rfl
@[simp] theorem State.setCluster_job (s : State) (c : Nat) (t : Cluster) (q : Nat) : (s.setCluster c t).job q = s.job q := rfl
@[simp] theorem State.setCluster_ctx (s : State) (c : Nat) (t : Cluster) (q : Nat) : (s.setCluster c t).ctx q = s.ctx q := rfl
@[simp] theorem State.setCluster_session (s : State) (c : Nat) (t : Cluster) (q : Nat) : (s.setCluster c t).session q = s.session q := rfl
@[simp] theorem State.setCluster_jobState (s : State) (c : Nat) (t : Cluster) (q : Nat) : (s.setCluster c t).jobState q = s.jobState q := rfl
@[simp] theorem State.setCluster_now (s : State) (c : Nat) (t : Cluster) : (s.setCluster c t).now = s.now := rfl

/-! ## modCluster -/

@[simp] theorem State.modCluster_regs (s : State) (c : Nat) (f : Cluster → Cluster) : (s.modCluster c f).regs = s.regs := rfl
@[simp] theorem State.modCluster_count (s : State) (c : Nat) (f : Cluster → Cluster) : (s.modCluster c f).count = s.count := rfl
@[simp] theorem State.modCluster_ticks (s : State) (c : Nat) (f : Cluster → Cluster) : (s.modCluster c f).ticks = s.ticks := rfl
@[simp] theorem State.modCluster_strands (s : State) (c : Nat) (f : Cluster → Cluster) : (s.modCluster c f).strands = s.strands := rfl
@[simp] theorem State.modCluster_sram (s : State) (c : Nat) (f : Cluster → Cluster) : (s.modCluster c f).sram = s.sram := rfl
@[simp] theorem State.modCluster_sramPoison (s : State) (c : Nat) (f : Cluster → Cluster) : (s.modCluster c f).sramPoison = s.sramPoison := rfl
@[simp] theorem State.modCluster_sramParity (s : State) (c : Nat) (f : Cluster → Cluster) : (s.modCluster c f).sramParity = s.sramParity := rfl
@[simp] theorem State.modCluster_pages (s : State) (c : Nat) (f : Cluster → Cluster) : (s.modCluster c f).pages = s.pages := rfl
@[simp] theorem State.modCluster_arrays (s : State) (c : Nat) (f : Cluster → Cluster) : (s.modCluster c f).arrays = s.arrays := rfl
@[simp] theorem State.modCluster_syncDiscards (s : State) (c : Nat) (f : Cluster → Cluster) : (s.modCluster c f).syncDiscards = s.syncDiscards := rfl
@[simp] theorem State.modCluster_residueEvents (s : State) (c : Nat) (f : Cluster → Cluster) : (s.modCluster c f).residueEvents = s.residueEvents := rfl
@[simp] theorem State.modCluster_excursionEvents (s : State) (c : Nat) (f : Cluster → Cluster) : (s.modCluster c f).excursionEvents = s.excursionEvents := rfl
@[simp] theorem State.modCluster_eqTime (s : State) (c : Nat) (f : Cluster → Cluster) : (s.modCluster c f).eqTime = s.eqTime := rfl
@[simp] theorem State.modCluster_net (s : State) (c : Nat) (f : Cluster → Cluster) : (s.modCluster c f).net = s.net := rfl
@[simp] theorem State.modCluster_mids (s : State) (c : Nat) (f : Cluster → Cluster) : (s.modCluster c f).mids = s.mids := rfl
@[simp] theorem State.modCluster_jobs (s : State) (c : Nat) (f : Cluster → Cluster) : (s.modCluster c f).jobs = s.jobs := rfl
@[simp] theorem State.modCluster_ctxs (s : State) (c : Nat) (f : Cluster → Cluster) : (s.modCluster c f).ctxs = s.ctxs := rfl
@[simp] theorem State.modCluster_prefixes (s : State) (c : Nat) (f : Cluster → Cluster) : (s.modCluster c f).prefixes = s.prefixes := rfl
@[simp] theorem State.modCluster_sessions (s : State) (c : Nat) (f : Cluster → Cluster) : (s.modCluster c f).sessions = s.sessions := rfl
@[simp] theorem State.modCluster_wire (s : State) (c : Nat) (f : Cluster → Cluster) : (s.modCluster c f).wire = s.wire := rfl
@[simp] theorem State.modCluster_txHeld (s : State) (c : Nat) (f : Cluster → Cluster) : (s.modCluster c f).txHeld = s.txHeld := rfl
@[simp] theorem State.modCluster_engineSlices (s : State) (c : Nat) (f : Cluster → Cluster) : (s.modCluster c f).engineSlices = s.engineSlices := rfl
@[simp] theorem State.modCluster_engineTurns (s : State) (c : Nat) (f : Cluster → Cluster) : (s.modCluster c f).engineTurns = s.engineTurns := rfl
@[simp] theorem State.modCluster_freedAt (s : State) (c : Nat) (f : Cluster → Cluster) : (s.modCluster c f).freedAt = s.freedAt := rfl
@[simp] theorem State.modCluster_images (s : State) (c : Nat) (f : Cluster → Cluster) : (s.modCluster c f).images = s.images := rfl
@[simp] theorem State.modCluster_versions (s : State) (c : Nat) (f : Cluster → Cluster) : (s.modCluster c f).versions = s.versions := rfl
@[simp] theorem State.modCluster_adapters (s : State) (c : Nat) (f : Cluster → Cluster) : (s.modCluster c f).adapters = s.adapters := rfl
@[simp] theorem State.modCluster_ports (s : State) (c : Nat) (f : Cluster → Cluster) : (s.modCluster c f).ports = s.ports := rfl
@[simp] theorem State.modCluster_resend (s : State) (c : Nat) (f : Cluster → Cluster) : (s.modCluster c f).resend = s.resend := rfl
@[simp] theorem State.modCluster_fabWait (s : State) (c : Nat) (f : Cluster → Cluster) : (s.modCluster c f).fabWait = s.fabWait := rfl
@[simp] theorem State.modCluster_fabOut (s : State) (c : Nat) (f : Cluster → Cluster) : (s.modCluster c f).fabOut = s.fabOut := rfl
@[simp] theorem State.modCluster_fseqTx (s : State) (c : Nat) (f : Cluster → Cluster) : (s.modCluster c f).fseqTx = s.fseqTx := rfl
@[simp] theorem State.modCluster_fseqRx (s : State) (c : Nat) (f : Cluster → Cluster) : (s.modCluster c f).fseqRx = s.fseqRx := rfl
@[simp] theorem State.modCluster_fseqAhead (s : State) (c : Nat) (f : Cluster → Cluster) : (s.modCluster c f).fseqAhead = s.fseqAhead := rfl
@[simp] theorem State.modCluster_ackedRx (s : State) (c : Nat) (f : Cluster → Cluster) : (s.modCluster c f).ackedRx = s.ackedRx := rfl
@[simp] theorem State.modCluster_notices (s : State) (c : Nat) (f : Cluster → Cluster) : (s.modCluster c f).notices = s.notices := rfl
@[simp] theorem State.modCluster_seen (s : State) (c : Nat) (f : Cluster → Cluster) : (s.modCluster c f).seen = s.seen := rfl
@[simp] theorem State.modCluster_sliceRev (s : State) (c : Nat) (f : Cluster → Cluster) : (s.modCluster c f).sliceRev = s.sliceRev := rfl
@[simp] theorem State.modCluster_faults (s : State) (c : Nat) (f : Cluster → Cluster) : (s.modCluster c f).faults = s.faults := rfl
@[simp] theorem State.modCluster_exposures (s : State) (c : Nat) (f : Cluster → Cluster) : (s.modCluster c f).exposures = s.exposures := rfl
@[simp] theorem State.modCluster_dump (s : State) (c : Nat) (f : Cluster → Cluster) : (s.modCluster c f).dump = s.dump := rfl
@[simp] theorem State.modCluster_packs (s : State) (c : Nat) (f : Cluster → Cluster) : (s.modCluster c f).packs = s.packs := rfl
@[simp] theorem State.modCluster_resets (s : State) (c : Nat) (f : Cluster → Cluster) : (s.modCluster c f).resets = s.resets := rfl
@[simp] theorem State.modCluster_security (s : State) (c : Nat) (f : Cluster → Cluster) : (s.modCluster c f).security = s.security := rfl
@[simp] theorem State.modCluster_sync (s : State) (c : Nat) (f : Cluster → Cluster) : (s.modCluster c f).sync = s.sync := rfl
@[simp] theorem State.modCluster_bring (s : State) (c : Nat) (f : Cluster → Cluster) : (s.modCluster c f).bring = s.bring := rfl
@[simp] theorem State.modCluster_snapshot (s : State) (c : Nat) (f : Cluster → Cluster) : (s.modCluster c f).snapshot = s.snapshot := rfl
@[simp] theorem State.modCluster_ecl (s : State) (c : Nat) (f : Cluster → Cluster) : (s.modCluster c f).ecl = s.ecl := rfl
@[simp] theorem State.modCluster_pfc (s : State) (c : Nat) (f : Cluster → Cluster) : (s.modCluster c f).pfc = s.pfc := rfl
@[simp] theorem State.modCluster_esmcAt (s : State) (c : Nat) (f : Cluster → Cluster) : (s.modCluster c f).esmcAt = s.esmcAt := rfl
@[simp] theorem State.modCluster_esmcTx (s : State) (c : Nat) (f : Cluster → Cluster) : (s.modCluster c f).esmcTx = s.esmcTx := rfl
@[simp] theorem State.modCluster_ethOut (s : State) (c : Nat) (f : Cluster → Cluster) : (s.modCluster c f).ethOut = s.ethOut := rfl
@[simp] theorem State.modCluster_oppTarget (s : State) (c : Nat) (f : Cluster → Cluster) : (s.modCluster c f).oppTarget = s.oppTarget := rfl
@[simp] theorem State.modCluster_volt (s : State) (c : Nat) (f : Cluster → Cluster) : (s.modCluster c f).volt = s.volt := rfl
@[simp] theorem State.modCluster_linkReplays (s : State) (c : Nat) (f : Cluster → Cluster) : (s.modCluster c f).linkReplays = s.linkReplays := rfl
@[simp] theorem State.modCluster_linkDowns (s : State) (c : Nat) (f : Cluster → Cluster) : (s.modCluster c f).linkDowns = s.linkDowns := rfl
@[simp] theorem State.modCluster_linkTrainAt (s : State) (c : Nat) (f : Cluster → Cluster) : (s.modCluster c f).linkTrainAt = s.linkTrainAt := rfl
@[simp] theorem State.modCluster_startRegs (s : State) (c : Nat) (f : Cluster → Cluster) : (s.modCluster c f).startRegs = s.startRegs := rfl
@[simp] theorem State.modCluster_peerCeil (s : State) (c : Nat) (f : Cluster → Cluster) : (s.modCluster c f).peerCeil = s.peerCeil := rfl
@[simp] theorem State.modCluster_segReplays (s : State) (c : Nat) (f : Cluster → Cluster) : (s.modCluster c f).segReplays = s.segReplays := rfl
@[simp] theorem State.modCluster_merges (s : State) (c : Nat) (f : Cluster → Cluster) : (s.modCluster c f).merges = s.merges := rfl
@[simp] theorem State.modCluster_tables (s : State) (c : Nat) (f : Cluster → Cluster) : (s.modCluster c f).tables = s.tables := rfl
@[simp] theorem State.modCluster_refHold (s : State) (c : Nat) (f : Cluster → Cluster) : (s.modCluster c f).refHold = s.refHold := rfl
@[simp] theorem State.modCluster_hbPending (s : State) (c : Nat) (f : Cluster → Cluster) : (s.modCluster c f).hbPending = s.hbPending := rfl
@[simp] theorem State.modCluster_fwStopped (s : State) (c : Nat) (f : Cluster → Cluster) : (s.modCluster c f).fwStopped = s.fwStopped := rfl
@[simp] theorem State.modCluster_odRuns (s : State) (c : Nat) (f : Cluster → Cluster) : (s.modCluster c f).odRuns = s.odRuns := rfl
@[simp] theorem State.modCluster_i2c (s : State) (c : Nat) (f : Cluster → Cluster) : (s.modCluster c f).i2c = s.i2c := rfl
@[simp] theorem State.modCluster_answer (s : State) (c : Nat) (f : Cluster → Cluster) : (s.modCluster c f).answer = s.answer := rfl
@[simp] theorem State.modCluster_freeN (s : State) (c : Nat) (f : Cluster → Cluster) : (s.modCluster c f).freeN = s.freeN := rfl
@[simp] theorem State.modCluster_pending (s : State) (c : Nat) (f : Cluster → Cluster) : (s.modCluster c f).pending = s.pending := rfl
@[simp] theorem State.modCluster_reg (s : State) (c : Nat) (f : Cluster → Cluster) (q : Obj) : (s.modCluster c f).reg q = s.reg q := rfl
@[simp] theorem State.modCluster_strand (s : State) (c : Nat) (f : Cluster → Cluster) (q : Nat) : (s.modCluster c f).strand q = s.strand q := rfl
@[simp] theorem State.modCluster_array (s : State) (c : Nat) (f : Cluster → Cluster) (q : Nat) : (s.modCluster c f).array q = s.array q := rfl
@[simp] theorem State.modCluster_job (s : State) (c : Nat) (f : Cluster → Cluster) (q : Nat) : (s.modCluster c f).job q = s.job q := rfl
@[simp] theorem State.modCluster_ctx (s : State) (c : Nat) (f : Cluster → Cluster) (q : Nat) : (s.modCluster c f).ctx q = s.ctx q := rfl
@[simp] theorem State.modCluster_session (s : State) (c : Nat) (f : Cluster → Cluster) (q : Nat) : (s.modCluster c f).session q = s.session q := rfl
@[simp] theorem State.modCluster_jobState (s : State) (c : Nat) (f : Cluster → Cluster) (q : Nat) : (s.modCluster c f).jobState q = s.jobState q := rfl
@[simp] theorem State.modCluster_now (s : State) (c : Nat) (f : Cluster → Cluster) : (s.modCluster c f).now = s.now := rfl

/-! ## setArray -/

@[simp] theorem State.setArray_regs (s : State) (x : Nat) (t : ArrayU) : (s.setArray x t).regs = s.regs := rfl
@[simp] theorem State.setArray_count (s : State) (x : Nat) (t : ArrayU) : (s.setArray x t).count = s.count := rfl
@[simp] theorem State.setArray_ticks (s : State) (x : Nat) (t : ArrayU) : (s.setArray x t).ticks = s.ticks := rfl
@[simp] theorem State.setArray_strands (s : State) (x : Nat) (t : ArrayU) : (s.setArray x t).strands = s.strands := rfl
@[simp] theorem State.setArray_clusters (s : State) (x : Nat) (t : ArrayU) : (s.setArray x t).clusters = s.clusters := rfl
@[simp] theorem State.setArray_sram (s : State) (x : Nat) (t : ArrayU) : (s.setArray x t).sram = s.sram := rfl
@[simp] theorem State.setArray_sramPoison (s : State) (x : Nat) (t : ArrayU) : (s.setArray x t).sramPoison = s.sramPoison := rfl
@[simp] theorem State.setArray_sramParity (s : State) (x : Nat) (t : ArrayU) : (s.setArray x t).sramParity = s.sramParity := rfl
@[simp] theorem State.setArray_pages (s : State) (x : Nat) (t : ArrayU) : (s.setArray x t).pages = s.pages := rfl
@[simp] theorem State.setArray_syncDiscards (s : State) (x : Nat) (t : ArrayU) : (s.setArray x t).syncDiscards = s.syncDiscards := rfl
@[simp] theorem State.setArray_residueEvents (s : State) (x : Nat) (t : ArrayU) : (s.setArray x t).residueEvents = s.residueEvents := rfl
@[simp] theorem State.setArray_excursionEvents (s : State) (x : Nat) (t : ArrayU) : (s.setArray x t).excursionEvents = s.excursionEvents := rfl
@[simp] theorem State.setArray_eqTime (s : State) (x : Nat) (t : ArrayU) : (s.setArray x t).eqTime = s.eqTime := rfl
@[simp] theorem State.setArray_net (s : State) (x : Nat) (t : ArrayU) : (s.setArray x t).net = s.net := rfl
@[simp] theorem State.setArray_mids (s : State) (x : Nat) (t : ArrayU) : (s.setArray x t).mids = s.mids := rfl
@[simp] theorem State.setArray_jobs (s : State) (x : Nat) (t : ArrayU) : (s.setArray x t).jobs = s.jobs := rfl
@[simp] theorem State.setArray_ctxs (s : State) (x : Nat) (t : ArrayU) : (s.setArray x t).ctxs = s.ctxs := rfl
@[simp] theorem State.setArray_prefixes (s : State) (x : Nat) (t : ArrayU) : (s.setArray x t).prefixes = s.prefixes := rfl
@[simp] theorem State.setArray_sessions (s : State) (x : Nat) (t : ArrayU) : (s.setArray x t).sessions = s.sessions := rfl
@[simp] theorem State.setArray_wire (s : State) (x : Nat) (t : ArrayU) : (s.setArray x t).wire = s.wire := rfl
@[simp] theorem State.setArray_txHeld (s : State) (x : Nat) (t : ArrayU) : (s.setArray x t).txHeld = s.txHeld := rfl
@[simp] theorem State.setArray_engineSlices (s : State) (x : Nat) (t : ArrayU) : (s.setArray x t).engineSlices = s.engineSlices := rfl
@[simp] theorem State.setArray_engineTurns (s : State) (x : Nat) (t : ArrayU) : (s.setArray x t).engineTurns = s.engineTurns := rfl
@[simp] theorem State.setArray_freedAt (s : State) (x : Nat) (t : ArrayU) : (s.setArray x t).freedAt = s.freedAt := rfl
@[simp] theorem State.setArray_images (s : State) (x : Nat) (t : ArrayU) : (s.setArray x t).images = s.images := rfl
@[simp] theorem State.setArray_versions (s : State) (x : Nat) (t : ArrayU) : (s.setArray x t).versions = s.versions := rfl
@[simp] theorem State.setArray_adapters (s : State) (x : Nat) (t : ArrayU) : (s.setArray x t).adapters = s.adapters := rfl
@[simp] theorem State.setArray_ports (s : State) (x : Nat) (t : ArrayU) : (s.setArray x t).ports = s.ports := rfl
@[simp] theorem State.setArray_resend (s : State) (x : Nat) (t : ArrayU) : (s.setArray x t).resend = s.resend := rfl
@[simp] theorem State.setArray_fabWait (s : State) (x : Nat) (t : ArrayU) : (s.setArray x t).fabWait = s.fabWait := rfl
@[simp] theorem State.setArray_fabOut (s : State) (x : Nat) (t : ArrayU) : (s.setArray x t).fabOut = s.fabOut := rfl
@[simp] theorem State.setArray_fseqTx (s : State) (x : Nat) (t : ArrayU) : (s.setArray x t).fseqTx = s.fseqTx := rfl
@[simp] theorem State.setArray_fseqRx (s : State) (x : Nat) (t : ArrayU) : (s.setArray x t).fseqRx = s.fseqRx := rfl
@[simp] theorem State.setArray_fseqAhead (s : State) (x : Nat) (t : ArrayU) : (s.setArray x t).fseqAhead = s.fseqAhead := rfl
@[simp] theorem State.setArray_ackedRx (s : State) (x : Nat) (t : ArrayU) : (s.setArray x t).ackedRx = s.ackedRx := rfl
@[simp] theorem State.setArray_notices (s : State) (x : Nat) (t : ArrayU) : (s.setArray x t).notices = s.notices := rfl
@[simp] theorem State.setArray_seen (s : State) (x : Nat) (t : ArrayU) : (s.setArray x t).seen = s.seen := rfl
@[simp] theorem State.setArray_sliceRev (s : State) (x : Nat) (t : ArrayU) : (s.setArray x t).sliceRev = s.sliceRev := rfl
@[simp] theorem State.setArray_faults (s : State) (x : Nat) (t : ArrayU) : (s.setArray x t).faults = s.faults := rfl
@[simp] theorem State.setArray_exposures (s : State) (x : Nat) (t : ArrayU) : (s.setArray x t).exposures = s.exposures := rfl
@[simp] theorem State.setArray_dump (s : State) (x : Nat) (t : ArrayU) : (s.setArray x t).dump = s.dump := rfl
@[simp] theorem State.setArray_packs (s : State) (x : Nat) (t : ArrayU) : (s.setArray x t).packs = s.packs := rfl
@[simp] theorem State.setArray_resets (s : State) (x : Nat) (t : ArrayU) : (s.setArray x t).resets = s.resets := rfl
@[simp] theorem State.setArray_security (s : State) (x : Nat) (t : ArrayU) : (s.setArray x t).security = s.security := rfl
@[simp] theorem State.setArray_sync (s : State) (x : Nat) (t : ArrayU) : (s.setArray x t).sync = s.sync := rfl
@[simp] theorem State.setArray_bring (s : State) (x : Nat) (t : ArrayU) : (s.setArray x t).bring = s.bring := rfl
@[simp] theorem State.setArray_snapshot (s : State) (x : Nat) (t : ArrayU) : (s.setArray x t).snapshot = s.snapshot := rfl
@[simp] theorem State.setArray_ecl (s : State) (x : Nat) (t : ArrayU) : (s.setArray x t).ecl = s.ecl := rfl
@[simp] theorem State.setArray_pfc (s : State) (x : Nat) (t : ArrayU) : (s.setArray x t).pfc = s.pfc := rfl
@[simp] theorem State.setArray_esmcAt (s : State) (x : Nat) (t : ArrayU) : (s.setArray x t).esmcAt = s.esmcAt := rfl
@[simp] theorem State.setArray_esmcTx (s : State) (x : Nat) (t : ArrayU) : (s.setArray x t).esmcTx = s.esmcTx := rfl
@[simp] theorem State.setArray_ethOut (s : State) (x : Nat) (t : ArrayU) : (s.setArray x t).ethOut = s.ethOut := rfl
@[simp] theorem State.setArray_oppTarget (s : State) (x : Nat) (t : ArrayU) : (s.setArray x t).oppTarget = s.oppTarget := rfl
@[simp] theorem State.setArray_volt (s : State) (x : Nat) (t : ArrayU) : (s.setArray x t).volt = s.volt := rfl
@[simp] theorem State.setArray_linkReplays (s : State) (x : Nat) (t : ArrayU) : (s.setArray x t).linkReplays = s.linkReplays := rfl
@[simp] theorem State.setArray_linkDowns (s : State) (x : Nat) (t : ArrayU) : (s.setArray x t).linkDowns = s.linkDowns := rfl
@[simp] theorem State.setArray_linkTrainAt (s : State) (x : Nat) (t : ArrayU) : (s.setArray x t).linkTrainAt = s.linkTrainAt := rfl
@[simp] theorem State.setArray_startRegs (s : State) (x : Nat) (t : ArrayU) : (s.setArray x t).startRegs = s.startRegs := rfl
@[simp] theorem State.setArray_peerCeil (s : State) (x : Nat) (t : ArrayU) : (s.setArray x t).peerCeil = s.peerCeil := rfl
@[simp] theorem State.setArray_segReplays (s : State) (x : Nat) (t : ArrayU) : (s.setArray x t).segReplays = s.segReplays := rfl
@[simp] theorem State.setArray_merges (s : State) (x : Nat) (t : ArrayU) : (s.setArray x t).merges = s.merges := rfl
@[simp] theorem State.setArray_tables (s : State) (x : Nat) (t : ArrayU) : (s.setArray x t).tables = s.tables := rfl
@[simp] theorem State.setArray_refHold (s : State) (x : Nat) (t : ArrayU) : (s.setArray x t).refHold = s.refHold := rfl
@[simp] theorem State.setArray_hbPending (s : State) (x : Nat) (t : ArrayU) : (s.setArray x t).hbPending = s.hbPending := rfl
@[simp] theorem State.setArray_fwStopped (s : State) (x : Nat) (t : ArrayU) : (s.setArray x t).fwStopped = s.fwStopped := rfl
@[simp] theorem State.setArray_odRuns (s : State) (x : Nat) (t : ArrayU) : (s.setArray x t).odRuns = s.odRuns := rfl
@[simp] theorem State.setArray_i2c (s : State) (x : Nat) (t : ArrayU) : (s.setArray x t).i2c = s.i2c := rfl
@[simp] theorem State.setArray_answer (s : State) (x : Nat) (t : ArrayU) : (s.setArray x t).answer = s.answer := rfl
@[simp] theorem State.setArray_freeN (s : State) (x : Nat) (t : ArrayU) : (s.setArray x t).freeN = s.freeN := rfl
@[simp] theorem State.setArray_pending (s : State) (x : Nat) (t : ArrayU) : (s.setArray x t).pending = s.pending := rfl
@[simp] theorem State.setArray_reg (s : State) (x : Nat) (t : ArrayU) (q : Obj) : (s.setArray x t).reg q = s.reg q := rfl
@[simp] theorem State.setArray_strand (s : State) (x : Nat) (t : ArrayU) (q : Nat) : (s.setArray x t).strand q = s.strand q := rfl
@[simp] theorem State.setArray_cluster (s : State) (x : Nat) (t : ArrayU) (q : Nat) : (s.setArray x t).cluster q = s.cluster q := rfl
@[simp] theorem State.setArray_job (s : State) (x : Nat) (t : ArrayU) (q : Nat) : (s.setArray x t).job q = s.job q := rfl
@[simp] theorem State.setArray_ctx (s : State) (x : Nat) (t : ArrayU) (q : Nat) : (s.setArray x t).ctx q = s.ctx q := rfl
@[simp] theorem State.setArray_session (s : State) (x : Nat) (t : ArrayU) (q : Nat) : (s.setArray x t).session q = s.session q := rfl
@[simp] theorem State.setArray_jobState (s : State) (x : Nat) (t : ArrayU) (q : Nat) : (s.setArray x t).jobState q = s.jobState q := rfl
@[simp] theorem State.setArray_now (s : State) (x : Nat) (t : ArrayU) : (s.setArray x t).now = s.now := rfl

/-! ## modArray -/

@[simp] theorem State.modArray_regs (s : State) (x : Nat) (f : ArrayU → ArrayU) : (s.modArray x f).regs = s.regs := rfl
@[simp] theorem State.modArray_count (s : State) (x : Nat) (f : ArrayU → ArrayU) : (s.modArray x f).count = s.count := rfl
@[simp] theorem State.modArray_ticks (s : State) (x : Nat) (f : ArrayU → ArrayU) : (s.modArray x f).ticks = s.ticks := rfl
@[simp] theorem State.modArray_strands (s : State) (x : Nat) (f : ArrayU → ArrayU) : (s.modArray x f).strands = s.strands := rfl
@[simp] theorem State.modArray_clusters (s : State) (x : Nat) (f : ArrayU → ArrayU) : (s.modArray x f).clusters = s.clusters := rfl
@[simp] theorem State.modArray_sram (s : State) (x : Nat) (f : ArrayU → ArrayU) : (s.modArray x f).sram = s.sram := rfl
@[simp] theorem State.modArray_sramPoison (s : State) (x : Nat) (f : ArrayU → ArrayU) : (s.modArray x f).sramPoison = s.sramPoison := rfl
@[simp] theorem State.modArray_sramParity (s : State) (x : Nat) (f : ArrayU → ArrayU) : (s.modArray x f).sramParity = s.sramParity := rfl
@[simp] theorem State.modArray_pages (s : State) (x : Nat) (f : ArrayU → ArrayU) : (s.modArray x f).pages = s.pages := rfl
@[simp] theorem State.modArray_syncDiscards (s : State) (x : Nat) (f : ArrayU → ArrayU) : (s.modArray x f).syncDiscards = s.syncDiscards := rfl
@[simp] theorem State.modArray_residueEvents (s : State) (x : Nat) (f : ArrayU → ArrayU) : (s.modArray x f).residueEvents = s.residueEvents := rfl
@[simp] theorem State.modArray_excursionEvents (s : State) (x : Nat) (f : ArrayU → ArrayU) : (s.modArray x f).excursionEvents = s.excursionEvents := rfl
@[simp] theorem State.modArray_eqTime (s : State) (x : Nat) (f : ArrayU → ArrayU) : (s.modArray x f).eqTime = s.eqTime := rfl
@[simp] theorem State.modArray_net (s : State) (x : Nat) (f : ArrayU → ArrayU) : (s.modArray x f).net = s.net := rfl
@[simp] theorem State.modArray_mids (s : State) (x : Nat) (f : ArrayU → ArrayU) : (s.modArray x f).mids = s.mids := rfl
@[simp] theorem State.modArray_jobs (s : State) (x : Nat) (f : ArrayU → ArrayU) : (s.modArray x f).jobs = s.jobs := rfl
@[simp] theorem State.modArray_ctxs (s : State) (x : Nat) (f : ArrayU → ArrayU) : (s.modArray x f).ctxs = s.ctxs := rfl
@[simp] theorem State.modArray_prefixes (s : State) (x : Nat) (f : ArrayU → ArrayU) : (s.modArray x f).prefixes = s.prefixes := rfl
@[simp] theorem State.modArray_sessions (s : State) (x : Nat) (f : ArrayU → ArrayU) : (s.modArray x f).sessions = s.sessions := rfl
@[simp] theorem State.modArray_wire (s : State) (x : Nat) (f : ArrayU → ArrayU) : (s.modArray x f).wire = s.wire := rfl
@[simp] theorem State.modArray_txHeld (s : State) (x : Nat) (f : ArrayU → ArrayU) : (s.modArray x f).txHeld = s.txHeld := rfl
@[simp] theorem State.modArray_engineSlices (s : State) (x : Nat) (f : ArrayU → ArrayU) : (s.modArray x f).engineSlices = s.engineSlices := rfl
@[simp] theorem State.modArray_engineTurns (s : State) (x : Nat) (f : ArrayU → ArrayU) : (s.modArray x f).engineTurns = s.engineTurns := rfl
@[simp] theorem State.modArray_freedAt (s : State) (x : Nat) (f : ArrayU → ArrayU) : (s.modArray x f).freedAt = s.freedAt := rfl
@[simp] theorem State.modArray_images (s : State) (x : Nat) (f : ArrayU → ArrayU) : (s.modArray x f).images = s.images := rfl
@[simp] theorem State.modArray_versions (s : State) (x : Nat) (f : ArrayU → ArrayU) : (s.modArray x f).versions = s.versions := rfl
@[simp] theorem State.modArray_adapters (s : State) (x : Nat) (f : ArrayU → ArrayU) : (s.modArray x f).adapters = s.adapters := rfl
@[simp] theorem State.modArray_ports (s : State) (x : Nat) (f : ArrayU → ArrayU) : (s.modArray x f).ports = s.ports := rfl
@[simp] theorem State.modArray_resend (s : State) (x : Nat) (f : ArrayU → ArrayU) : (s.modArray x f).resend = s.resend := rfl
@[simp] theorem State.modArray_fabWait (s : State) (x : Nat) (f : ArrayU → ArrayU) : (s.modArray x f).fabWait = s.fabWait := rfl
@[simp] theorem State.modArray_fabOut (s : State) (x : Nat) (f : ArrayU → ArrayU) : (s.modArray x f).fabOut = s.fabOut := rfl
@[simp] theorem State.modArray_fseqTx (s : State) (x : Nat) (f : ArrayU → ArrayU) : (s.modArray x f).fseqTx = s.fseqTx := rfl
@[simp] theorem State.modArray_fseqRx (s : State) (x : Nat) (f : ArrayU → ArrayU) : (s.modArray x f).fseqRx = s.fseqRx := rfl
@[simp] theorem State.modArray_fseqAhead (s : State) (x : Nat) (f : ArrayU → ArrayU) : (s.modArray x f).fseqAhead = s.fseqAhead := rfl
@[simp] theorem State.modArray_ackedRx (s : State) (x : Nat) (f : ArrayU → ArrayU) : (s.modArray x f).ackedRx = s.ackedRx := rfl
@[simp] theorem State.modArray_notices (s : State) (x : Nat) (f : ArrayU → ArrayU) : (s.modArray x f).notices = s.notices := rfl
@[simp] theorem State.modArray_seen (s : State) (x : Nat) (f : ArrayU → ArrayU) : (s.modArray x f).seen = s.seen := rfl
@[simp] theorem State.modArray_sliceRev (s : State) (x : Nat) (f : ArrayU → ArrayU) : (s.modArray x f).sliceRev = s.sliceRev := rfl
@[simp] theorem State.modArray_faults (s : State) (x : Nat) (f : ArrayU → ArrayU) : (s.modArray x f).faults = s.faults := rfl
@[simp] theorem State.modArray_exposures (s : State) (x : Nat) (f : ArrayU → ArrayU) : (s.modArray x f).exposures = s.exposures := rfl
@[simp] theorem State.modArray_dump (s : State) (x : Nat) (f : ArrayU → ArrayU) : (s.modArray x f).dump = s.dump := rfl
@[simp] theorem State.modArray_packs (s : State) (x : Nat) (f : ArrayU → ArrayU) : (s.modArray x f).packs = s.packs := rfl
@[simp] theorem State.modArray_resets (s : State) (x : Nat) (f : ArrayU → ArrayU) : (s.modArray x f).resets = s.resets := rfl
@[simp] theorem State.modArray_security (s : State) (x : Nat) (f : ArrayU → ArrayU) : (s.modArray x f).security = s.security := rfl
@[simp] theorem State.modArray_sync (s : State) (x : Nat) (f : ArrayU → ArrayU) : (s.modArray x f).sync = s.sync := rfl
@[simp] theorem State.modArray_bring (s : State) (x : Nat) (f : ArrayU → ArrayU) : (s.modArray x f).bring = s.bring := rfl
@[simp] theorem State.modArray_snapshot (s : State) (x : Nat) (f : ArrayU → ArrayU) : (s.modArray x f).snapshot = s.snapshot := rfl
@[simp] theorem State.modArray_ecl (s : State) (x : Nat) (f : ArrayU → ArrayU) : (s.modArray x f).ecl = s.ecl := rfl
@[simp] theorem State.modArray_pfc (s : State) (x : Nat) (f : ArrayU → ArrayU) : (s.modArray x f).pfc = s.pfc := rfl
@[simp] theorem State.modArray_esmcAt (s : State) (x : Nat) (f : ArrayU → ArrayU) : (s.modArray x f).esmcAt = s.esmcAt := rfl
@[simp] theorem State.modArray_esmcTx (s : State) (x : Nat) (f : ArrayU → ArrayU) : (s.modArray x f).esmcTx = s.esmcTx := rfl
@[simp] theorem State.modArray_ethOut (s : State) (x : Nat) (f : ArrayU → ArrayU) : (s.modArray x f).ethOut = s.ethOut := rfl
@[simp] theorem State.modArray_oppTarget (s : State) (x : Nat) (f : ArrayU → ArrayU) : (s.modArray x f).oppTarget = s.oppTarget := rfl
@[simp] theorem State.modArray_volt (s : State) (x : Nat) (f : ArrayU → ArrayU) : (s.modArray x f).volt = s.volt := rfl
@[simp] theorem State.modArray_linkReplays (s : State) (x : Nat) (f : ArrayU → ArrayU) : (s.modArray x f).linkReplays = s.linkReplays := rfl
@[simp] theorem State.modArray_linkDowns (s : State) (x : Nat) (f : ArrayU → ArrayU) : (s.modArray x f).linkDowns = s.linkDowns := rfl
@[simp] theorem State.modArray_linkTrainAt (s : State) (x : Nat) (f : ArrayU → ArrayU) : (s.modArray x f).linkTrainAt = s.linkTrainAt := rfl
@[simp] theorem State.modArray_startRegs (s : State) (x : Nat) (f : ArrayU → ArrayU) : (s.modArray x f).startRegs = s.startRegs := rfl
@[simp] theorem State.modArray_peerCeil (s : State) (x : Nat) (f : ArrayU → ArrayU) : (s.modArray x f).peerCeil = s.peerCeil := rfl
@[simp] theorem State.modArray_segReplays (s : State) (x : Nat) (f : ArrayU → ArrayU) : (s.modArray x f).segReplays = s.segReplays := rfl
@[simp] theorem State.modArray_merges (s : State) (x : Nat) (f : ArrayU → ArrayU) : (s.modArray x f).merges = s.merges := rfl
@[simp] theorem State.modArray_tables (s : State) (x : Nat) (f : ArrayU → ArrayU) : (s.modArray x f).tables = s.tables := rfl
@[simp] theorem State.modArray_refHold (s : State) (x : Nat) (f : ArrayU → ArrayU) : (s.modArray x f).refHold = s.refHold := rfl
@[simp] theorem State.modArray_hbPending (s : State) (x : Nat) (f : ArrayU → ArrayU) : (s.modArray x f).hbPending = s.hbPending := rfl
@[simp] theorem State.modArray_fwStopped (s : State) (x : Nat) (f : ArrayU → ArrayU) : (s.modArray x f).fwStopped = s.fwStopped := rfl
@[simp] theorem State.modArray_odRuns (s : State) (x : Nat) (f : ArrayU → ArrayU) : (s.modArray x f).odRuns = s.odRuns := rfl
@[simp] theorem State.modArray_i2c (s : State) (x : Nat) (f : ArrayU → ArrayU) : (s.modArray x f).i2c = s.i2c := rfl
@[simp] theorem State.modArray_answer (s : State) (x : Nat) (f : ArrayU → ArrayU) : (s.modArray x f).answer = s.answer := rfl
@[simp] theorem State.modArray_freeN (s : State) (x : Nat) (f : ArrayU → ArrayU) : (s.modArray x f).freeN = s.freeN := rfl
@[simp] theorem State.modArray_pending (s : State) (x : Nat) (f : ArrayU → ArrayU) : (s.modArray x f).pending = s.pending := rfl
@[simp] theorem State.modArray_reg (s : State) (x : Nat) (f : ArrayU → ArrayU) (q : Obj) : (s.modArray x f).reg q = s.reg q := rfl
@[simp] theorem State.modArray_strand (s : State) (x : Nat) (f : ArrayU → ArrayU) (q : Nat) : (s.modArray x f).strand q = s.strand q := rfl
@[simp] theorem State.modArray_cluster (s : State) (x : Nat) (f : ArrayU → ArrayU) (q : Nat) : (s.modArray x f).cluster q = s.cluster q := rfl
@[simp] theorem State.modArray_job (s : State) (x : Nat) (f : ArrayU → ArrayU) (q : Nat) : (s.modArray x f).job q = s.job q := rfl
@[simp] theorem State.modArray_ctx (s : State) (x : Nat) (f : ArrayU → ArrayU) (q : Nat) : (s.modArray x f).ctx q = s.ctx q := rfl
@[simp] theorem State.modArray_session (s : State) (x : Nat) (f : ArrayU → ArrayU) (q : Nat) : (s.modArray x f).session q = s.session q := rfl
@[simp] theorem State.modArray_jobState (s : State) (x : Nat) (f : ArrayU → ArrayU) (q : Nat) : (s.modArray x f).jobState q = s.jobState q := rfl
@[simp] theorem State.modArray_now (s : State) (x : Nat) (f : ArrayU → ArrayU) : (s.modArray x f).now = s.now := rfl

/-! ## setJob -/

@[simp] theorem State.setJob_regs (s : State) (j : Nat) (t : Job) : (s.setJob j t).regs = s.regs := rfl
@[simp] theorem State.setJob_count (s : State) (j : Nat) (t : Job) : (s.setJob j t).count = s.count := rfl
@[simp] theorem State.setJob_ticks (s : State) (j : Nat) (t : Job) : (s.setJob j t).ticks = s.ticks := rfl
@[simp] theorem State.setJob_strands (s : State) (j : Nat) (t : Job) : (s.setJob j t).strands = s.strands := rfl
@[simp] theorem State.setJob_clusters (s : State) (j : Nat) (t : Job) : (s.setJob j t).clusters = s.clusters := rfl
@[simp] theorem State.setJob_sram (s : State) (j : Nat) (t : Job) : (s.setJob j t).sram = s.sram := rfl
@[simp] theorem State.setJob_sramPoison (s : State) (j : Nat) (t : Job) : (s.setJob j t).sramPoison = s.sramPoison := rfl
@[simp] theorem State.setJob_sramParity (s : State) (j : Nat) (t : Job) : (s.setJob j t).sramParity = s.sramParity := rfl
@[simp] theorem State.setJob_pages (s : State) (j : Nat) (t : Job) : (s.setJob j t).pages = s.pages := rfl
@[simp] theorem State.setJob_arrays (s : State) (j : Nat) (t : Job) : (s.setJob j t).arrays = s.arrays := rfl
@[simp] theorem State.setJob_syncDiscards (s : State) (j : Nat) (t : Job) : (s.setJob j t).syncDiscards = s.syncDiscards := rfl
@[simp] theorem State.setJob_residueEvents (s : State) (j : Nat) (t : Job) : (s.setJob j t).residueEvents = s.residueEvents := rfl
@[simp] theorem State.setJob_excursionEvents (s : State) (j : Nat) (t : Job) : (s.setJob j t).excursionEvents = s.excursionEvents := rfl
@[simp] theorem State.setJob_eqTime (s : State) (j : Nat) (t : Job) : (s.setJob j t).eqTime = s.eqTime := rfl
@[simp] theorem State.setJob_net (s : State) (j : Nat) (t : Job) : (s.setJob j t).net = s.net := rfl
@[simp] theorem State.setJob_mids (s : State) (j : Nat) (t : Job) : (s.setJob j t).mids = s.mids := rfl
@[simp] theorem State.setJob_ctxs (s : State) (j : Nat) (t : Job) : (s.setJob j t).ctxs = s.ctxs := rfl
@[simp] theorem State.setJob_prefixes (s : State) (j : Nat) (t : Job) : (s.setJob j t).prefixes = s.prefixes := rfl
@[simp] theorem State.setJob_sessions (s : State) (j : Nat) (t : Job) : (s.setJob j t).sessions = s.sessions := rfl
@[simp] theorem State.setJob_wire (s : State) (j : Nat) (t : Job) : (s.setJob j t).wire = s.wire := rfl
@[simp] theorem State.setJob_txHeld (s : State) (j : Nat) (t : Job) : (s.setJob j t).txHeld = s.txHeld := rfl
@[simp] theorem State.setJob_engineSlices (s : State) (j : Nat) (t : Job) : (s.setJob j t).engineSlices = s.engineSlices := rfl
@[simp] theorem State.setJob_engineTurns (s : State) (j : Nat) (t : Job) : (s.setJob j t).engineTurns = s.engineTurns := rfl
@[simp] theorem State.setJob_freedAt (s : State) (j : Nat) (t : Job) : (s.setJob j t).freedAt = s.freedAt := rfl
@[simp] theorem State.setJob_images (s : State) (j : Nat) (t : Job) : (s.setJob j t).images = s.images := rfl
@[simp] theorem State.setJob_versions (s : State) (j : Nat) (t : Job) : (s.setJob j t).versions = s.versions := rfl
@[simp] theorem State.setJob_adapters (s : State) (j : Nat) (t : Job) : (s.setJob j t).adapters = s.adapters := rfl
@[simp] theorem State.setJob_ports (s : State) (j : Nat) (t : Job) : (s.setJob j t).ports = s.ports := rfl
@[simp] theorem State.setJob_resend (s : State) (j : Nat) (t : Job) : (s.setJob j t).resend = s.resend := rfl
@[simp] theorem State.setJob_fabWait (s : State) (j : Nat) (t : Job) : (s.setJob j t).fabWait = s.fabWait := rfl
@[simp] theorem State.setJob_fabOut (s : State) (j : Nat) (t : Job) : (s.setJob j t).fabOut = s.fabOut := rfl
@[simp] theorem State.setJob_fseqTx (s : State) (j : Nat) (t : Job) : (s.setJob j t).fseqTx = s.fseqTx := rfl
@[simp] theorem State.setJob_fseqRx (s : State) (j : Nat) (t : Job) : (s.setJob j t).fseqRx = s.fseqRx := rfl
@[simp] theorem State.setJob_fseqAhead (s : State) (j : Nat) (t : Job) : (s.setJob j t).fseqAhead = s.fseqAhead := rfl
@[simp] theorem State.setJob_ackedRx (s : State) (j : Nat) (t : Job) : (s.setJob j t).ackedRx = s.ackedRx := rfl
@[simp] theorem State.setJob_notices (s : State) (j : Nat) (t : Job) : (s.setJob j t).notices = s.notices := rfl
@[simp] theorem State.setJob_seen (s : State) (j : Nat) (t : Job) : (s.setJob j t).seen = s.seen := rfl
@[simp] theorem State.setJob_sliceRev (s : State) (j : Nat) (t : Job) : (s.setJob j t).sliceRev = s.sliceRev := rfl
@[simp] theorem State.setJob_faults (s : State) (j : Nat) (t : Job) : (s.setJob j t).faults = s.faults := rfl
@[simp] theorem State.setJob_exposures (s : State) (j : Nat) (t : Job) : (s.setJob j t).exposures = s.exposures := rfl
@[simp] theorem State.setJob_dump (s : State) (j : Nat) (t : Job) : (s.setJob j t).dump = s.dump := rfl
@[simp] theorem State.setJob_packs (s : State) (j : Nat) (t : Job) : (s.setJob j t).packs = s.packs := rfl
@[simp] theorem State.setJob_resets (s : State) (j : Nat) (t : Job) : (s.setJob j t).resets = s.resets := rfl
@[simp] theorem State.setJob_security (s : State) (j : Nat) (t : Job) : (s.setJob j t).security = s.security := rfl
@[simp] theorem State.setJob_sync (s : State) (j : Nat) (t : Job) : (s.setJob j t).sync = s.sync := rfl
@[simp] theorem State.setJob_bring (s : State) (j : Nat) (t : Job) : (s.setJob j t).bring = s.bring := rfl
@[simp] theorem State.setJob_snapshot (s : State) (j : Nat) (t : Job) : (s.setJob j t).snapshot = s.snapshot := rfl
@[simp] theorem State.setJob_ecl (s : State) (j : Nat) (t : Job) : (s.setJob j t).ecl = s.ecl := rfl
@[simp] theorem State.setJob_pfc (s : State) (j : Nat) (t : Job) : (s.setJob j t).pfc = s.pfc := rfl
@[simp] theorem State.setJob_esmcAt (s : State) (j : Nat) (t : Job) : (s.setJob j t).esmcAt = s.esmcAt := rfl
@[simp] theorem State.setJob_esmcTx (s : State) (j : Nat) (t : Job) : (s.setJob j t).esmcTx = s.esmcTx := rfl
@[simp] theorem State.setJob_ethOut (s : State) (j : Nat) (t : Job) : (s.setJob j t).ethOut = s.ethOut := rfl
@[simp] theorem State.setJob_oppTarget (s : State) (j : Nat) (t : Job) : (s.setJob j t).oppTarget = s.oppTarget := rfl
@[simp] theorem State.setJob_volt (s : State) (j : Nat) (t : Job) : (s.setJob j t).volt = s.volt := rfl
@[simp] theorem State.setJob_linkReplays (s : State) (j : Nat) (t : Job) : (s.setJob j t).linkReplays = s.linkReplays := rfl
@[simp] theorem State.setJob_linkDowns (s : State) (j : Nat) (t : Job) : (s.setJob j t).linkDowns = s.linkDowns := rfl
@[simp] theorem State.setJob_linkTrainAt (s : State) (j : Nat) (t : Job) : (s.setJob j t).linkTrainAt = s.linkTrainAt := rfl
@[simp] theorem State.setJob_startRegs (s : State) (j : Nat) (t : Job) : (s.setJob j t).startRegs = s.startRegs := rfl
@[simp] theorem State.setJob_peerCeil (s : State) (j : Nat) (t : Job) : (s.setJob j t).peerCeil = s.peerCeil := rfl
@[simp] theorem State.setJob_segReplays (s : State) (j : Nat) (t : Job) : (s.setJob j t).segReplays = s.segReplays := rfl
@[simp] theorem State.setJob_merges (s : State) (j : Nat) (t : Job) : (s.setJob j t).merges = s.merges := rfl
@[simp] theorem State.setJob_tables (s : State) (j : Nat) (t : Job) : (s.setJob j t).tables = s.tables := rfl
@[simp] theorem State.setJob_refHold (s : State) (j : Nat) (t : Job) : (s.setJob j t).refHold = s.refHold := rfl
@[simp] theorem State.setJob_hbPending (s : State) (j : Nat) (t : Job) : (s.setJob j t).hbPending = s.hbPending := rfl
@[simp] theorem State.setJob_fwStopped (s : State) (j : Nat) (t : Job) : (s.setJob j t).fwStopped = s.fwStopped := rfl
@[simp] theorem State.setJob_odRuns (s : State) (j : Nat) (t : Job) : (s.setJob j t).odRuns = s.odRuns := rfl
@[simp] theorem State.setJob_i2c (s : State) (j : Nat) (t : Job) : (s.setJob j t).i2c = s.i2c := rfl
@[simp] theorem State.setJob_answer (s : State) (j : Nat) (t : Job) : (s.setJob j t).answer = s.answer := rfl
@[simp] theorem State.setJob_freeN (s : State) (j : Nat) (t : Job) : (s.setJob j t).freeN = s.freeN := rfl
@[simp] theorem State.setJob_pending (s : State) (j : Nat) (t : Job) : (s.setJob j t).pending = s.pending := rfl
@[simp] theorem State.setJob_reg (s : State) (j : Nat) (t : Job) (q : Obj) : (s.setJob j t).reg q = s.reg q := rfl
@[simp] theorem State.setJob_strand (s : State) (j : Nat) (t : Job) (q : Nat) : (s.setJob j t).strand q = s.strand q := rfl
@[simp] theorem State.setJob_cluster (s : State) (j : Nat) (t : Job) (q : Nat) : (s.setJob j t).cluster q = s.cluster q := rfl
@[simp] theorem State.setJob_array (s : State) (j : Nat) (t : Job) (q : Nat) : (s.setJob j t).array q = s.array q := rfl
@[simp] theorem State.setJob_ctx (s : State) (j : Nat) (t : Job) (q : Nat) : (s.setJob j t).ctx q = s.ctx q := rfl
@[simp] theorem State.setJob_session (s : State) (j : Nat) (t : Job) (q : Nat) : (s.setJob j t).session q = s.session q := rfl
@[simp] theorem State.setJob_jobState (s : State) (j : Nat) (t : Job) (q : Nat) : (s.setJob j t).jobState q = s.jobState q := rfl
@[simp] theorem State.setJob_now (s : State) (j : Nat) (t : Job) : (s.setJob j t).now = s.now := rfl

/-! ## modJob -/

@[simp] theorem State.modJob_regs (s : State) (j : Nat) (f : Job → Job) : (s.modJob j f).regs = s.regs := rfl
@[simp] theorem State.modJob_count (s : State) (j : Nat) (f : Job → Job) : (s.modJob j f).count = s.count := rfl
@[simp] theorem State.modJob_ticks (s : State) (j : Nat) (f : Job → Job) : (s.modJob j f).ticks = s.ticks := rfl
@[simp] theorem State.modJob_strands (s : State) (j : Nat) (f : Job → Job) : (s.modJob j f).strands = s.strands := rfl
@[simp] theorem State.modJob_clusters (s : State) (j : Nat) (f : Job → Job) : (s.modJob j f).clusters = s.clusters := rfl
@[simp] theorem State.modJob_sram (s : State) (j : Nat) (f : Job → Job) : (s.modJob j f).sram = s.sram := rfl
@[simp] theorem State.modJob_sramPoison (s : State) (j : Nat) (f : Job → Job) : (s.modJob j f).sramPoison = s.sramPoison := rfl
@[simp] theorem State.modJob_sramParity (s : State) (j : Nat) (f : Job → Job) : (s.modJob j f).sramParity = s.sramParity := rfl
@[simp] theorem State.modJob_pages (s : State) (j : Nat) (f : Job → Job) : (s.modJob j f).pages = s.pages := rfl
@[simp] theorem State.modJob_arrays (s : State) (j : Nat) (f : Job → Job) : (s.modJob j f).arrays = s.arrays := rfl
@[simp] theorem State.modJob_syncDiscards (s : State) (j : Nat) (f : Job → Job) : (s.modJob j f).syncDiscards = s.syncDiscards := rfl
@[simp] theorem State.modJob_residueEvents (s : State) (j : Nat) (f : Job → Job) : (s.modJob j f).residueEvents = s.residueEvents := rfl
@[simp] theorem State.modJob_excursionEvents (s : State) (j : Nat) (f : Job → Job) : (s.modJob j f).excursionEvents = s.excursionEvents := rfl
@[simp] theorem State.modJob_eqTime (s : State) (j : Nat) (f : Job → Job) : (s.modJob j f).eqTime = s.eqTime := rfl
@[simp] theorem State.modJob_net (s : State) (j : Nat) (f : Job → Job) : (s.modJob j f).net = s.net := rfl
@[simp] theorem State.modJob_mids (s : State) (j : Nat) (f : Job → Job) : (s.modJob j f).mids = s.mids := rfl
@[simp] theorem State.modJob_ctxs (s : State) (j : Nat) (f : Job → Job) : (s.modJob j f).ctxs = s.ctxs := rfl
@[simp] theorem State.modJob_prefixes (s : State) (j : Nat) (f : Job → Job) : (s.modJob j f).prefixes = s.prefixes := rfl
@[simp] theorem State.modJob_sessions (s : State) (j : Nat) (f : Job → Job) : (s.modJob j f).sessions = s.sessions := rfl
@[simp] theorem State.modJob_wire (s : State) (j : Nat) (f : Job → Job) : (s.modJob j f).wire = s.wire := rfl
@[simp] theorem State.modJob_txHeld (s : State) (j : Nat) (f : Job → Job) : (s.modJob j f).txHeld = s.txHeld := rfl
@[simp] theorem State.modJob_engineSlices (s : State) (j : Nat) (f : Job → Job) : (s.modJob j f).engineSlices = s.engineSlices := rfl
@[simp] theorem State.modJob_engineTurns (s : State) (j : Nat) (f : Job → Job) : (s.modJob j f).engineTurns = s.engineTurns := rfl
@[simp] theorem State.modJob_freedAt (s : State) (j : Nat) (f : Job → Job) : (s.modJob j f).freedAt = s.freedAt := rfl
@[simp] theorem State.modJob_images (s : State) (j : Nat) (f : Job → Job) : (s.modJob j f).images = s.images := rfl
@[simp] theorem State.modJob_versions (s : State) (j : Nat) (f : Job → Job) : (s.modJob j f).versions = s.versions := rfl
@[simp] theorem State.modJob_adapters (s : State) (j : Nat) (f : Job → Job) : (s.modJob j f).adapters = s.adapters := rfl
@[simp] theorem State.modJob_ports (s : State) (j : Nat) (f : Job → Job) : (s.modJob j f).ports = s.ports := rfl
@[simp] theorem State.modJob_resend (s : State) (j : Nat) (f : Job → Job) : (s.modJob j f).resend = s.resend := rfl
@[simp] theorem State.modJob_fabWait (s : State) (j : Nat) (f : Job → Job) : (s.modJob j f).fabWait = s.fabWait := rfl
@[simp] theorem State.modJob_fabOut (s : State) (j : Nat) (f : Job → Job) : (s.modJob j f).fabOut = s.fabOut := rfl
@[simp] theorem State.modJob_fseqTx (s : State) (j : Nat) (f : Job → Job) : (s.modJob j f).fseqTx = s.fseqTx := rfl
@[simp] theorem State.modJob_fseqRx (s : State) (j : Nat) (f : Job → Job) : (s.modJob j f).fseqRx = s.fseqRx := rfl
@[simp] theorem State.modJob_fseqAhead (s : State) (j : Nat) (f : Job → Job) : (s.modJob j f).fseqAhead = s.fseqAhead := rfl
@[simp] theorem State.modJob_ackedRx (s : State) (j : Nat) (f : Job → Job) : (s.modJob j f).ackedRx = s.ackedRx := rfl
@[simp] theorem State.modJob_notices (s : State) (j : Nat) (f : Job → Job) : (s.modJob j f).notices = s.notices := rfl
@[simp] theorem State.modJob_seen (s : State) (j : Nat) (f : Job → Job) : (s.modJob j f).seen = s.seen := rfl
@[simp] theorem State.modJob_sliceRev (s : State) (j : Nat) (f : Job → Job) : (s.modJob j f).sliceRev = s.sliceRev := rfl
@[simp] theorem State.modJob_faults (s : State) (j : Nat) (f : Job → Job) : (s.modJob j f).faults = s.faults := rfl
@[simp] theorem State.modJob_exposures (s : State) (j : Nat) (f : Job → Job) : (s.modJob j f).exposures = s.exposures := rfl
@[simp] theorem State.modJob_dump (s : State) (j : Nat) (f : Job → Job) : (s.modJob j f).dump = s.dump := rfl
@[simp] theorem State.modJob_packs (s : State) (j : Nat) (f : Job → Job) : (s.modJob j f).packs = s.packs := rfl
@[simp] theorem State.modJob_resets (s : State) (j : Nat) (f : Job → Job) : (s.modJob j f).resets = s.resets := rfl
@[simp] theorem State.modJob_security (s : State) (j : Nat) (f : Job → Job) : (s.modJob j f).security = s.security := rfl
@[simp] theorem State.modJob_sync (s : State) (j : Nat) (f : Job → Job) : (s.modJob j f).sync = s.sync := rfl
@[simp] theorem State.modJob_bring (s : State) (j : Nat) (f : Job → Job) : (s.modJob j f).bring = s.bring := rfl
@[simp] theorem State.modJob_snapshot (s : State) (j : Nat) (f : Job → Job) : (s.modJob j f).snapshot = s.snapshot := rfl
@[simp] theorem State.modJob_ecl (s : State) (j : Nat) (f : Job → Job) : (s.modJob j f).ecl = s.ecl := rfl
@[simp] theorem State.modJob_pfc (s : State) (j : Nat) (f : Job → Job) : (s.modJob j f).pfc = s.pfc := rfl
@[simp] theorem State.modJob_esmcAt (s : State) (j : Nat) (f : Job → Job) : (s.modJob j f).esmcAt = s.esmcAt := rfl
@[simp] theorem State.modJob_esmcTx (s : State) (j : Nat) (f : Job → Job) : (s.modJob j f).esmcTx = s.esmcTx := rfl
@[simp] theorem State.modJob_ethOut (s : State) (j : Nat) (f : Job → Job) : (s.modJob j f).ethOut = s.ethOut := rfl
@[simp] theorem State.modJob_oppTarget (s : State) (j : Nat) (f : Job → Job) : (s.modJob j f).oppTarget = s.oppTarget := rfl
@[simp] theorem State.modJob_volt (s : State) (j : Nat) (f : Job → Job) : (s.modJob j f).volt = s.volt := rfl
@[simp] theorem State.modJob_linkReplays (s : State) (j : Nat) (f : Job → Job) : (s.modJob j f).linkReplays = s.linkReplays := rfl
@[simp] theorem State.modJob_linkDowns (s : State) (j : Nat) (f : Job → Job) : (s.modJob j f).linkDowns = s.linkDowns := rfl
@[simp] theorem State.modJob_linkTrainAt (s : State) (j : Nat) (f : Job → Job) : (s.modJob j f).linkTrainAt = s.linkTrainAt := rfl
@[simp] theorem State.modJob_startRegs (s : State) (j : Nat) (f : Job → Job) : (s.modJob j f).startRegs = s.startRegs := rfl
@[simp] theorem State.modJob_peerCeil (s : State) (j : Nat) (f : Job → Job) : (s.modJob j f).peerCeil = s.peerCeil := rfl
@[simp] theorem State.modJob_segReplays (s : State) (j : Nat) (f : Job → Job) : (s.modJob j f).segReplays = s.segReplays := rfl
@[simp] theorem State.modJob_merges (s : State) (j : Nat) (f : Job → Job) : (s.modJob j f).merges = s.merges := rfl
@[simp] theorem State.modJob_tables (s : State) (j : Nat) (f : Job → Job) : (s.modJob j f).tables = s.tables := rfl
@[simp] theorem State.modJob_refHold (s : State) (j : Nat) (f : Job → Job) : (s.modJob j f).refHold = s.refHold := rfl
@[simp] theorem State.modJob_hbPending (s : State) (j : Nat) (f : Job → Job) : (s.modJob j f).hbPending = s.hbPending := rfl
@[simp] theorem State.modJob_fwStopped (s : State) (j : Nat) (f : Job → Job) : (s.modJob j f).fwStopped = s.fwStopped := rfl
@[simp] theorem State.modJob_odRuns (s : State) (j : Nat) (f : Job → Job) : (s.modJob j f).odRuns = s.odRuns := rfl
@[simp] theorem State.modJob_i2c (s : State) (j : Nat) (f : Job → Job) : (s.modJob j f).i2c = s.i2c := rfl
@[simp] theorem State.modJob_answer (s : State) (j : Nat) (f : Job → Job) : (s.modJob j f).answer = s.answer := rfl
@[simp] theorem State.modJob_freeN (s : State) (j : Nat) (f : Job → Job) : (s.modJob j f).freeN = s.freeN := rfl
@[simp] theorem State.modJob_pending (s : State) (j : Nat) (f : Job → Job) : (s.modJob j f).pending = s.pending := rfl
@[simp] theorem State.modJob_reg (s : State) (j : Nat) (f : Job → Job) (q : Obj) : (s.modJob j f).reg q = s.reg q := rfl
@[simp] theorem State.modJob_strand (s : State) (j : Nat) (f : Job → Job) (q : Nat) : (s.modJob j f).strand q = s.strand q := rfl
@[simp] theorem State.modJob_cluster (s : State) (j : Nat) (f : Job → Job) (q : Nat) : (s.modJob j f).cluster q = s.cluster q := rfl
@[simp] theorem State.modJob_array (s : State) (j : Nat) (f : Job → Job) (q : Nat) : (s.modJob j f).array q = s.array q := rfl
@[simp] theorem State.modJob_ctx (s : State) (j : Nat) (f : Job → Job) (q : Nat) : (s.modJob j f).ctx q = s.ctx q := rfl
@[simp] theorem State.modJob_session (s : State) (j : Nat) (f : Job → Job) (q : Nat) : (s.modJob j f).session q = s.session q := rfl
@[simp] theorem State.modJob_jobState (s : State) (j : Nat) (f : Job → Job) (q : Nat) : (s.modJob j f).jobState q = s.jobState q := rfl
@[simp] theorem State.modJob_now (s : State) (j : Nat) (f : Job → Job) : (s.modJob j f).now = s.now := rfl

/-! ## setCtx -/

@[simp] theorem State.setCtx_regs (s : State) (x : Nat) (t : Ctx) : (s.setCtx x t).regs = s.regs := rfl
@[simp] theorem State.setCtx_count (s : State) (x : Nat) (t : Ctx) : (s.setCtx x t).count = s.count := rfl
@[simp] theorem State.setCtx_ticks (s : State) (x : Nat) (t : Ctx) : (s.setCtx x t).ticks = s.ticks := rfl
@[simp] theorem State.setCtx_strands (s : State) (x : Nat) (t : Ctx) : (s.setCtx x t).strands = s.strands := rfl
@[simp] theorem State.setCtx_clusters (s : State) (x : Nat) (t : Ctx) : (s.setCtx x t).clusters = s.clusters := rfl
@[simp] theorem State.setCtx_sram (s : State) (x : Nat) (t : Ctx) : (s.setCtx x t).sram = s.sram := rfl
@[simp] theorem State.setCtx_sramPoison (s : State) (x : Nat) (t : Ctx) : (s.setCtx x t).sramPoison = s.sramPoison := rfl
@[simp] theorem State.setCtx_sramParity (s : State) (x : Nat) (t : Ctx) : (s.setCtx x t).sramParity = s.sramParity := rfl
@[simp] theorem State.setCtx_pages (s : State) (x : Nat) (t : Ctx) : (s.setCtx x t).pages = s.pages := rfl
@[simp] theorem State.setCtx_arrays (s : State) (x : Nat) (t : Ctx) : (s.setCtx x t).arrays = s.arrays := rfl
@[simp] theorem State.setCtx_syncDiscards (s : State) (x : Nat) (t : Ctx) : (s.setCtx x t).syncDiscards = s.syncDiscards := rfl
@[simp] theorem State.setCtx_residueEvents (s : State) (x : Nat) (t : Ctx) : (s.setCtx x t).residueEvents = s.residueEvents := rfl
@[simp] theorem State.setCtx_excursionEvents (s : State) (x : Nat) (t : Ctx) : (s.setCtx x t).excursionEvents = s.excursionEvents := rfl
@[simp] theorem State.setCtx_eqTime (s : State) (x : Nat) (t : Ctx) : (s.setCtx x t).eqTime = s.eqTime := rfl
@[simp] theorem State.setCtx_net (s : State) (x : Nat) (t : Ctx) : (s.setCtx x t).net = s.net := rfl
@[simp] theorem State.setCtx_mids (s : State) (x : Nat) (t : Ctx) : (s.setCtx x t).mids = s.mids := rfl
@[simp] theorem State.setCtx_jobs (s : State) (x : Nat) (t : Ctx) : (s.setCtx x t).jobs = s.jobs := rfl
@[simp] theorem State.setCtx_prefixes (s : State) (x : Nat) (t : Ctx) : (s.setCtx x t).prefixes = s.prefixes := rfl
@[simp] theorem State.setCtx_sessions (s : State) (x : Nat) (t : Ctx) : (s.setCtx x t).sessions = s.sessions := rfl
@[simp] theorem State.setCtx_wire (s : State) (x : Nat) (t : Ctx) : (s.setCtx x t).wire = s.wire := rfl
@[simp] theorem State.setCtx_txHeld (s : State) (x : Nat) (t : Ctx) : (s.setCtx x t).txHeld = s.txHeld := rfl
@[simp] theorem State.setCtx_engineSlices (s : State) (x : Nat) (t : Ctx) : (s.setCtx x t).engineSlices = s.engineSlices := rfl
@[simp] theorem State.setCtx_engineTurns (s : State) (x : Nat) (t : Ctx) : (s.setCtx x t).engineTurns = s.engineTurns := rfl
@[simp] theorem State.setCtx_freedAt (s : State) (x : Nat) (t : Ctx) : (s.setCtx x t).freedAt = s.freedAt := rfl
@[simp] theorem State.setCtx_images (s : State) (x : Nat) (t : Ctx) : (s.setCtx x t).images = s.images := rfl
@[simp] theorem State.setCtx_versions (s : State) (x : Nat) (t : Ctx) : (s.setCtx x t).versions = s.versions := rfl
@[simp] theorem State.setCtx_adapters (s : State) (x : Nat) (t : Ctx) : (s.setCtx x t).adapters = s.adapters := rfl
@[simp] theorem State.setCtx_ports (s : State) (x : Nat) (t : Ctx) : (s.setCtx x t).ports = s.ports := rfl
@[simp] theorem State.setCtx_resend (s : State) (x : Nat) (t : Ctx) : (s.setCtx x t).resend = s.resend := rfl
@[simp] theorem State.setCtx_fabWait (s : State) (x : Nat) (t : Ctx) : (s.setCtx x t).fabWait = s.fabWait := rfl
@[simp] theorem State.setCtx_fabOut (s : State) (x : Nat) (t : Ctx) : (s.setCtx x t).fabOut = s.fabOut := rfl
@[simp] theorem State.setCtx_fseqTx (s : State) (x : Nat) (t : Ctx) : (s.setCtx x t).fseqTx = s.fseqTx := rfl
@[simp] theorem State.setCtx_fseqRx (s : State) (x : Nat) (t : Ctx) : (s.setCtx x t).fseqRx = s.fseqRx := rfl
@[simp] theorem State.setCtx_fseqAhead (s : State) (x : Nat) (t : Ctx) : (s.setCtx x t).fseqAhead = s.fseqAhead := rfl
@[simp] theorem State.setCtx_ackedRx (s : State) (x : Nat) (t : Ctx) : (s.setCtx x t).ackedRx = s.ackedRx := rfl
@[simp] theorem State.setCtx_notices (s : State) (x : Nat) (t : Ctx) : (s.setCtx x t).notices = s.notices := rfl
@[simp] theorem State.setCtx_seen (s : State) (x : Nat) (t : Ctx) : (s.setCtx x t).seen = s.seen := rfl
@[simp] theorem State.setCtx_sliceRev (s : State) (x : Nat) (t : Ctx) : (s.setCtx x t).sliceRev = s.sliceRev := rfl
@[simp] theorem State.setCtx_faults (s : State) (x : Nat) (t : Ctx) : (s.setCtx x t).faults = s.faults := rfl
@[simp] theorem State.setCtx_exposures (s : State) (x : Nat) (t : Ctx) : (s.setCtx x t).exposures = s.exposures := rfl
@[simp] theorem State.setCtx_dump (s : State) (x : Nat) (t : Ctx) : (s.setCtx x t).dump = s.dump := rfl
@[simp] theorem State.setCtx_packs (s : State) (x : Nat) (t : Ctx) : (s.setCtx x t).packs = s.packs := rfl
@[simp] theorem State.setCtx_resets (s : State) (x : Nat) (t : Ctx) : (s.setCtx x t).resets = s.resets := rfl
@[simp] theorem State.setCtx_security (s : State) (x : Nat) (t : Ctx) : (s.setCtx x t).security = s.security := rfl
@[simp] theorem State.setCtx_sync (s : State) (x : Nat) (t : Ctx) : (s.setCtx x t).sync = s.sync := rfl
@[simp] theorem State.setCtx_bring (s : State) (x : Nat) (t : Ctx) : (s.setCtx x t).bring = s.bring := rfl
@[simp] theorem State.setCtx_snapshot (s : State) (x : Nat) (t : Ctx) : (s.setCtx x t).snapshot = s.snapshot := rfl
@[simp] theorem State.setCtx_ecl (s : State) (x : Nat) (t : Ctx) : (s.setCtx x t).ecl = s.ecl := rfl
@[simp] theorem State.setCtx_pfc (s : State) (x : Nat) (t : Ctx) : (s.setCtx x t).pfc = s.pfc := rfl
@[simp] theorem State.setCtx_esmcAt (s : State) (x : Nat) (t : Ctx) : (s.setCtx x t).esmcAt = s.esmcAt := rfl
@[simp] theorem State.setCtx_esmcTx (s : State) (x : Nat) (t : Ctx) : (s.setCtx x t).esmcTx = s.esmcTx := rfl
@[simp] theorem State.setCtx_ethOut (s : State) (x : Nat) (t : Ctx) : (s.setCtx x t).ethOut = s.ethOut := rfl
@[simp] theorem State.setCtx_oppTarget (s : State) (x : Nat) (t : Ctx) : (s.setCtx x t).oppTarget = s.oppTarget := rfl
@[simp] theorem State.setCtx_volt (s : State) (x : Nat) (t : Ctx) : (s.setCtx x t).volt = s.volt := rfl
@[simp] theorem State.setCtx_linkReplays (s : State) (x : Nat) (t : Ctx) : (s.setCtx x t).linkReplays = s.linkReplays := rfl
@[simp] theorem State.setCtx_linkDowns (s : State) (x : Nat) (t : Ctx) : (s.setCtx x t).linkDowns = s.linkDowns := rfl
@[simp] theorem State.setCtx_linkTrainAt (s : State) (x : Nat) (t : Ctx) : (s.setCtx x t).linkTrainAt = s.linkTrainAt := rfl
@[simp] theorem State.setCtx_startRegs (s : State) (x : Nat) (t : Ctx) : (s.setCtx x t).startRegs = s.startRegs := rfl
@[simp] theorem State.setCtx_peerCeil (s : State) (x : Nat) (t : Ctx) : (s.setCtx x t).peerCeil = s.peerCeil := rfl
@[simp] theorem State.setCtx_segReplays (s : State) (x : Nat) (t : Ctx) : (s.setCtx x t).segReplays = s.segReplays := rfl
@[simp] theorem State.setCtx_merges (s : State) (x : Nat) (t : Ctx) : (s.setCtx x t).merges = s.merges := rfl
@[simp] theorem State.setCtx_tables (s : State) (x : Nat) (t : Ctx) : (s.setCtx x t).tables = s.tables := rfl
@[simp] theorem State.setCtx_refHold (s : State) (x : Nat) (t : Ctx) : (s.setCtx x t).refHold = s.refHold := rfl
@[simp] theorem State.setCtx_hbPending (s : State) (x : Nat) (t : Ctx) : (s.setCtx x t).hbPending = s.hbPending := rfl
@[simp] theorem State.setCtx_fwStopped (s : State) (x : Nat) (t : Ctx) : (s.setCtx x t).fwStopped = s.fwStopped := rfl
@[simp] theorem State.setCtx_odRuns (s : State) (x : Nat) (t : Ctx) : (s.setCtx x t).odRuns = s.odRuns := rfl
@[simp] theorem State.setCtx_i2c (s : State) (x : Nat) (t : Ctx) : (s.setCtx x t).i2c = s.i2c := rfl
@[simp] theorem State.setCtx_answer (s : State) (x : Nat) (t : Ctx) : (s.setCtx x t).answer = s.answer := rfl
@[simp] theorem State.setCtx_freeN (s : State) (x : Nat) (t : Ctx) : (s.setCtx x t).freeN = s.freeN := rfl
@[simp] theorem State.setCtx_pending (s : State) (x : Nat) (t : Ctx) : (s.setCtx x t).pending = s.pending := rfl
@[simp] theorem State.setCtx_reg (s : State) (x : Nat) (t : Ctx) (q : Obj) : (s.setCtx x t).reg q = s.reg q := rfl
@[simp] theorem State.setCtx_strand (s : State) (x : Nat) (t : Ctx) (q : Nat) : (s.setCtx x t).strand q = s.strand q := rfl
@[simp] theorem State.setCtx_cluster (s : State) (x : Nat) (t : Ctx) (q : Nat) : (s.setCtx x t).cluster q = s.cluster q := rfl
@[simp] theorem State.setCtx_array (s : State) (x : Nat) (t : Ctx) (q : Nat) : (s.setCtx x t).array q = s.array q := rfl
@[simp] theorem State.setCtx_job (s : State) (x : Nat) (t : Ctx) (q : Nat) : (s.setCtx x t).job q = s.job q := rfl
@[simp] theorem State.setCtx_session (s : State) (x : Nat) (t : Ctx) (q : Nat) : (s.setCtx x t).session q = s.session q := rfl
@[simp] theorem State.setCtx_jobState (s : State) (x : Nat) (t : Ctx) (q : Nat) : (s.setCtx x t).jobState q = s.jobState q := rfl
@[simp] theorem State.setCtx_now (s : State) (x : Nat) (t : Ctx) : (s.setCtx x t).now = s.now := rfl

/-! ## setSession -/

@[simp] theorem State.setSession_regs (s : State) (n : Nat) (t : Session) : (s.setSession n t).regs = s.regs := rfl
@[simp] theorem State.setSession_count (s : State) (n : Nat) (t : Session) : (s.setSession n t).count = s.count := rfl
@[simp] theorem State.setSession_ticks (s : State) (n : Nat) (t : Session) : (s.setSession n t).ticks = s.ticks := rfl
@[simp] theorem State.setSession_strands (s : State) (n : Nat) (t : Session) : (s.setSession n t).strands = s.strands := rfl
@[simp] theorem State.setSession_clusters (s : State) (n : Nat) (t : Session) : (s.setSession n t).clusters = s.clusters := rfl
@[simp] theorem State.setSession_sram (s : State) (n : Nat) (t : Session) : (s.setSession n t).sram = s.sram := rfl
@[simp] theorem State.setSession_sramPoison (s : State) (n : Nat) (t : Session) : (s.setSession n t).sramPoison = s.sramPoison := rfl
@[simp] theorem State.setSession_sramParity (s : State) (n : Nat) (t : Session) : (s.setSession n t).sramParity = s.sramParity := rfl
@[simp] theorem State.setSession_pages (s : State) (n : Nat) (t : Session) : (s.setSession n t).pages = s.pages := rfl
@[simp] theorem State.setSession_arrays (s : State) (n : Nat) (t : Session) : (s.setSession n t).arrays = s.arrays := rfl
@[simp] theorem State.setSession_syncDiscards (s : State) (n : Nat) (t : Session) : (s.setSession n t).syncDiscards = s.syncDiscards := rfl
@[simp] theorem State.setSession_residueEvents (s : State) (n : Nat) (t : Session) : (s.setSession n t).residueEvents = s.residueEvents := rfl
@[simp] theorem State.setSession_excursionEvents (s : State) (n : Nat) (t : Session) : (s.setSession n t).excursionEvents = s.excursionEvents := rfl
@[simp] theorem State.setSession_eqTime (s : State) (n : Nat) (t : Session) : (s.setSession n t).eqTime = s.eqTime := rfl
@[simp] theorem State.setSession_net (s : State) (n : Nat) (t : Session) : (s.setSession n t).net = s.net := rfl
@[simp] theorem State.setSession_mids (s : State) (n : Nat) (t : Session) : (s.setSession n t).mids = s.mids := rfl
@[simp] theorem State.setSession_jobs (s : State) (n : Nat) (t : Session) : (s.setSession n t).jobs = s.jobs := rfl
@[simp] theorem State.setSession_ctxs (s : State) (n : Nat) (t : Session) : (s.setSession n t).ctxs = s.ctxs := rfl
@[simp] theorem State.setSession_prefixes (s : State) (n : Nat) (t : Session) : (s.setSession n t).prefixes = s.prefixes := rfl
@[simp] theorem State.setSession_wire (s : State) (n : Nat) (t : Session) : (s.setSession n t).wire = s.wire := rfl
@[simp] theorem State.setSession_txHeld (s : State) (n : Nat) (t : Session) : (s.setSession n t).txHeld = s.txHeld := rfl
@[simp] theorem State.setSession_engineSlices (s : State) (n : Nat) (t : Session) : (s.setSession n t).engineSlices = s.engineSlices := rfl
@[simp] theorem State.setSession_engineTurns (s : State) (n : Nat) (t : Session) : (s.setSession n t).engineTurns = s.engineTurns := rfl
@[simp] theorem State.setSession_freedAt (s : State) (n : Nat) (t : Session) : (s.setSession n t).freedAt = s.freedAt := rfl
@[simp] theorem State.setSession_images (s : State) (n : Nat) (t : Session) : (s.setSession n t).images = s.images := rfl
@[simp] theorem State.setSession_versions (s : State) (n : Nat) (t : Session) : (s.setSession n t).versions = s.versions := rfl
@[simp] theorem State.setSession_adapters (s : State) (n : Nat) (t : Session) : (s.setSession n t).adapters = s.adapters := rfl
@[simp] theorem State.setSession_ports (s : State) (n : Nat) (t : Session) : (s.setSession n t).ports = s.ports := rfl
@[simp] theorem State.setSession_resend (s : State) (n : Nat) (t : Session) : (s.setSession n t).resend = s.resend := rfl
@[simp] theorem State.setSession_fabWait (s : State) (n : Nat) (t : Session) : (s.setSession n t).fabWait = s.fabWait := rfl
@[simp] theorem State.setSession_fabOut (s : State) (n : Nat) (t : Session) : (s.setSession n t).fabOut = s.fabOut := rfl
@[simp] theorem State.setSession_fseqTx (s : State) (n : Nat) (t : Session) : (s.setSession n t).fseqTx = s.fseqTx := rfl
@[simp] theorem State.setSession_fseqRx (s : State) (n : Nat) (t : Session) : (s.setSession n t).fseqRx = s.fseqRx := rfl
@[simp] theorem State.setSession_fseqAhead (s : State) (n : Nat) (t : Session) : (s.setSession n t).fseqAhead = s.fseqAhead := rfl
@[simp] theorem State.setSession_ackedRx (s : State) (n : Nat) (t : Session) : (s.setSession n t).ackedRx = s.ackedRx := rfl
@[simp] theorem State.setSession_notices (s : State) (n : Nat) (t : Session) : (s.setSession n t).notices = s.notices := rfl
@[simp] theorem State.setSession_seen (s : State) (n : Nat) (t : Session) : (s.setSession n t).seen = s.seen := rfl
@[simp] theorem State.setSession_sliceRev (s : State) (n : Nat) (t : Session) : (s.setSession n t).sliceRev = s.sliceRev := rfl
@[simp] theorem State.setSession_faults (s : State) (n : Nat) (t : Session) : (s.setSession n t).faults = s.faults := rfl
@[simp] theorem State.setSession_exposures (s : State) (n : Nat) (t : Session) : (s.setSession n t).exposures = s.exposures := rfl
@[simp] theorem State.setSession_dump (s : State) (n : Nat) (t : Session) : (s.setSession n t).dump = s.dump := rfl
@[simp] theorem State.setSession_packs (s : State) (n : Nat) (t : Session) : (s.setSession n t).packs = s.packs := rfl
@[simp] theorem State.setSession_resets (s : State) (n : Nat) (t : Session) : (s.setSession n t).resets = s.resets := rfl
@[simp] theorem State.setSession_security (s : State) (n : Nat) (t : Session) : (s.setSession n t).security = s.security := rfl
@[simp] theorem State.setSession_sync (s : State) (n : Nat) (t : Session) : (s.setSession n t).sync = s.sync := rfl
@[simp] theorem State.setSession_bring (s : State) (n : Nat) (t : Session) : (s.setSession n t).bring = s.bring := rfl
@[simp] theorem State.setSession_snapshot (s : State) (n : Nat) (t : Session) : (s.setSession n t).snapshot = s.snapshot := rfl
@[simp] theorem State.setSession_ecl (s : State) (n : Nat) (t : Session) : (s.setSession n t).ecl = s.ecl := rfl
@[simp] theorem State.setSession_pfc (s : State) (n : Nat) (t : Session) : (s.setSession n t).pfc = s.pfc := rfl
@[simp] theorem State.setSession_esmcAt (s : State) (n : Nat) (t : Session) : (s.setSession n t).esmcAt = s.esmcAt := rfl
@[simp] theorem State.setSession_esmcTx (s : State) (n : Nat) (t : Session) : (s.setSession n t).esmcTx = s.esmcTx := rfl
@[simp] theorem State.setSession_ethOut (s : State) (n : Nat) (t : Session) : (s.setSession n t).ethOut = s.ethOut := rfl
@[simp] theorem State.setSession_oppTarget (s : State) (n : Nat) (t : Session) : (s.setSession n t).oppTarget = s.oppTarget := rfl
@[simp] theorem State.setSession_volt (s : State) (n : Nat) (t : Session) : (s.setSession n t).volt = s.volt := rfl
@[simp] theorem State.setSession_linkReplays (s : State) (n : Nat) (t : Session) : (s.setSession n t).linkReplays = s.linkReplays := rfl
@[simp] theorem State.setSession_linkDowns (s : State) (n : Nat) (t : Session) : (s.setSession n t).linkDowns = s.linkDowns := rfl
@[simp] theorem State.setSession_linkTrainAt (s : State) (n : Nat) (t : Session) : (s.setSession n t).linkTrainAt = s.linkTrainAt := rfl
@[simp] theorem State.setSession_startRegs (s : State) (n : Nat) (t : Session) : (s.setSession n t).startRegs = s.startRegs := rfl
@[simp] theorem State.setSession_peerCeil (s : State) (n : Nat) (t : Session) : (s.setSession n t).peerCeil = s.peerCeil := rfl
@[simp] theorem State.setSession_segReplays (s : State) (n : Nat) (t : Session) : (s.setSession n t).segReplays = s.segReplays := rfl
@[simp] theorem State.setSession_merges (s : State) (n : Nat) (t : Session) : (s.setSession n t).merges = s.merges := rfl
@[simp] theorem State.setSession_tables (s : State) (n : Nat) (t : Session) : (s.setSession n t).tables = s.tables := rfl
@[simp] theorem State.setSession_refHold (s : State) (n : Nat) (t : Session) : (s.setSession n t).refHold = s.refHold := rfl
@[simp] theorem State.setSession_hbPending (s : State) (n : Nat) (t : Session) : (s.setSession n t).hbPending = s.hbPending := rfl
@[simp] theorem State.setSession_fwStopped (s : State) (n : Nat) (t : Session) : (s.setSession n t).fwStopped = s.fwStopped := rfl
@[simp] theorem State.setSession_odRuns (s : State) (n : Nat) (t : Session) : (s.setSession n t).odRuns = s.odRuns := rfl
@[simp] theorem State.setSession_i2c (s : State) (n : Nat) (t : Session) : (s.setSession n t).i2c = s.i2c := rfl
@[simp] theorem State.setSession_answer (s : State) (n : Nat) (t : Session) : (s.setSession n t).answer = s.answer := rfl
@[simp] theorem State.setSession_freeN (s : State) (n : Nat) (t : Session) : (s.setSession n t).freeN = s.freeN := rfl
@[simp] theorem State.setSession_pending (s : State) (n : Nat) (t : Session) : (s.setSession n t).pending = s.pending := rfl
@[simp] theorem State.setSession_reg (s : State) (n : Nat) (t : Session) (q : Obj) : (s.setSession n t).reg q = s.reg q := rfl
@[simp] theorem State.setSession_strand (s : State) (n : Nat) (t : Session) (q : Nat) : (s.setSession n t).strand q = s.strand q := rfl
@[simp] theorem State.setSession_cluster (s : State) (n : Nat) (t : Session) (q : Nat) : (s.setSession n t).cluster q = s.cluster q := rfl
@[simp] theorem State.setSession_array (s : State) (n : Nat) (t : Session) (q : Nat) : (s.setSession n t).array q = s.array q := rfl
@[simp] theorem State.setSession_job (s : State) (n : Nat) (t : Session) (q : Nat) : (s.setSession n t).job q = s.job q := rfl
@[simp] theorem State.setSession_ctx (s : State) (n : Nat) (t : Session) (q : Nat) : (s.setSession n t).ctx q = s.ctx q := rfl
@[simp] theorem State.setSession_jobState (s : State) (n : Nat) (t : Session) (q : Nat) : (s.setSession n t).jobState q = s.jobState q := rfl
@[simp] theorem State.setSession_now (s : State) (n : Nat) (t : Session) : (s.setSession n t).now = s.now := rfl

/-! ## modSession -/

@[simp] theorem State.modSession_regs (s : State) (n : Nat) (f : Session → Session) : (s.modSession n f).regs = s.regs := rfl
@[simp] theorem State.modSession_count (s : State) (n : Nat) (f : Session → Session) : (s.modSession n f).count = s.count := rfl
@[simp] theorem State.modSession_ticks (s : State) (n : Nat) (f : Session → Session) : (s.modSession n f).ticks = s.ticks := rfl
@[simp] theorem State.modSession_strands (s : State) (n : Nat) (f : Session → Session) : (s.modSession n f).strands = s.strands := rfl
@[simp] theorem State.modSession_clusters (s : State) (n : Nat) (f : Session → Session) : (s.modSession n f).clusters = s.clusters := rfl
@[simp] theorem State.modSession_sram (s : State) (n : Nat) (f : Session → Session) : (s.modSession n f).sram = s.sram := rfl
@[simp] theorem State.modSession_sramPoison (s : State) (n : Nat) (f : Session → Session) : (s.modSession n f).sramPoison = s.sramPoison := rfl
@[simp] theorem State.modSession_sramParity (s : State) (n : Nat) (f : Session → Session) : (s.modSession n f).sramParity = s.sramParity := rfl
@[simp] theorem State.modSession_pages (s : State) (n : Nat) (f : Session → Session) : (s.modSession n f).pages = s.pages := rfl
@[simp] theorem State.modSession_arrays (s : State) (n : Nat) (f : Session → Session) : (s.modSession n f).arrays = s.arrays := rfl
@[simp] theorem State.modSession_syncDiscards (s : State) (n : Nat) (f : Session → Session) : (s.modSession n f).syncDiscards = s.syncDiscards := rfl
@[simp] theorem State.modSession_residueEvents (s : State) (n : Nat) (f : Session → Session) : (s.modSession n f).residueEvents = s.residueEvents := rfl
@[simp] theorem State.modSession_excursionEvents (s : State) (n : Nat) (f : Session → Session) : (s.modSession n f).excursionEvents = s.excursionEvents := rfl
@[simp] theorem State.modSession_eqTime (s : State) (n : Nat) (f : Session → Session) : (s.modSession n f).eqTime = s.eqTime := rfl
@[simp] theorem State.modSession_net (s : State) (n : Nat) (f : Session → Session) : (s.modSession n f).net = s.net := rfl
@[simp] theorem State.modSession_mids (s : State) (n : Nat) (f : Session → Session) : (s.modSession n f).mids = s.mids := rfl
@[simp] theorem State.modSession_jobs (s : State) (n : Nat) (f : Session → Session) : (s.modSession n f).jobs = s.jobs := rfl
@[simp] theorem State.modSession_ctxs (s : State) (n : Nat) (f : Session → Session) : (s.modSession n f).ctxs = s.ctxs := rfl
@[simp] theorem State.modSession_prefixes (s : State) (n : Nat) (f : Session → Session) : (s.modSession n f).prefixes = s.prefixes := rfl
@[simp] theorem State.modSession_wire (s : State) (n : Nat) (f : Session → Session) : (s.modSession n f).wire = s.wire := rfl
@[simp] theorem State.modSession_txHeld (s : State) (n : Nat) (f : Session → Session) : (s.modSession n f).txHeld = s.txHeld := rfl
@[simp] theorem State.modSession_engineSlices (s : State) (n : Nat) (f : Session → Session) : (s.modSession n f).engineSlices = s.engineSlices := rfl
@[simp] theorem State.modSession_engineTurns (s : State) (n : Nat) (f : Session → Session) : (s.modSession n f).engineTurns = s.engineTurns := rfl
@[simp] theorem State.modSession_freedAt (s : State) (n : Nat) (f : Session → Session) : (s.modSession n f).freedAt = s.freedAt := rfl
@[simp] theorem State.modSession_images (s : State) (n : Nat) (f : Session → Session) : (s.modSession n f).images = s.images := rfl
@[simp] theorem State.modSession_versions (s : State) (n : Nat) (f : Session → Session) : (s.modSession n f).versions = s.versions := rfl
@[simp] theorem State.modSession_adapters (s : State) (n : Nat) (f : Session → Session) : (s.modSession n f).adapters = s.adapters := rfl
@[simp] theorem State.modSession_ports (s : State) (n : Nat) (f : Session → Session) : (s.modSession n f).ports = s.ports := rfl
@[simp] theorem State.modSession_resend (s : State) (n : Nat) (f : Session → Session) : (s.modSession n f).resend = s.resend := rfl
@[simp] theorem State.modSession_fabWait (s : State) (n : Nat) (f : Session → Session) : (s.modSession n f).fabWait = s.fabWait := rfl
@[simp] theorem State.modSession_fabOut (s : State) (n : Nat) (f : Session → Session) : (s.modSession n f).fabOut = s.fabOut := rfl
@[simp] theorem State.modSession_fseqTx (s : State) (n : Nat) (f : Session → Session) : (s.modSession n f).fseqTx = s.fseqTx := rfl
@[simp] theorem State.modSession_fseqRx (s : State) (n : Nat) (f : Session → Session) : (s.modSession n f).fseqRx = s.fseqRx := rfl
@[simp] theorem State.modSession_fseqAhead (s : State) (n : Nat) (f : Session → Session) : (s.modSession n f).fseqAhead = s.fseqAhead := rfl
@[simp] theorem State.modSession_ackedRx (s : State) (n : Nat) (f : Session → Session) : (s.modSession n f).ackedRx = s.ackedRx := rfl
@[simp] theorem State.modSession_notices (s : State) (n : Nat) (f : Session → Session) : (s.modSession n f).notices = s.notices := rfl
@[simp] theorem State.modSession_seen (s : State) (n : Nat) (f : Session → Session) : (s.modSession n f).seen = s.seen := rfl
@[simp] theorem State.modSession_sliceRev (s : State) (n : Nat) (f : Session → Session) : (s.modSession n f).sliceRev = s.sliceRev := rfl
@[simp] theorem State.modSession_faults (s : State) (n : Nat) (f : Session → Session) : (s.modSession n f).faults = s.faults := rfl
@[simp] theorem State.modSession_exposures (s : State) (n : Nat) (f : Session → Session) : (s.modSession n f).exposures = s.exposures := rfl
@[simp] theorem State.modSession_dump (s : State) (n : Nat) (f : Session → Session) : (s.modSession n f).dump = s.dump := rfl
@[simp] theorem State.modSession_packs (s : State) (n : Nat) (f : Session → Session) : (s.modSession n f).packs = s.packs := rfl
@[simp] theorem State.modSession_resets (s : State) (n : Nat) (f : Session → Session) : (s.modSession n f).resets = s.resets := rfl
@[simp] theorem State.modSession_security (s : State) (n : Nat) (f : Session → Session) : (s.modSession n f).security = s.security := rfl
@[simp] theorem State.modSession_sync (s : State) (n : Nat) (f : Session → Session) : (s.modSession n f).sync = s.sync := rfl
@[simp] theorem State.modSession_bring (s : State) (n : Nat) (f : Session → Session) : (s.modSession n f).bring = s.bring := rfl
@[simp] theorem State.modSession_snapshot (s : State) (n : Nat) (f : Session → Session) : (s.modSession n f).snapshot = s.snapshot := rfl
@[simp] theorem State.modSession_ecl (s : State) (n : Nat) (f : Session → Session) : (s.modSession n f).ecl = s.ecl := rfl
@[simp] theorem State.modSession_pfc (s : State) (n : Nat) (f : Session → Session) : (s.modSession n f).pfc = s.pfc := rfl
@[simp] theorem State.modSession_esmcAt (s : State) (n : Nat) (f : Session → Session) : (s.modSession n f).esmcAt = s.esmcAt := rfl
@[simp] theorem State.modSession_esmcTx (s : State) (n : Nat) (f : Session → Session) : (s.modSession n f).esmcTx = s.esmcTx := rfl
@[simp] theorem State.modSession_ethOut (s : State) (n : Nat) (f : Session → Session) : (s.modSession n f).ethOut = s.ethOut := rfl
@[simp] theorem State.modSession_oppTarget (s : State) (n : Nat) (f : Session → Session) : (s.modSession n f).oppTarget = s.oppTarget := rfl
@[simp] theorem State.modSession_volt (s : State) (n : Nat) (f : Session → Session) : (s.modSession n f).volt = s.volt := rfl
@[simp] theorem State.modSession_linkReplays (s : State) (n : Nat) (f : Session → Session) : (s.modSession n f).linkReplays = s.linkReplays := rfl
@[simp] theorem State.modSession_linkDowns (s : State) (n : Nat) (f : Session → Session) : (s.modSession n f).linkDowns = s.linkDowns := rfl
@[simp] theorem State.modSession_linkTrainAt (s : State) (n : Nat) (f : Session → Session) : (s.modSession n f).linkTrainAt = s.linkTrainAt := rfl
@[simp] theorem State.modSession_startRegs (s : State) (n : Nat) (f : Session → Session) : (s.modSession n f).startRegs = s.startRegs := rfl
@[simp] theorem State.modSession_peerCeil (s : State) (n : Nat) (f : Session → Session) : (s.modSession n f).peerCeil = s.peerCeil := rfl
@[simp] theorem State.modSession_segReplays (s : State) (n : Nat) (f : Session → Session) : (s.modSession n f).segReplays = s.segReplays := rfl
@[simp] theorem State.modSession_merges (s : State) (n : Nat) (f : Session → Session) : (s.modSession n f).merges = s.merges := rfl
@[simp] theorem State.modSession_tables (s : State) (n : Nat) (f : Session → Session) : (s.modSession n f).tables = s.tables := rfl
@[simp] theorem State.modSession_refHold (s : State) (n : Nat) (f : Session → Session) : (s.modSession n f).refHold = s.refHold := rfl
@[simp] theorem State.modSession_hbPending (s : State) (n : Nat) (f : Session → Session) : (s.modSession n f).hbPending = s.hbPending := rfl
@[simp] theorem State.modSession_fwStopped (s : State) (n : Nat) (f : Session → Session) : (s.modSession n f).fwStopped = s.fwStopped := rfl
@[simp] theorem State.modSession_odRuns (s : State) (n : Nat) (f : Session → Session) : (s.modSession n f).odRuns = s.odRuns := rfl
@[simp] theorem State.modSession_i2c (s : State) (n : Nat) (f : Session → Session) : (s.modSession n f).i2c = s.i2c := rfl
@[simp] theorem State.modSession_answer (s : State) (n : Nat) (f : Session → Session) : (s.modSession n f).answer = s.answer := rfl
@[simp] theorem State.modSession_freeN (s : State) (n : Nat) (f : Session → Session) : (s.modSession n f).freeN = s.freeN := rfl
@[simp] theorem State.modSession_pending (s : State) (n : Nat) (f : Session → Session) : (s.modSession n f).pending = s.pending := rfl
@[simp] theorem State.modSession_reg (s : State) (n : Nat) (f : Session → Session) (q : Obj) : (s.modSession n f).reg q = s.reg q := rfl
@[simp] theorem State.modSession_strand (s : State) (n : Nat) (f : Session → Session) (q : Nat) : (s.modSession n f).strand q = s.strand q := rfl
@[simp] theorem State.modSession_cluster (s : State) (n : Nat) (f : Session → Session) (q : Nat) : (s.modSession n f).cluster q = s.cluster q := rfl
@[simp] theorem State.modSession_array (s : State) (n : Nat) (f : Session → Session) (q : Nat) : (s.modSession n f).array q = s.array q := rfl
@[simp] theorem State.modSession_job (s : State) (n : Nat) (f : Session → Session) (q : Nat) : (s.modSession n f).job q = s.job q := rfl
@[simp] theorem State.modSession_ctx (s : State) (n : Nat) (f : Session → Session) (q : Nat) : (s.modSession n f).ctx q = s.ctx q := rfl
@[simp] theorem State.modSession_jobState (s : State) (n : Nat) (f : Session → Session) (q : Nat) : (s.modSession n f).jobState q = s.jobState q := rfl
@[simp] theorem State.modSession_now (s : State) (n : Nat) (f : Session → Session) : (s.modSession n f).now = s.now := rfl

/-! ## answers -/

@[simp] theorem State.answers_regs (s : State) (a : Answer) : (s.answers a).regs = s.regs := rfl
@[simp] theorem State.answers_count (s : State) (a : Answer) : (s.answers a).count = s.count := rfl
@[simp] theorem State.answers_ticks (s : State) (a : Answer) : (s.answers a).ticks = s.ticks := rfl
@[simp] theorem State.answers_strands (s : State) (a : Answer) : (s.answers a).strands = s.strands := rfl
@[simp] theorem State.answers_clusters (s : State) (a : Answer) : (s.answers a).clusters = s.clusters := rfl
@[simp] theorem State.answers_sram (s : State) (a : Answer) : (s.answers a).sram = s.sram := rfl
@[simp] theorem State.answers_sramPoison (s : State) (a : Answer) : (s.answers a).sramPoison = s.sramPoison := rfl
@[simp] theorem State.answers_sramParity (s : State) (a : Answer) : (s.answers a).sramParity = s.sramParity := rfl
@[simp] theorem State.answers_pages (s : State) (a : Answer) : (s.answers a).pages = s.pages := rfl
@[simp] theorem State.answers_arrays (s : State) (a : Answer) : (s.answers a).arrays = s.arrays := rfl
@[simp] theorem State.answers_syncDiscards (s : State) (a : Answer) : (s.answers a).syncDiscards = s.syncDiscards := rfl
@[simp] theorem State.answers_residueEvents (s : State) (a : Answer) : (s.answers a).residueEvents = s.residueEvents := rfl
@[simp] theorem State.answers_excursionEvents (s : State) (a : Answer) : (s.answers a).excursionEvents = s.excursionEvents := rfl
@[simp] theorem State.answers_eqTime (s : State) (a : Answer) : (s.answers a).eqTime = s.eqTime := rfl
@[simp] theorem State.answers_net (s : State) (a : Answer) : (s.answers a).net = s.net := rfl
@[simp] theorem State.answers_mids (s : State) (a : Answer) : (s.answers a).mids = s.mids := rfl
@[simp] theorem State.answers_jobs (s : State) (a : Answer) : (s.answers a).jobs = s.jobs := rfl
@[simp] theorem State.answers_ctxs (s : State) (a : Answer) : (s.answers a).ctxs = s.ctxs := rfl
@[simp] theorem State.answers_prefixes (s : State) (a : Answer) : (s.answers a).prefixes = s.prefixes := rfl
@[simp] theorem State.answers_sessions (s : State) (a : Answer) : (s.answers a).sessions = s.sessions := rfl
@[simp] theorem State.answers_wire (s : State) (a : Answer) : (s.answers a).wire = s.wire := rfl
@[simp] theorem State.answers_txHeld (s : State) (a : Answer) : (s.answers a).txHeld = s.txHeld := rfl
@[simp] theorem State.answers_engineSlices (s : State) (a : Answer) : (s.answers a).engineSlices = s.engineSlices := rfl
@[simp] theorem State.answers_engineTurns (s : State) (a : Answer) : (s.answers a).engineTurns = s.engineTurns := rfl
@[simp] theorem State.answers_freedAt (s : State) (a : Answer) : (s.answers a).freedAt = s.freedAt := rfl
@[simp] theorem State.answers_images (s : State) (a : Answer) : (s.answers a).images = s.images := rfl
@[simp] theorem State.answers_versions (s : State) (a : Answer) : (s.answers a).versions = s.versions := rfl
@[simp] theorem State.answers_adapters (s : State) (a : Answer) : (s.answers a).adapters = s.adapters := rfl
@[simp] theorem State.answers_ports (s : State) (a : Answer) : (s.answers a).ports = s.ports := rfl
@[simp] theorem State.answers_resend (s : State) (a : Answer) : (s.answers a).resend = s.resend := rfl
@[simp] theorem State.answers_fabWait (s : State) (a : Answer) : (s.answers a).fabWait = s.fabWait := rfl
@[simp] theorem State.answers_fabOut (s : State) (a : Answer) : (s.answers a).fabOut = s.fabOut := rfl
@[simp] theorem State.answers_fseqTx (s : State) (a : Answer) : (s.answers a).fseqTx = s.fseqTx := rfl
@[simp] theorem State.answers_fseqRx (s : State) (a : Answer) : (s.answers a).fseqRx = s.fseqRx := rfl
@[simp] theorem State.answers_fseqAhead (s : State) (a : Answer) : (s.answers a).fseqAhead = s.fseqAhead := rfl
@[simp] theorem State.answers_ackedRx (s : State) (a : Answer) : (s.answers a).ackedRx = s.ackedRx := rfl
@[simp] theorem State.answers_notices (s : State) (a : Answer) : (s.answers a).notices = s.notices := rfl
@[simp] theorem State.answers_seen (s : State) (a : Answer) : (s.answers a).seen = s.seen := rfl
@[simp] theorem State.answers_sliceRev (s : State) (a : Answer) : (s.answers a).sliceRev = s.sliceRev := rfl
@[simp] theorem State.answers_faults (s : State) (a : Answer) : (s.answers a).faults = s.faults := rfl
@[simp] theorem State.answers_exposures (s : State) (a : Answer) : (s.answers a).exposures = s.exposures := rfl
@[simp] theorem State.answers_dump (s : State) (a : Answer) : (s.answers a).dump = s.dump := rfl
@[simp] theorem State.answers_packs (s : State) (a : Answer) : (s.answers a).packs = s.packs := rfl
@[simp] theorem State.answers_resets (s : State) (a : Answer) : (s.answers a).resets = s.resets := rfl
@[simp] theorem State.answers_security (s : State) (a : Answer) : (s.answers a).security = s.security := rfl
@[simp] theorem State.answers_sync (s : State) (a : Answer) : (s.answers a).sync = s.sync := rfl
@[simp] theorem State.answers_bring (s : State) (a : Answer) : (s.answers a).bring = s.bring := rfl
@[simp] theorem State.answers_snapshot (s : State) (a : Answer) : (s.answers a).snapshot = s.snapshot := rfl
@[simp] theorem State.answers_ecl (s : State) (a : Answer) : (s.answers a).ecl = s.ecl := rfl
@[simp] theorem State.answers_pfc (s : State) (a : Answer) : (s.answers a).pfc = s.pfc := rfl
@[simp] theorem State.answers_esmcAt (s : State) (a : Answer) : (s.answers a).esmcAt = s.esmcAt := rfl
@[simp] theorem State.answers_esmcTx (s : State) (a : Answer) : (s.answers a).esmcTx = s.esmcTx := rfl
@[simp] theorem State.answers_ethOut (s : State) (a : Answer) : (s.answers a).ethOut = s.ethOut := rfl
@[simp] theorem State.answers_oppTarget (s : State) (a : Answer) : (s.answers a).oppTarget = s.oppTarget := rfl
@[simp] theorem State.answers_volt (s : State) (a : Answer) : (s.answers a).volt = s.volt := rfl
@[simp] theorem State.answers_linkReplays (s : State) (a : Answer) : (s.answers a).linkReplays = s.linkReplays := rfl
@[simp] theorem State.answers_linkDowns (s : State) (a : Answer) : (s.answers a).linkDowns = s.linkDowns := rfl
@[simp] theorem State.answers_linkTrainAt (s : State) (a : Answer) : (s.answers a).linkTrainAt = s.linkTrainAt := rfl
@[simp] theorem State.answers_startRegs (s : State) (a : Answer) : (s.answers a).startRegs = s.startRegs := rfl
@[simp] theorem State.answers_peerCeil (s : State) (a : Answer) : (s.answers a).peerCeil = s.peerCeil := rfl
@[simp] theorem State.answers_segReplays (s : State) (a : Answer) : (s.answers a).segReplays = s.segReplays := rfl
@[simp] theorem State.answers_merges (s : State) (a : Answer) : (s.answers a).merges = s.merges := rfl
@[simp] theorem State.answers_tables (s : State) (a : Answer) : (s.answers a).tables = s.tables := rfl
@[simp] theorem State.answers_refHold (s : State) (a : Answer) : (s.answers a).refHold = s.refHold := rfl
@[simp] theorem State.answers_hbPending (s : State) (a : Answer) : (s.answers a).hbPending = s.hbPending := rfl
@[simp] theorem State.answers_fwStopped (s : State) (a : Answer) : (s.answers a).fwStopped = s.fwStopped := rfl
@[simp] theorem State.answers_odRuns (s : State) (a : Answer) : (s.answers a).odRuns = s.odRuns := rfl
@[simp] theorem State.answers_i2c (s : State) (a : Answer) : (s.answers a).i2c = s.i2c := rfl
@[simp] theorem State.answers_freeN (s : State) (a : Answer) : (s.answers a).freeN = s.freeN := rfl
@[simp] theorem State.answers_pending (s : State) (a : Answer) : (s.answers a).pending = s.pending := rfl
@[simp] theorem State.answers_reg (s : State) (a : Answer) (q : Obj) : (s.answers a).reg q = s.reg q := rfl
@[simp] theorem State.answers_strand (s : State) (a : Answer) (q : Nat) : (s.answers a).strand q = s.strand q := rfl
@[simp] theorem State.answers_cluster (s : State) (a : Answer) (q : Nat) : (s.answers a).cluster q = s.cluster q := rfl
@[simp] theorem State.answers_array (s : State) (a : Answer) (q : Nat) : (s.answers a).array q = s.array q := rfl
@[simp] theorem State.answers_job (s : State) (a : Answer) (q : Nat) : (s.answers a).job q = s.job q := rfl
@[simp] theorem State.answers_ctx (s : State) (a : Answer) (q : Nat) : (s.answers a).ctx q = s.ctx q := rfl
@[simp] theorem State.answers_session (s : State) (a : Answer) (q : Nat) : (s.answers a).session q = s.session q := rfl
@[simp] theorem State.answers_jobState (s : State) (a : Answer) (q : Nat) : (s.answers a).jobState q = s.jobState q := rfl
@[simp] theorem State.answers_now (s : State) (a : Answer) : (s.answers a).now = s.now := rfl

end Sys2Proof.Machine
end

