-- ==== Sys2Proof/Machine/Sampling.lean ====
section
/-!
DEFINITION. On-device sampling (R109 to R111, R252 to R254): what the program of the output cluster computes for each token.
No command of the table samples; the token that the program chooses reaches HB in its STREAM message (log entry 96).
-/
namespace Sys2Proof.Machine

/-- The mixer of R110, modulo 2^64. -/
def mix64 (z : BitVec 64) : BitVec 64 :=
  let z := (z ^^^ (z >>> 30)) * 0xBF58476D1CE4E5B9
  let z := (z ^^^ (z >>> 27)) * 0x94D049BB133111EB
  z ^^^ (z >>> 31)

/-- The draw of token `t` under seed `s`, in units of 2^-24 (R110). -/
def drawBits (s : BitVec 64) (t : Nat) : Nat :=
  (mix64 (s + BitVec.ofNat 64 (t + 1) * 0x9E3779B97F4A7C15) >>> 40).toNat

/-- The draw as an FP32 value: 24 bits are exact. -/
def draw (s : BitVec 64) (t : Nat) : Word := (FV.ofInt (drawBits s t) (-24)).to32

def fp32Add (a b : Word) : Word := ((ofFp32 a).add (ofFp32 b)).to32
def fp32Mul (a b : Word) : Word := ((ofFp32 a).mul (ofFp32 b)).to32

/-- A logit as the order of candidates takes it: a NaN counts as −inf (R252). -/
def logitValue (w : Word) : FV :=
  match ofFp32 w with
  | .nan => .inf true
  | v => v

/-- A candidate: token identifier and logit. -/
abbrev Cand := Nat × Word

/-- Descending logit, then ascending token identifier (R252). -/
def Cand.before (a b : Cand) : Bool :=
  (logitValue b.2).lt (logitValue a.2) || (!(logitValue a.2).lt (logitValue b.2) && a.1 < b.1)

def Cand.insert (a : Cand) : List Cand → List Cand
  | [] => [a]
  | b :: l => if a.before b then a :: b :: l else b :: Cand.insert a l

def candSort : List Cand → List Cand
  | [] => []
  | a :: l => Cand.insert a (candSort l)

/-- The k first candidates of a list (R252): local lists taken and merged so give the global top k. -/
def candTop (k : Nat) (l : List Cand) : List Cand := (candSort l).take k

/-- e^(x − m) in 2^-64 for finite x and m, x ≤ m. -/
def expBelow (x m : FV) : Nat × Nat :=
  match x.add m.neg with
  | .fin neg k e => exp2Of (exactLog2e (fixed64 neg k e))
  | _ => (0, 1)

/-- The softmax of a row (R109): a NaN makes the row NaN, −inf contributes +0, a row of −inf gives +0. Every other value is
e^(x − m) ÷ S with a relative error that is free within the rule's bound (log entry 96); where the largest value is +inf, x − m is NaN
and so is the row. -/
def softmaxRow (z : List Word) : List Word :=
  let vs := z.map ofFp32
  let m := vs.foldl FV.max (.inf true)
  if vs.any FV.isNan || m == .inf false then z.map fun _ => FV.nan.to32
  else if m == .inf true then z.map fun _ => 0
  else
    let ps := vs.map fun v => if v == .inf true then (0, 1) else expBelow v m
    let ns := ps.map fun p => p.1 * 2 ^ 256 / p.2
    let total := ns.foldl (· + ·) 0
    (List.range z.length).map fun i =>
      if vs.getD i .nan == .inf true then 0
      else (fracValue false (withError false (ns.getD i 0, total) 21 false (errorPart (Config.softmaxError z i)))).to32

/-- The shortest run of candidates whose probabilities reach TOP_P, and their sum in candidate order (R253). -/
def nucleus (topP : Word) : List Word → Word → Nat → Nat × Word
  | [], acc, n => (n, acc)
  | p :: l, acc, n =>
    let acc := fp32Add acc p
    if (ofFp32 acc).lt (ofFp32 topP) then nucleus topP l acc (n + 1) else (n + 1, acc)

/-- The first candidate whose running sum exceeds `u`; the last one otherwise (R253). -/
def pickRun (u : Word) : List (Nat × Word) → Word → Nat → Nat
  | [], _, last => last
  | (tok, p) :: l, run, _ =>
    let run := fp32Add run p
    if (ofFp32 u).lt (ofFp32 run) then tok else pickRun u l run tok

/-- The token that candidates `c` with probabilities `p` give for the draw `d` (R253). -/
def pickToken (c : List Nat) (p : List Word) (topP d : Word) : Nat :=
  let (n, acc) := nucleus topP p 0 0
  pickRun (fp32Mul d acc) ((c.zip p).take n) 0 0

/-- Token `t` of a request (R253), from its logits: none where every logit is −inf, which ends the request with POISONED (R252;
a poisoned logit does so before). TEMP and TOP_P are FP16. -/
def sampleToken (logits : List Word) (temp topP : Nat) (topK : Nat) (seed : BitVec 64) (t : Nat) : Option Nat :=
  let all : List Cand := (List.range logits.length).zip logits
  if logits.all fun w => logitValue w = .inf true then none
  else
    let temp := (FFmt.fp16.decode temp).to32
    if (ofFp32 temp).isZero then (candTop 1 all).head?.map (·.1)
    else
      let c := candTop (Nat.min topK logits.length) all
      let r := BitVec.ofNat 32 (Fn.rcp.eval true FFmt.fp32 temp.toNat)
      let p := softmaxRow (c.map fun x => fp32Mul (logitValue x.2).to32 r)
      some (pickToken (c.map (·.1)) p (FFmt.fp16.decode topP).to32 (draw seed t))

/-- The end that token `k` (index `i`) brings (R254): 1 STOP_TOKEN, 2 STOP_SEQUENCE, 3 MAX_TOKENS, 4 DEADLINE, none to go on.
`gen` are the tokens generated, the newest first and k among them; `next` is the deadline of the token after it. -/
def endReason (gen : List Nat) (stopIds : List Nat) (stopSeqs : List (List Nat)) (i maxTokens next endLimit : Nat) : Option Nat :=
  if gen.head?.any fun k => stopIds.contains k then some 1
  else if stopSeqs.any fun q => q ≠ [] && q.reverse.isPrefixOf gen then some 2
  else if i + 1 = maxTokens then some 3
  else if endLimit < next then some 4
  else none

end Sys2Proof.Machine
end

