-- ==== Sys2Proof/Tests/Slice0.lean ====
section
/-!
SUPPORT. Tests: ill-formed terms that WellFormed refuses, words written out from the spec's encodings, single steps worked out by
hand, and a state that meets the hypotheses of each statement.
-/
namespace Sys2Proof.Tests
open Sys2Proof Sys2Proof.Machine
set_option Elab.async false

/-! ## States for the tests -/

/-- A state with the objects given. -/
def put (s : State) (l : List (Obj × Nat)) : State := l.foldl (fun s e => s.setReg e.1 e.2) s

/-- What an operation answers, as a Bool of its next state. -/
def answersWith (o : Out) (f : State → Bool) : Bool :=
  match o with
  | .next t => f t
  | _ => false

def refuses (o : Out) : Bool :=
  match o with
  | .refused .illegalEncoding => true
  | _ => false

def ph : Phys := ⟨.clean, [], [], 0, 0, 0, 0⟩
def c5 : ClusterId := ⟨0, 5⟩
/-- Strand 0 of CD0.K5, and strand 1. -/
def iss : Issue := ⟨⟨c5, 0⟩, ph⟩
def iss1 : Issue := ⟨⟨c5, 1⟩, ph⟩
def x5 : ArrayId := ⟨c5, 5⟩

/-- Strand 0 of CD0.K5 runs job 3 at count 1000, with pages 0 and 639 its own and slot 5 with all four buffers. -/
def strand10 : Strand := { Strand.new with
  slots := [(5, ⟨false, false, 15, 4, 256, 6, 6, false, noBlock⟩)], points := [(7, 40), (8, 5000)], gaps := [(2, 60)],
  chans := [(4, ⟨0, 0, 63⟩)] }
def run : State :=
  put { State.reset with
    count := 1000
    jobs := [(3, { Job.new with ranks := [⟨0, 5⟩, ⟨0, 6⟩] })]
    strands := [(10, strand10)]
    pages := [(5120, ⟨true, 0, 0⟩), (5759, ⟨true, 0, 0⟩)] }
  [(Od.JOB_STATE 3, JS.ENABLED), (csObj 5, CS.READY), (ssObj 10, SS.RUNNING), (sjObj 10, 3), (syObj 5 9 1, 1), (syObj 5 9 2, 0)]
/-- The same with strand 1 instead, of a TRAIN job. -/
def run1 : State :=
  put { State.reset with
    count := 1000
    jobs := [(3, { Job.new with ranks := [⟨0, 5⟩], train := true })]
    strands := [(11, { strand10 with rank := 1 })] }
  [(Od.JOB_STATE 3, JS.ENABLED), (csObj 5, CS.READY), (ssObj 11, SS.RUNNING), (sjObj 11, 3)]

/-- An open operator session 0 at boot step 6. -/
def opSession : Session := { Session.new with isOpen := true, txSeq := 1, credit := 64, hostCredit := 64, rxNext := 1 }
def op : State := put { State.reset with count := 100000, sessions := [(0, opSession)] } [(Od.BOOT_STAGE, 6)]

theorem wit_ready : Ready iss run ∧ Ready iss1 run1 := by decide
theorem wit_writes : Writes op 0 (op.isOp 0) := by decide

/-! ## Well-formedness: one ill-formed term for each check of R145 -/

theorem wf_formats : (Instr.vadd iss ⟨1, 2, 3, 0, .int8 false⟩).wf = false ∧ (Instr.vand iss ⟨1, 2, 3, 0, .fp32⟩).wf = false ∧
    (Instr.vexp iss ⟨1, 2, 0, 0, .int32⟩).wf = false ∧ (Instr.vrsum iss ⟨1, 2, 0, 0, .bf16 true⟩).wf = false ∧
    (Instr.vcmplt iss ⟨1, 2, 3, 0, .fp16 false⟩).wf = false := by decide
theorem wf_unary_vb : (Instr.vabs iss ⟨1, 2, 3, 0, .fp32⟩).wf = false ∧ (Instr.vexp iss ⟨1, 2, 3, 0, .fp32⟩).wf = false := by decide
theorem wf_vcmp_register : (Instr.vcmplt iss ⟨8, 2, 3, 0, .fp32⟩).wf = false ∧ (Instr.vcmplt iss ⟨7, 2, 3, 0, .fp32⟩).wf = true := by
  decide
theorem wf_sysr : (Instr.sysr iss 4 6).wf = false ∧ (Instr.sysr iss 4 32).wf = false ∧ (Instr.sysr iss 4 5).wf = true ∧
    (Instr.sysr iss 4 31).wf = true := by decide
theorem wf_qa : (Instr.qa iss 1 2 3 .sram .block false true 0).wf = false := by decide
theorem wf_arr : (Instr.mvm iss ⟨5, 0, 0, 0, false, false, true, 3, 0⟩).wf = false ∧
    (Instr.mvm iss ⟨5, 0, 0, 0, false, false, false, 3, 0⟩).wf = false ∧
    (Instr.mvm iss1 ⟨5, 0, 0, 0, false, true, false, 0, 0⟩).wf = false ∧
    (Instr.seq0 iss ⟨5, 0, 1, 0, false, false, false, 0, 0⟩).wf = false ∧
    (Instr.seq6 iss ⟨5, 1, 0, 0, false, false, false, 0, 0⟩).wf = false ∧
    (Instr.seq0 iss ⟨5, 1, 0, 31, false, false, false, 0, 0⟩).wf = true := by decide
theorem wf_objects : (Instr.swait iss 48 4).wf = false ∧ (Instr.swait iss 47 4).wf = true ∧ (Instr.dma iss 1 2 3 62).wf = false ∧
    (Instr.dma iss 1 2 3 63).wf = true ∧ (Instr.rrecv iss 1 2 0 50).wf = false := by decide
theorem wf_rsend : (Instr.rsend iss 1 2 3 2 true 0 0).wf = false ∧ (Instr.rsend iss 1 2 3 0 true 0 0).wf = true := by decide
theorem wf_strands : (Instr.batch iss1 0).wf = false ∧ (Instr.step iss).wf = false ∧ (Instr.step iss1).wf = true := by decide

/-! ## Words written out from the encoding tables -/

/-- The example words of the spec and one of each format, from Table IS-3 and Tables IS-5, IS-7 and IS-8. -/
theorem decode_scalar : decodeWord iss 0 0x04853000 = some (.add iss 4 5 6) ∧ decodeWord iss 0 0x08A4FFFF = some (.addi iss 5 4 0xFFFF) ∧
    decodeWord iss 0 0x1C850047 = some (.shiSra iss 4 5 7) ∧ decodeWord iss 0 0x40850003 = some (.beq iss 4 5 3) ∧
    decodeWord iss 0 0x5BFFFFFE = some (.jal iss 0x3FFFFFE) ∧ decodeWord iss 0 0x2485000C = some (.lds iss 4 5 12) := by decide
theorem decode_vector : decodeWord iss 0 0x80221BC3 = none ∧ decodeWord iss 0 0x80221BB3 = some (.vfma iss ⟨1, 2, 3, 3, .int32⟩) ∧
    decodeWord iss 0 0x80221B03 = some (.vfma iss ⟨1, 2, 3, 3, .fp32⟩) ∧
    decodeWord iss 0 0x98221005 = some (.vld iss 1 2 2 5) := by decide
theorem decode_other : decodeWord iss 7 0xC0221808 = some (.qa iss 1 2 3 .sram .block true false 7) ∧
    decodeWord iss 7 0xC0221804 = none ∧ decodeWord iss 0 0xD88518A0 = some (.dma iss 4 5 3 5) := by decide
theorem decode_array : decodeWord iss 0 0xD0A3FE00 = some (.mvm iss ⟨5, 1, 1, 31, true, true, false, 0, 0⟩) ∧
    decodeWord iss 0 0xE8522000 = some (.swait iss 5 4) ∧ decodeWord iss 0 0xF0400007 = some (.dln iss 7) ∧
    decodeWord iss 0 0xF8040000 = some (.pslot iss 2) := by decide
theorem decode_reserved : decodeWord iss 0 0xFFFFFFFF = none ∧ decodeWord iss 0 1 = none ∧ decodeWord iss 0 0x2C810000 = none := by decide

/-! ## What a few instructions do, by hand -/

/-- FFFFFFFFh + 1 = 0 in s4. -/
theorem test_add_wraps :
    answersWith (exec (.addi iss 4 5 1) { run with strands := [(10, strand10.setS 5 ⟨0xFFFFFFFF, false⟩)] })
      (fun t => (t.strand 10).s 4 == ⟨0, false⟩ && (t.strand 10).pc == 1) = true := by decide
/-- ADDI sign-extends, ORI does not. -/
theorem test_immediates :
    answersWith (exec (.addi iss 4 0 0xFFFF) run) (fun t => ((t.strand 10).s 4).val == 0xFFFFFFFF) = true ∧
    answersWith (exec (.ori iss 4 0 0xFFFF) run) (fun t => ((t.strand 10).s 4).val == 0xFFFF) = true := by decide
/-- SRA shifts by sRB[4:0]. -/
theorem test_sra :
    answersWith (exec (.sra iss 4 5 6) { run with strands := [(10, (strand10.setS 5 ⟨0x80000000, false⟩).setS 6 ⟨33, true⟩)] })
      (fun t => (t.strand 10).s 4 == ⟨0xC0000000, true⟩) = true := by decide
/-- A write of s0 is discarded. -/
theorem test_s0 : answersWith (exec (.lui iss 0 5) run) (fun t => ((t.strand 10).s 0).val == 0) = true := by decide
theorem test_jal : answersWith (exec (.jal iss 9) run)
    (fun t => (t.strand 10).pc == 9 && ((t.strand 10).s 31).val == 1) = true := by decide
/-- STS then the four bytes of the word, least significant first. -/
theorem test_sts :
    answersWith (exec (.sts iss 4 0 8) { run with strands := [(10, strand10.setS 4 ⟨0x11223344, false⟩)] })
      (fun t => Mem.read t.sram (sramAt 5 8) == 0x44 && Mem.read t.sram (sramAt 5 11) == 0x11) = true := by decide
theorem test_dln : answersWith (exec (.dln iss 7) run) (fun t => (t.strand 10).deadline == some 40) = true := by decide
theorem test_refused : refuses (exec (.step iss) run) = true ∧ refuses (exec (.sysr iss 4 6) run) = true := by decide

/-! ## Witnesses: the cluster instructions -/

theorem allows_iff (s : State) (u a n : Nat) (h : ∀ j, j < n → s.mayAccess u (a + j) = true) : s.allows u a n := by
  intro x h1 h2
  have e := h (x - a) (by omega)
  rwa [show a + (x - a) = x by omega] at e
theorem sound_clean {s : State} (i : Issue) (a n : Nat) (h : i.ph.parity = []) (g : s.sramParity = []) : s.sound i a n := by
  refine ⟨h, fun x o _ _ _ => ?_⟩
  rw [g]; rfl

theorem wit_sysr : Ready iss run ∧ run.sysValue iss.u 5 = some 0 ∧ run.sysValue iss.u 16 = some 0 ∧ run.sysValue iss.u 31 = some 0 := by
  decide
theorem wit_branches : Ready iss run ∧ target 0 0 = some 0 ∧ target 0 8191 = some 8191 ∧ target 0 8192 = none ∧ target 0 (-1) = none ∧
    ((run.strand 10).s 4).poison = false ∧ ((run.strand 10).p 1).poison = 0 := by decide
theorem wit_loads_first : Ready iss run ∧ ((run.strand 10).s 0).poison = false ∧ run.mayAccess 10 0 = true ∧
    run.bufferWait 10 0 false = none ∧ run.bufferWait 10 0 true = none ∧ run.sound iss 0 1 :=
  ⟨by decide, by decide, by decide, by decide, by decide, sound_clean _ _ _ rfl rfl⟩
theorem wit_loads_last : run.mayAccess 10 0x27FFFC = true ∧ run.mayAccess 10 0x280000 = false ∧ run.mayAccess 10 4096 = false ∧
    run.mayAccess 10 0x414000 = true ∧ run.bufferWait 10 4096 false = none ∧ run.bufferWait 10 0x280000 true = none := by decide
theorem wit_stored_bytes : SramCanonical run ∧ locate 0 = .sram 0 ∧ locate 0x27FFFC = .sram 0x27FFFC ∧ locate 0x400000 = .buf 0 2 0 ∧
    locate 0x47FFFC = .none ∧ locate 0x47F41C = .buf 31 1 1052 := by decide
theorem wit_stored_run : SramCanonical run ∧ 0x27FFF8 % 4 = 0 ∧ 0x27FFF8 + 4 * ([PWord.zero, PWord.zero] : List PWord).length ≤ 0x280000 ∧
    run.allows 10 0x27FFF8 8 := ⟨by decide, by decide, by decide, allows_iff _ _ _ _ (by decide)⟩
theorem wit_vector : Ready iss run ∧ iss.ph.residue = [] ∧ (VFmt.fp32.is8 = false ∧ (VFmt.bf16 true).is16 = true ∧ VFmt.int32.is8 = false) := by
  decide
theorem wit_vabs : ∀ l, l < 256 → (lane ((run.strand 10).v 2) l).val ≠ 0x80000000 := by
  intro l hl
  have e : (run.strand 10).v 2 = VReg.zero := rfl
  rw [e]
  simp [lane, VReg.zero, Vector.getD, hl, PWord.zero]
theorem wit_no_active_lane : ((List.range 256).filter fun l => ((run.strand 10).p 1).bit l) = [] := by decide
theorem page0_open (a : Nat) (h : a < 4096) : run.mayAccess 10 a = true := by
  have e : locate a = .sram a := by simp [locate, show a < 0x280000 by omega]
  have z : a / 4096 = 0 := by omega
  simp only [State.mayAccess, e, z]
  decide
theorem wit_vector_store : Ready iss run ∧ run.allows 10 0 1024 ∧ run.rangeWait 10 0 1024 false = none ∧
    run.rangeWait 10 0 1024 true = none ∧ run.sound iss 0 1024 :=
  ⟨by decide, allows_iff _ _ _ _ fun j h => page0_open _ (by omega), by decide, by decide, sound_clean _ _ _ rfl rfl⟩
theorem wit_quantise : Ready iss run ∧ SramCanonical run ∧ (QParam.of 0).nblk = 1 ∧ 0 + 36 ≤ 0x27FFFC ∧ spanOf 0 36 = (0, 36) ∧
    run.allows 10 0 36 := ⟨by decide, by decide, by decide, by decide, by decide, allows_iff _ _ _ _ (by decide)⟩
/-- Coded blocks have the lengths of Tables NF-6 and NF-3. -/
theorem wit_quantise_lengths : (kvBytes 15 (List.replicate 32 0, 0, 0, 0)).length = 20 ∧
    (kvBytes 255 (List.replicate 32 0, 0, 0, 0)).length = 36 := by decide
theorem wit_exchange : (spanOf 0 33).1 = 0 ∧ (spanOf 0 33).2 = 36 ∧ run.sound iss 0 36 ∧ run.allows 10 0 36 :=
  ⟨by decide, by decide, sound_clean _ _ _ rfl rfl, allows_iff _ _ _ _ (by decide)⟩
/-- A zero block of width 4 is not degenerate. -/
theorem wit_activations : (quantBlock false 4 0 (List.replicate 32 (FV.fin false 0 0))).degen = false ∧ (run.strand 10).owns 5 1 = true ∧
    (run.array (run.slotArray 10 5)).inputPending 1 = false := by decide
/-- Slot 5 holds a command on its way, so that the ceiling has counted it. -/
def busyArr : State := run.modArray 175 fun a => { a with cmds := [⟨10, 0, 0, 0, 31, false, false, 8002⟩] }
theorem wit_array_commands : Ready iss busyArr ∧ arrLegal 0 0 ⟨5, 1, 1, 31, true, true, false, 0, 0⟩ = true ∧
    arrLegal 3 0 ⟨5, 0, 0, 0, false, false, false, 0, 0⟩ = true ∧ (busyArr.strand 10).hasSlot 5 = true ∧
    (busyArr.strand 10).owns 5 1 = true ∧ (busyArr.strand 10).owns 5 3 = true ∧
    (busyArr.array (busyArr.slotArray 10 5)).queued 0 < 4 ∧ busyArr.readerPending 10 5 1 = false ∧
    busyArr.arrBusy (busyArr.slotArray 10 5) (busyArr.clock 0) = true := by decide
def fullDma : State := run.modCluster 5 fun k => { k with dma0 := List.replicate 8 ⟨0, 0, 0, 4, 63⟩ }
theorem wit_dma : Ready iss run ∧ run.buffersWait 10 0 2621440 false = [] ∧ (run.dmaQueue 10).length = 0 ∧
    (Ready iss fullDma ∧ 8 ≤ (fullDma.dmaQueue 10).length ∧ fullDma.strandState 10 ≠ SS.DEBUG ∧ (fullDma.strand 10).stall = none) ∧
    (Store.get? (run.strand 10).chans 4).isSome = true ∧ run.owned 5 9 0 = true := by decide
theorem wit_rsend : run.sound iss 0 4 ∧ run.allows 10 0 4 ∧ run.buffersWait 10 0 65536 false = [] ∧
    ((run.circuit iss).sendMsg 10 0 4 false 0 0 0 [PWord.zero]).isSome = true ∧
    ((run.circuit iss).sendMsg 10 0x60000000 4 false 0 0 0 [PWord.zero]).isNone = true :=
  ⟨sound_clean _ _ _ rfl rfl, allows_iff _ _ _ _ (by decide), by decide, by decide, by decide⟩
def withNode : State := run.modCluster 5 fun k => { k with nodes := [(9, ⟨3, 0, none, [], false⟩)] }
theorem wit_sync : run.owned 5 9 0 = true ∧ (run.strand 10).stall = none ∧ 1 < (run.job 3).ranks.length ∧
    Ready iss withNode ∧ withNode.node 5 9 = some ⟨3, 0, none, [], false⟩ ∧ withNode.owned 5 9 0 = true := by decide
def waitSync : State := run.modStrand 10 fun t => { t with stall := some (.sync 9 true 7 false) }
theorem wit_sync_update : (waitSync.strand 10).stall = some (.sync 9 true 7 false) ∧ clOf 10 = 5 ∧ clOf 12 ≠ 5 := by decide
theorem wit_time : Store.get? (run.strand 10).points 7 = some 40 ∧ (run.strand 10).base + 40 ≤ run.jobTime 10 ∧
    Store.get? (run.strand 10).points 8 = some 5000 ∧ run.jobTime 10 < (run.strand 10).base + 5000 ∧
    Store.get? (run.strand 10).gaps 2 = some 60 := by decide
theorem wit_step : Ready iss1 run1 ∧ iss1.u.st = 1 ∧ (run1.strand 11).freezeReq = false ∧ (run1.strand 11).rank ≠ 0 := by decide
theorem wit_privileged : 33 / 32 % 64 < 34 ∧ 34 ≤ 1088 / 32 % 64 ∧ Store.wf run.pages = true ∧ (run.page 5 0).valid = true ∧
    (run.page 5 0).strand = stOf 10 := by decide
def poisoned : State := run.modStrand 10 fun t => t.setS 4 ⟨0, true⟩
theorem wit_poisoned : Ready iss poisoned ∧ ((poisoned.strand 10).s 4).poison = true ∧ poisoned.jobState (poisoned.strandJob 10) = JS.ENABLED ∧
    poisoned.owned 5 9 0 = true := by decide
theorem wit_fetch : run.mayIssue (⟨⟨c5, 0⟩, { ph with fetch := .failed }⟩ : Issue).u.num = true ∧ State.reset.mayIssue 10 = false := by decide

/-! ## Witnesses: arrays and sequencers -/

def cmd10 : ArrCmd := ⟨10, 0, 0, 0, 31, false, false, 8002⟩
def rd10 : ArrRun := ⟨cmd10, false, 8002, [], 0, false, false, false, 2, 0, 1000, [], none, [], []⟩
theorem wit_queue_entry : ((busyArr.array 175).cmds.find? fun c => decide (c.clock ≤ busyArr.clock 7)) = some cmd10 := by decide
def queued : State := run.modArray 175 fun a => { a with q0 := [cmd10] }
theorem wit_command_start : (queued.array 175).q0 = [cmd10] ∧ cmd10.clock ≤ queued.clock 7 ∧ (queued.array 175).free0 ≤ queued.clock 7 ∧
    ((queued.array 175).runs.any fun r => stOf r.cmd.strand == 0 && decide (r.next < r.phases)) = false := by decide
def reading : State := run.modArray 175 fun a => { a with runs := [rd10] }
theorem wit_phase_start : (reading.array 175).phaseEnd ≤ reading.clock 0 ∧
    ((reading.array 175).runs.find? fun r => stOf r.cmd.strand == 0 && decide (r.next < r.phases)) = some rd10 := by decide
def readDone : State := run.modArray 175 fun a => { a with runs := [{ rd10 with next := 2 }] }
theorem wit_result : ((readDone.array 175).runs.find? fun r => decide (r.phases ≤ r.next ∧ r.visible ≤ readDone.now)) =
    some { rd10 with next := 2 } := by decide
def programming : State :=
  put ((run.modArray 175 fun a => { a with progRow := some 1022 }).modCluster 5 fun k => { k with rowBufs := [[3]] })
    [(asObj 5 5, AS.PROGRAMMING), (Od.CEILING_NOW 0, 100)]
theorem wit_program_row : (programming.array 175).progRow = some 1022 ∧ programming.arrState 175 = AS.PROGRAMMING ∧
    programming.roomForRow 175 (programming.clock 0) = true ∧ programming.rowsRun = true ∧
    (programming.rowLevels 175 1022).isSome = true ∧ (programming.array 175).progBlock = none := by decide
def replaying : State := run.modStrand 10 fun t => { t with replay := some ⟨0, [4], false, false, 0, [5], 6, 0⟩ }
theorem wit_replay : (replaying.strand 10).replay = some ⟨0, [4], false, false, 0, [5], 6, 0⟩ := by decide

def seqRun (e : BitVec 64) (st : Nat) : State :=
  put (op.modArray 175 fun a => { a with seq := [(0, e), (31, e)] }) [(arObj 0x27 1 175, st)]
theorem wit_sequencer_idle : Writes (seqRun 0 0) 0 ((seqRun 0 0).isOp 0) ∧ (seqRun 0 0).sealedArray 175 = false ∧
    (seqRun 0 0).seqRefused 175 = false ∧ seqOp ((seqRun 0 0).seqEntry 175 31) < 7 ∧ (seqRun 0 0).seqState 175 = 0 := by decide
theorem wit_sequencer_busy : (seqRun 0 1).seqRefused 175 = true ∧ (seqRun 0 2).seqState 175 = 2 ∧ (seqRun 0 2).seqFree 175 = true ∧
    seqOp ((seqRun 0 2).seqEntry 175 ((seqRun 0 2).ar 0x27 2 175)) < 7 := by decide
theorem wit_repetitions : (seqRun 0 1).seqState 175 = 1 ∧ (seqRun 0 1).draining = false ∧ ((seqRun 0 1).array 175).seqFound = 0 ∧
    ((List.range 7).all fun n => seqOp ((seqRun (BitVec.ofNat 64 n) 1).seqEntry 175 0) == n) = true ∧
    seqRepeat 0x200 = 256 ∧ seqRepeat 0x200000000000 = 1 ∧ seqLast 0x200 = true ∧ seqLast 0 = false ∧
    (seqRun 5 1).arrState 175 = AS.FREE ∧ (put (seqRun 5 1) [(asObj 5 5, AS.ACTIVE)]).arrState 175 = AS.ACTIVE := by decide
theorem wit_window : ({ op with count := 65536 } : State).now % 0x10000 = 0 ∧ op.now % 0x10000 ≠ 0 ∧
    (List.range 8).foldl (fun t b => t + Store.get 0 (op.array 175).bins b) 0 < 16384 := by decide

/-! ## Witnesses: jobs, the die network, time -/

def loaded : State := put (run.modJob 3 fun k => { k with startTick := some 1000 }) [(ssObj 10, SS.LOADED)]
theorem in_range {s : State} {j : Nat} (h : (s.jobStrands j).all (fun u => decide (u < 3072)) = true) : ∀ u, u ∈ s.jobStrands j → u < 3072 := by
  intro u hu
  simpa using List.all_eq_true.mp h u hu
theorem wit_job_start : (∀ u, u ∈ loaded.jobStrands 3 → u < 3072) ∧ (loaded.job 3).startTick = some 1000 ∧ 1000 ≤ loaded.now ∧
    10 ∈ loaded.jobStrands 3 ∧ loaded.reg (ssObj 10) = SS.LOADED := ⟨in_range (by decide), by decide⟩
theorem wit_job_start_early : ((loaded.modJob 3 fun k => { k with startTick := some 1001 }).job 3).startTick = some 1001 ∧ loaded.now < 1001 := by
  decide
def holding : State := run.modJob 3 fun k => { k with reqs := [⟨some 10, 1, some 6, 998, none, false⟩] }
theorem wit_hold_start : (holding.job 3).reqs = [⟨some 10, 1, some 6, 998, none, false⟩] ∧ (holding.job 3).holdStart = none ∧
    holding.jobState 3 = JS.ENABLED ∧ holding.strandState 10 = SS.RUNNING := by decide
def held (t : BitVec 64) : State := put ({ holding.modJob 3 fun k => { k with holdStart := some 998 } with count := t }) [(ssObj 10, SS.HELD)]
theorem wit_hold_end : ((held 1004).job 3).holdStart = some 998 ∧ holdEnd ((held 1004).job 3).reqs = some 1004 ∧ 1004 ≤ (held 1004).now ∧
    (held 1003).now < 1004 ∧ (held 1004).strandState 10 = SS.HELD := by decide
theorem wit_strand_clear : (put run [(ssObj 10, SS.RELEASING)]).reg (ssObj 10) = SS.RELEASING ∧ Store.wf run.pages = true := by decide

def dmaRun : State := run.modCluster 5 fun k => { k with dma0 := [⟨0, 0, 1024, 64, 9⟩] }
theorem wit_dma_complete : dmaRun.dmaQueue 10 = [⟨0, 0, 1024, 64, 9⟩] ∧ SramCanonical dmaRun ∧ dmaRun.allows 10 0 64 ∧
    dmaRun.allows 10 1024 64 ∧ (spanOf 0 64 = (0, 64) ∧ spanOf 1024 64 = (1024, 64)) ∧ dmaRun.owned 5 9 (stOf 10) = true :=
  ⟨by decide, by decide, allows_iff _ _ _ _ (by decide), allows_iff _ _ _ _ (by decide), by decide, by decide⟩
def data : NetMsg := ⟨0, 0, 12, 10, 0, 4, 0, 0, 0, 3, 0, 0, 0, [PWord.zero], Carried.plain 4⟩
def landing : State := { run.modStrand 10 fun t => { t with chans := [(4, ⟨256, 64, 9⟩)] } with net := [data] }
theorem wit_message_land : landing.net[0]? = some data ∧ landing.mayLand 0 data = true ∧
    Store.get? (landing.strand 10).chans 4 = some ⟨256, 64, 9⟩ ∧ (∀ o, 256 ≤ o → o < 260 → landing.landOk 10 0 o = true) ∧
    Store.get? (landing.strand 10).chans 5 = none ∧ landing.owned 5 9 0 = true := by
  refine ⟨by decide, by decide, by decide, fun o h1 h2 => ?_, by decide, by decide⟩
  have e : ∀ j, j < 4 → landing.landOk 10 0 (256 + j) = true := by decide
  have := e (o - 256) (by omega)
  rwa [show 256 + (o - 256) = o by omega] at this
theorem wit_replay_counts : 1 ≤ landing.reg ⟨0x3053, 2, 0⟩ ∧ 1 ≤ landing.reg Od.LINK_RETIRE_THRESHOLD ∧ landing.bypassed 0 0 0 = false ∧
    landing.reg ⟨0x3053, 2, 0⟩ < Store.get 0 ({ landing with segReplays := [(0, landing.reg ⟨0x3053, 2, 0⟩)] }).segReplays 0 + 1 := by decide
def linkUp4 : State := put op [(Od.LINK_STATE 4, 2)]
theorem wit_links : linkUp4.linkUp 4 = true ∧ op.linkUp 4 = false ∧ linkUp4.reg (Od.LINK_STATE 4) = 2 ∧
    (put op [(Od.LINK_STATE 4, 1)]).reg (Od.LINK_STATE 4) = 1 ∧ (put op [(Od.LINK_STATE 4, 3)]).reg (Od.LINK_STATE 4) = 3 ∧
    Writes linkUp4 0 (linkUp4.isOp 0) := by decide
def point0 : MergePt := ⟨0, 2, [⟨0, 0⟩, ⟨1, 1⟩]⟩
def merging (l : List MergeIn) (len : Nat) : State :=
  { run.modJob 3 fun k => { k with groups := [⟨1, 0, 4, false, len, [0, 1], [point0]⟩] } with
    merges := [(mergeKey 3 1 0, ⟨[], 0, l, 0, [], false⟩)] }
def both : List MergeIn := [⟨0, 0, [(0, 900, [⟨5, false⟩])]⟩, ⟨1, 0, [(0, 901, [⟨6, false⟩])]⟩]
theorem wit_merge : ((merging both 4).group 3 1).isSome = true ∧ point0.mod = run.coord ∧
    (point0.inputs.filterMap fun x => ((merging both 4).merge 3 1 0).held x.src 0).length = 2 ∧
    (sumWords false [[⟨5, false⟩], [⟨6, false⟩]]).1.length = 1 ∧
    ((point0.inputs.filterMap fun x => ((merging (both.take 1) 4).merge 3 1 0).held x.src 0).length = 1) ∧
    900 + (merging both 4).reg ⟨0x3053, 1, 0⟩ < ({ merging both 4 with count := 100000000 }).jobNow 3 := by decide
/-- 5 + 6 = 11 at a merge point. -/
theorem test_merge_sum : (sumWords false [[⟨5, false⟩], [⟨6, false⟩]]).1 = [⟨11, false⟩] := by decide
def control (type op' obj : Nat) : NetMsg := ⟨type, 0, 12, 10, 0, 0, obj, op', 0, 3, 0, 0, 5, [], Carried.plain 4⟩
theorem wit_sync_messages : ({ run with net := [control 3 0 9] }).control? 0 3 0 = some (control 3 0 9) ∧
    ({ run with net := [control 3 0 9] }).inOrder 0 (control 3 0 9) = true ∧
    ({ run with net := [control 4 0 9] }).control? 0 4 0 = some (control 4 0 9) ∧
    ({ run with net := [control 4 1 9] }).control? 0 4 1 = some (control 4 1 9) ∧
    ({ run with net := [control 4 2 9] }).control? 0 4 2 = some (control 4 2 9) ∧
    ({ run with net := [control 6 1 0] }).control? 0 6 0 = some (control 6 1 0) ∧
    (put run [(ssObj 10, SS.FROZEN)]).strandState 10 = SS.FROZEN ∧ run.strandJob 10 ≠ 0 := by decide
def idle5 : State := put (op.modCluster 5 fun k => { k with idleFrom := 0 }) [(Od.ALLOW_LEND_EN 0, 1)]
theorem wit_lend : idle5.reg (Od.ALLOW_LEND_EN 0) = 1 ∧ (idle5.cluster 5).lent = false ∧ 425 ≤ ({ idle5 with ticks := 425 } : State).ticks - (idle5.cluster 5).idleFrom ∧
    idle5.arraysQuiet 5 = true ∧ idle5.lendIdle 10 = true ∧ idle5.lendIdle 11 = true := by decide
def debug10 : State :=
  put { withNode with sessions := op.sessions } [(ssObj 10, SS.DEBUG), (Od.BOOT_STAGE, 6)]
theorem wit_forces : Writes debug10 0 (debug10.mayForce 0 5 9) ∧ debug10.ownerOf 5 9 = some 10 ∧ debug10.strandState 10 = SS.DEBUG ∧
    (debug10.node 5 9).isSome = true := by decide
theorem wit_idle_gap : ((run.modStrand 10 fun t => { t with stall := some (.tick 5000), stallSince := 787 }).strand 10).stall = some (.tick 5000) ∧
    787 + 213 ≤ run.now ∧ run.strandState 10 ≠ SS.EMPTY ∧ (run.strand 10).deadline = none ∧ (run.strand 10).idleOffered = false := by decide

def root : State := put { op with count := 0x50000 } [(Od.TIMING_ROOT, 1)]
theorem wit_root : root.isRoot = true ∧ root.syncState = SY.FREE ∧ root.now % 0x10000 = 0 ∧
    (put root [(Od.SYNC_STATE, SY.LOCKED)]).syncState = SY.LOCKED ∧ (put root [(Od.SYNC_STATE, SY.LOST)]).syncState = SY.LOST ∧
    (root.jobs.any fun (e : Nat × Job) => root.spans e.1 && root.jobState e.1 != JS.NONE) = false := by decide
theorem wit_slew : ({ op with count := 0x8000, sync := { op.sync with slew := 1 } } : State).now % 0x10000 = 0x8000 := by decide
/-- A module at (1, 0, 0), whose root is at the origin: the root lies on its port X-. -/
def follower : State := put { op with count := 0x40000 } [(Od.FABRIC_COORD, 1), (Od.BYPASS_STATE, 0), (Od.SYNC_STATE, SY.LOCKED),
  (Od.PORT_STATE 1, 2)]
theorem wit_follower : follower.isRoot = false ∧ upstreamPort follower.coord 0 = some 1 ∧ follower.sync.alt = none ∧
    follower.reg (Od.PORT_STATE 1) = 2 ∧ follower.syncState = SY.LOCKED ∧
    (((0x40000 : Nat) : Int) * 256 + 0 + follower.delay256 1 - (follower.now : Int) * 256).natAbs ≤ 64 * 256 ∧
    follower.sync.lastBeacon + 0x40000 ≤ follower.now := by decide
def spanning : State :=
  put (op.setJob 3 { Job.new with ranks := [⟨0, 5⟩, ⟨1, 5⟩] }) [(Od.JOB_STATE 3, JS.ENABLED)]
theorem wit_peers : (spanning.jobModules 3).contains 1 = true ∧ 1 ≠ spanning.coord ∧ spanning.jobState 3 = JS.ENABLED ∧
    (spanning.job 3).peerHold = none ∧
    spanning.reg (Od.JOB_HOLD_OFFSET 3) + spanning.reg Od.PEER_THRESHOLD < expand32 (Store.get 0 (spanning.job 3).peers 1) 1000000 ∧
    spanning.spans 3 = true := by decide
def elastic : State := spanning.modJob 3 fun k => { k with elastic := [⟨⟨0, 1, 0, false, 0, 0, 0, 0, data⟩, 99999⟩] }
theorem wit_elastic : ((elastic.job 3).elastic[0]?).isSome = true ∧ 99999 ≤ elastic.jobNow 3 ∧ ¬ (data.type = 1 ∨ data.type = 2) := by decide

/-! ## Witnesses: the host port and its sessions -/

def hdr : MbtHdr := ⟨0, 0, 5, 1, 0, 0, 64, 0, 0, 9, 7, true, true⟩
theorem wit_frames : op.portUp = true ∧ root.isRoot = true ∧ root.portUp = true ∧
    op.ownAddr 4000 Od.SERVICE_IPV4 Od.MGMT_IPV4 = 0 ∧
    (put op [(Od.SERVICE_VLAN, 7), (Od.SERVICE_IPV4, 99), (Od.SERVICE_IPV6, 98)]).ownAddr 7 Od.SERVICE_IPV4 Od.MGMT_IPV4 = 99 ∧
    (put op [(Od.SERVICE_VLAN, 7), (Od.SERVICE_IPV4, 99), (Od.SERVICE_IPV6, 98)]).ownAddr 7 Od.SERVICE_IPV6 Od.MGMT_IPV6 = 98 ∧
    ({ op with count := 1062500001 } : State).esmcAt + 1062500000 < ({ op with count := 1062500001 } : State).now ∧
    op.now ≤ op.esmcAt + 1062500000 ∧ ({ op with count := 212500000 } : State).esmcTx + 212500000 ≤ ({ op with count := 212500000 } : State).now ∧
    Store.get? ({ op with pfc := [(3, 100000)] } : State).pfc 3 = some 100000 ∧ 100000 ≤ op.now ∧
    ({ op with bring := { op.bring with pwrgd := false } } : State).portUp = false := by decide
theorem wit_in_order : op.nextIn hdr [] ∧ op.nextIn { hdr with txn := 1024 } (List.replicate 4 0) := by decide
theorem wit_not_in_order : op.silent = false ∧ op.bring.rescue = false ∧ (op.session 0).isOpen = true ∧
    (op.session 0).fresh hdr.txn.toNat = true ∧
    ((op.setSession 0 { opSession with txns := [5], txnMax := 5 }).session 0).fresh 5 = false ∧
    op.authentic { hdr with seq := 0 } [] ∧ ((op.acked { hdr with seq := 0 }).session 0).isOpen = true ∧
    serialBelow 0 ((op.acked { hdr with seq := 0 }).session 0).rxNext = true := by decide
theorem wit_open : op.silent = false ∧ op.bring.rescue = false ∧ 5 ≤ op.reg Od.BOOT_STAGE ∧
    (put op [(Od.MODULE_STATE, MS.LEAVING)]).reg Od.MODULE_STATE = MS.LEAVING ∧
    op.reg Od.MODULE_STATE ≠ MS.LEAVING ∧ op.lockedOut 0x401 = false ∧
    ({ op with security := { op.security with lockouts := [(0x401, 100000)] } } : State).lockedOut 0x401 = true ∧
    op.openOk [1] true false = false ∧ (put op [(Od.OPERATOR_KEY_SET, 1)]).openOk [1, 0, 0, 0] true true = true ∧
    (put op [(Od.TENANT_STATE 1, 1)]).openOk [0, 0, 0, 1] false true = true ∧ op.freeSession = some 1 := by decide +kernel
theorem wit_open_length : (List.replicate 1636 (1 : Byte)).length = 1636 := List.length_replicate
theorem wit_all_sessions_open (s : State) (h : ∀ n, n < 4096 → (s.session n).isOpen = true) : s.freeSession = none := by
  simp only [State.freeSession, List.find?_eq_none, List.mem_range]
  intro n hn
  simp [h n hn]
def sent (tries at' : Nat) : State :=
  op.setSession 0 { opSession with unacked := [⟨⟨0, 1, 0, 0, 0, 0, 0, 0, [], 0⟩, at', 1000, tries, false⟩], ackDue := some 5 }
theorem wit_session_timers :
    ((sent 0 90000).session 0).unacked.find? (fun (u : Unacked) => u.msg.seq == 0) =
      some ⟨⟨0, 1, 0, 0, 0, 0, 0, 0, [], 0⟩, 90000, 1000, 0, false⟩ ∧ 90000 + 1000 ≤ (sent 0 90000).now ∧
    0 < (sent 0 0).reg Od.RETX_MAX ∧ (sent 0 0).reg Od.RETX_MAX ≤ 100 ∧ ((sent 0 0).session 0).ackDue = some 5 ∧
    5 + (sent 0 0).reg Od.ACK_DELAY_TICKS ≤ (sent 0 0).now ∧
    ({ op with count := 0x40000000 } : State).reg Od.KEEPALIVE_TICKS ≤ 0x40000000 ∧
    ((op.session 0).lastRx + op.reg Od.SESSION_TIMEOUT < ({ op with count := 0x80000000 } : State).now) := by decide

/-! ## Witnesses: the object dictionary -/

def tenant : State := op.setSession 1 { opSession with tenant := some 1 }
theorem wit_entry : op.hears 0 = true ∧ op.zenithBars 0 2 = false ∧ op.zenithBars 0 1 = false ∧ op.bring.closing = none ∧
    Od.implemented 0x8000 3 = true ∧ Od.implemented 0x0FFF 0 = false ∧ Od.implemented 0x8000 0xFE = false ∧
    tenant.reaches 1 0x8000 3 false = false ∧ tenant.reaches 1 0x8000 3 true = false ∧ op.reaches 0 0x8000 3 true = true ∧
    op.reg Od.THERMAL_STATE ≠ 1 ∧ op.reg Od.MODULE_STATE ≠ MS.LEAVING ∧ Od.row? 0x8000 0 = none ∧ Od.implemented 0x8000 0 = true := by
  decide +kernel
/-- A row of the dictionary (the first where there is none). -/
def row (idx sub : Nat) : ObjRow := (Od.row? idx sub).getD ⟨0, 0, .bool, 0, .ro, 0, 0, 0, 0⟩
def enabled : State := put op [(Od.MODULE_ENABLE, 1)]
/-- A write-only row, a read-only row, a length that differs, a governed row, an object's range at both ends. -/
theorem wit_entry_rows : Od.row? 0x2000 5 = some (row 0x2000 5) ∧ (row 0x2000 5).acc = .wo ∧
    (row 0x2000 1).acc ≠ .ro ∧ (row 0x1000 1).acc = .ro ∧ (row 0x8000 3).acc ≠ .ro ∧ (row 0x8000 3).acc ≠ .wo ∧ (row 0x8000 3).size = 4 ∧
    enabled.locked (row 0x1100 2) (enabled.object 0 (row 0x1100 2) 0x1100) = true ∧
    op.locked (row 0x1100 2) (op.object 0 (row 0x1100 2) 0x1100) = false ∧
    op.inRange (row 0x8000 3) 0x8000 2124 = false ∧ op.inRange (row 0x8000 3) 0x8000 2125 = true := by decide +kernel

/-! ## Witnesses: admission, contexts, prefixes -/

/-- PARAMS of job 3, class 0, top-p 1.0, one token of prompt and one of answer. -/
def params : List Byte :=
  [3, 0, 0, 0] ++ List.replicate 18 0 ++ [0x3C, 0] ++ List.replicate 4 0 ++ [0, 0, 0, 1] ++ List.replicate 12 0 ++ [0, 0, 0, 1] ++
    List.replicate 208 0
/-- Job 3 of tenant 0 serves on CD0.K5. -/
def serve : State :=
  put ({ op with
    sessions := [(0, { opSession with submit := some (params, 7, []) })]
    strands := [(10, { Strand.new with chans := [(15, ⟨0, 4096, 63⟩)] })] }.setJob 3 { Job.new with ranks := [⟨0, 5⟩] })
  [(Od.JOB_STATE 3, JS.ENABLED), (Od.VOCAB_SIZE 3, 32000), (Od.MAX_CONTEXT 3, 2048), (Od.KV_BLOCKS 3, 64), (Od.PREFILL_CHUNK 3, 16),
   (Od.TENANT_CONTEXT_LIMIT 0, 4), (Od.TENANT_SRAM_QUOTA 0, 0x100000), (Od.SCHED_FIRST_TICKS 3, 1000), (Od.SCHED_TOKEN_TICKS 3, 500),
   (Od.ACT_CEILING 0, 100), (Od.CEILING_NOW 0, 100), (ssObj 10, SS.RUNNING), (sjObj 10, 3)]
def parm : InMsg := ⟨1, 0, 4, 1, 0, 7, params, []⟩
def prompt (flags : Nat) : InMsg := ⟨1, 1, flags, 2, 0, 7, [0, 0, 0, 42], []⟩
def isGrant (r : NoAdmit ⊕ Grant) : Bool := match r with
  | .inr g => g.evict.isEmpty
  | .inl _ => false
theorem wit_submit : (op.session 0).submit = none ∧ params.length = 256 ∧ (serve.session 0).submit = some (params, 7, []) ∧
    ¬ ((prompt 6).flags / 4 % 2 = 1 ↔ be params 1 1 ≠ 0) ∧ ¬ ((prompt 4).flags / 4 % 2 = 1 ↔ be params 1 1 ≠ 0) ∧
    (prompt 6).flags / 2 % 2 = 1 ∧ (prompt 4).flags / 2 % 2 = 0 ∧ ([] ++ beWords (prompt 6).payload).length = be params 44 4 ∧
    (serve.session 0).txQueue.length < 256 := by decide +kernel
theorem wit_admission :
    isGrant ((serve.modSession 0 fun t => { t with submit := none }).admission (Submit.parse params) 0 [42]) = true ∧
    isGrant (((put serve [(Od.JOB_STATE 3, JS.BOUND)]).modSession 0 fun t => { t with submit := none }).admission
      (Submit.parse params) 0 [42]) = false := by decide +kernel
def pw (n : Nat) : PWord := ⟨BitVec.ofNat 32 n, false⟩
/-- A STREAM message of job 3 for context 9, index 4, with its time 100,000. -/
def token : NetMsg := ⟨7, 0, 12, 0x10000 + HB, 0, 0, 0, 0, 0, 3, 0, 0, 0, [pw 0x00000009, pw 4, pw 100000, pw 7], Carried.plain 16⟩
def streaming (job : Job) : State :=
  put ({ op with net := [token] }.setJob 3 job) [(Od.CTX_STATE 9, XS.DECODE), (Od.CTX_JOB 9, 3), (Od.CTX_NEXT_INDEX 9, 4),
    (Od.CTX_NEXT_DEADLINE 9, 100000), (Od.JOB_STATE 3, JS.ENABLED), (ssObj 12, SS.RUNNING)]
theorem wit_stream : let s := streaming Job.new
    s.toHb 0 = some token ∧ (s.job token.job).train = false ∧ 4 ≤ token.payload.length ∧ token.word 0 % 0x10000 = 9 ∧
    s.reg (Od.CTX_STATE 9) = XS.DECODE ∧ token.word 1 = s.reg (Od.CTX_NEXT_INDEX 9) ∧
    (s.session (s.reg (Od.CTX_SESSION 9))).txQueue.length < 255 ∧ token.word 2 ≠ 0xFFFFFFFF ∧ s.now ≤ s.reg (Od.CTX_NEXT_DEADLINE 9) ∧
    (put s [(Od.CTX_NEXT_DEADLINE 9, 99999)]).reg (Od.CTX_NEXT_DEADLINE 9) < s.now := by decide
theorem wit_step_report : let s := streaming { Job.new with train := true }
    s.toHb 0 = some token ∧ (s.job token.job).train = true ∧ (token.payload.any fun w => w.poison) = false ∧
    4 ≤ token.payload.length ∧ token.payload.length ≤ 64 ∧ s.jobState 3 = JS.ENABLED ∧
    (({ token with payload := [⟨0, true⟩] } : NetMsg).payload.any fun w => w.poison) = true := by decide
def ctxIn (st : Nat) (flags : Nat) : State :=
  put { op with ctxs := [(9, { Ctx.new with expiry := 99999 })] }
    [(Od.CTX_STATE 9, st), (Od.CTX_JOB 9, 3), (Od.CTX_FLAGS 9, flags), (Od.CTX_END 9, 1), (Od.JOB_STATE 3, JS.ENABLED)]
theorem wit_contexts : (ctxIn XS.ADMITTED 0).reg (Od.CTX_STATE 9) = XS.ADMITTED ∧ ((ctxIn XS.ADMITTED 0).ctx 9).landed = false ∧
    ((ctxIn XS.ADMITTED 0).ctx 9).waits = none ∧ ((ctxIn XS.ENDING 2).reg (Od.CTX_FLAGS 9)).testBit 1 = true ∧
    ((ctxIn XS.ENDING 0).reg (Od.CTX_FLAGS 9)).testBit 1 = false ∧ (ctxIn XS.ENDING 2).reg (Od.CTX_END 9) = 1 ∧
    (ctxIn XS.ENDING 2).jobState 3 = JS.ENABLED ∧ ((ctxIn XS.RETAINED 2).ctx 9).expiry < (ctxIn XS.RETAINED 2).now ∧
    Writes (ctxIn XS.RETAINED 2) 0 ((ctxIn XS.RETAINED 2).mayCancel 0 9) ∧ Writes op 0 (op.mayCancel 0 4096) := by decide
def cancelRun : State := (ctxIn XS.DECODE 0).setJob 3 { Job.new with ranks := [⟨0, 5⟩] }
theorem wit_cancel : cancelRun.jobStrands (cancelRun.reg (Od.CTX_JOB 9)) = [10] ∧ cancelRun.reg (Od.CTX_STATE 9) = XS.DECODE := by decide
def frozenPair : State :=
  put ((op.setJob 3 { Job.new with lowSince := some 0 }).setJob 4 { Job.new with train := true, ranks := [⟨0, 5⟩] })
    [(Od.TRAIN_PAIR 3, 4), (csObj 5, CS.READY), (ssObj 11, SS.FROZEN), (Od.TRAIN_RESUME_TICKS 3, 1000), (Od.TRAIN_RESUME_AT 3, 1)]
theorem wit_train_resume : ((frozenPair.pairStrands 3).filter fun u => frozenPair.strandState u == SS.FROZEN) = [11] ∧
    (frozenPair.job 3).lowSince = some 0 ∧ 0 + frozenPair.reg (Od.TRAIN_RESUME_TICKS 3) ≤ frozenPair.now ∧
    (frozenPair.liveCtxs 3).length < frozenPair.reg (Od.TRAIN_RESUME_AT 3) ∧ frozenPair.net = [] := by decide
def prefixIn (st refs : Nat) : State :=
  put { op with prefixes := [(5, { Prefix.new with reuse := 1, deadline := 99999 })] }
    [(Od.PREFIX_STATE 5, st), (Od.PREFIX_REFS 5, refs)]
theorem wit_prefixes : (prefixIn 1 0).reg (Od.PREFIX_STATE 5) = 1 ∧ (Store.get Prefix.new (prefixIn 1 0).prefixes 5).deadline < op.now ∧
    (prefixIn 2 0).prefixHandle 5 = 16389 ∧ 16389 % 16384 = 5 ∧ (prefixIn 2 1).reg (Od.PREFIX_REFS 5) = 1 ∧
    (prefixIn 2 0).actsFor 0 ((prefixIn 2 0).reg (Od.PREFIX_TENANT 5)) = true ∧ tenant.actsFor 1 0 = false := by decide

/-! ## Witnesses: versions and loads -/

/-- Entry 2 of job 3 in state st, with a slice of cluster 0 of this module. -/
def ver (st : Nat) : State :=
  put (op.setJob 3 { Job.new with ranks := [⟨0, 0⟩] }) [(Od.VER_STATE 2, st), (Od.VER_JOB 2, 3), (Od.VER_SLICE 2, 77), (Od.VER_NUMBER 2, 0x3000002),
    (Od.SLICE_ID 0, 77), (Od.SLICE_EXTENT 0, 0x010101), (Od.SLICE_MASK 0, 1), (Od.TENANT_STATE 0, 1)]
theorem wit_ver_create : let s := ver VS.NONE
    Writes s 0 (s.verRight 0 2) ∧ s.fixedJob 3 = false ∧
    ((List.range 16).filter fun k => s.reg (Od.VER_JOB k) == 3 && s.verState k != VS.NONE).length < 2 ∧
    s.reg (Od.VER_LOADER 2) = s.coord ∧ ((s.verPlaces 2).any fun p => p.coord == s.coord) = true ∧
    s.reg (Od.TENANT_STATE (s.reg (Od.VER_TENANT 2))) = 1 ∧ s.actsFor 0 (s.reg (Od.VER_TENANT 2)) = true ∧ s.reg (Od.VER_SEALED 2) ≠ 1 := by
  decide +kernel
/-- A record of block 1 of rank 0, FP format 2, stored, of 8 rows by 8 columns in one chunk. -/
def record1 : List Byte := [1, 0, 0, 0, 0, 0, 0, 0, 2, 0, 8, 0, 8, 0, 1, 0]
def declared : State := (ver VS.DECLARED).modVersion 2 fun v => { v with total := some 1, manifest := [(0, record1)] }
theorem wit_ver_commit : let s := declared
    let all := [record1].map Block.parse
    let bs := s.localBlocks 2 all
    (s.version 2).records = some [record1] ∧ s.reg (Od.VER_SEALED 2) = 0 ∧ s.reg (Od.VER_SOURCE 2) = 0 ∧ bs.length = 1 ∧
    (all.all fun b => b.fieldsOk && decide (b.rank < (s.verPlaces 2).length)) = true ∧ noTwice all = true ∧
    (bs.all fun b => s.slotFmtOk 3 b.cl b) = true ∧
    ((blockClusters bs).any fun c => (loadPages bs c).any fun g => (s.page c g).valid) = false ∧ s.roomFor bs none = true := by
  decide +kernel
def readyBeside : State := put (ver VS.READY) [(Od.VER_STATE 1, VS.CURRENT), (Od.VER_JOB 1, 3), (Od.VER_NUMBER 1, 0x3000001)]
theorem wit_ver_switch : readyBeside.verState 2 = VS.READY ∧ readyBeside.currentVer 3 = some 1 ∧ (readyBeside.version 2).switchAt = none ∧
    readyBeside.fixedJob 3 = false ∧ readyBeside.verPlaces 2 = [⟨0, 0⟩] ∧ readyBeside.isOp 0 = true ∧
    (∀ st, st < 8 → (ver st).verState 2 = st) := by decide +kernel
def switching (point : Option Nat) (rep : List Nat) : State :=
  (readyBeside.modVersion 2 fun v => { v with switchAt := some 0, pointerAt := point, reported := rep }).modCluster 0 fun k =>
    { k with installed := some 2 }
theorem wit_version_events : let w := ver VS.WAITING
    w.verState 2 = VS.WAITING ∧ w.jobState 3 = JS.NONE ∧ w.currentVer 3 = none ∧
    ((switching none []).version 2).switchAt = some 0 ∧ (((switching none []).verPlaces 2).any fun p => p.coord == 0 && p.cl == 0) = true ∧
    0 = (switching none []).coord ∧ ((switching none []).cluster 0).installed = some 2 ∧ (switching none []).allReported 2 = false ∧
    (switching none [0]).allReported 2 = true ∧ ((switching (some 100000) [0]).version 2).pointerAt = some 100000 ∧
    100000 ≤ (switching (some 100000) [0]).now ∧ 0 + op.reg Od.MERIDIAN_TIMEOUT < ({ op with count := 0x100000000 } : State).now ∧
    (ver VS.RELEASING).verState 2 = VS.RELEASING ∧ (ver VS.RELEASING).reg (Od.VER_PINS 2) = 0 ∧
    ((ver VS.RELEASING).version 2).readers = [] ∧ ((ver VS.FAILED).version 2).failedAt + 1024 ≤ op.now := by decide +kernel
/-- One block of cluster 0 for array 4, whose only chunk is stored text of four bytes. -/
def fragBytes : List Byte := [3, 0, 0, 2, 0, 0, 0, 1, 0, 0, 0, 0, 0, 0, 1, 0]
def coded : List Byte := [0, 0, 3, 0, 4, 0, 0, 0, 1, 2, 3, 4]
def block1 (c : Chunk) : Block := { Block.parse record1 with array := some 4, chunks := [(0, c)] }
def loading (c : Chunk) : State := (ver VS.LOADING).modVersion 2 fun v => { v with blocks := [block1 c] }
theorem wit_fragment : let s := loading Chunk.new
    FragHdr.parse fragBytes = ⟨0x3000002, 1, 0, 0, true, false⟩ ∧ s.verOf 0x3000002 = some 2 ∧ s.verState 2 = VS.LOADING ∧
    16 ≤ fragBytes.length ∧ s.holdsBlock 2 1 = true ∧ s.reg (Od.VER_SOURCE 2) ≠ 1 := by decide +kernel
theorem wit_chunk : let s := loading ⟨[⟨0, coded, true⟩], none⟩
    ((s.version 2).blocks.find? fun b => b.num == 1 && dieOf b.cl == 0) = some (block1 ⟨[⟨0, coded, true⟩], none⟩) ∧
    (Chunk.joined ⟨[⟨0, coded, true⟩], none⟩) = some coded ∧ decodeChunk coded = some [1, 2, 3, 4] ∧ decodeChunk [1] = none := by
  decide +kernel
def programmable : State := loading ⟨[], some (List.replicate 64 0)⟩
theorem wit_block_program : programmable.nextBlock 0 = some (2, 0) ∧ (programmable.blockOf 2 0).isSome = true ∧
    ((programmable.blockOf 2 0).bind fun q => q.array) = some 4 ∧ programmable.noneProgramming 0 = true ∧ programmable.draining = false := by
  decide +kernel
/-- A transit of array 5 of cluster 5 into its array 32. -/
def transit (st : Nat) : State :=
  put { op with arrays := [(175, ArrayU.new), (202, ArrayU.new)] } [(Od.TRANSIT_STATE 5, st), (Od.TRANSIT_TARGET 5, 5),
    (Od.TRANSIT_INCOMING 5, 32), (asObj 5 5, AS.ACTIVE), (asObj 5 32, AS.SHADOW), (csObj 5, CS.READY), (Od.TRANSIT_EN, 1)]
theorem wit_copy : (transit 1).arrState 175 = AS.ACTIVE ∧ ((transit 1).array 175).idle = true ∧ (transit 1).reg (Od.TRANSIT_STATE 5) = 1 ∧
    (transit 1).reg (Od.TRANSIT_TARGET 5) = 5 ∧ ((transit 1).cluster 5).rowBufs.length < 2 ∧ ((transit 1).cluster 5).copiedRows < 1024 := by
  decide
def adapters : State :=
  put { op with adapters := [(7, { Adapter.new with reuse := 1, gens := [⟨1, 1, 0, 64, 0, 64, [], 0, none, 0, 0⟩] })],
                count := 0x200000000 } [(Od.AD_TENANT 7, 0)]
theorem wit_adapters : adapters.adapterEntry 4103 (adapters.actor 0) = some 7 ∧ adapters.reg (Od.AD_RETIRING 7) ≠ 1 ∧
    op.adapterEntry 4103 (op.actor 0) = none ∧
    ((Store.get Adapter.new adapters.adapters 7).gens.any fun (g : AdGen) =>
      g.state == 1 && decide (g.lastMsg + adapters.reg Od.ADAPTER_IDLE_TICKS < adapters.now)) = true := by decide +kernel

/-! ## Witnesses: transit and calibration -/

def resting : State :=
  put { op with count := 0x4000000000000000 } [(Od.SPARE_A 5, 32), (Od.SPARES_RESTED 5, 1), (asObj 5 5, AS.ACTIVE), (asObj 5 32, AS.SPARE),
    (csObj 5, CS.READY), (Od.TRANSIT_EN, 1), (Od.SENSOR_PLAUSIBLE 5, 1)]
theorem wit_transit_start : resting.restedSpare 5 = some 32 ∧ (resting.dueArray 5).isSome = true ∧ resting.reg Od.TRANSIT_EN = 1 ∧
    resting.reg (Od.TRANSIT_STATE 5) = 0 ∧ resting.noneProgramming 5 = true ∧ resting.reg (csObj 5) = CS.READY ∧
    resting.arrState 175 = AS.ACTIVE ∧
    resting.clean 175 + resting.periodTicks + resting.reg Od.TRANSIT_COPY_MAX + resting.reg Od.TRANSIT_WINDOW_MAX < resting.now := by
  decide +kernel
theorem wit_shadow : let s : State := { transit 2 with count := 0x1000000000000 }
    s.reg (Od.TRANSIT_STATE 5) = 2 ∧ s.reg Od.SHADOW_WINDOW_TICKS ≤ s.now - (s.cluster 5).transitFor ∧
    s.reg Od.TRANSIT_WINDOW_MAX ≤ s.now - (s.cluster 5).transitFor := by decide +kernel
theorem wit_swap : (transit 3).reg (Od.TRANSIT_STATE 5) = 3 ∧ (transit 3).strandState 10 ≠ SS.RUNNING ∧ (transit 3).strandState 10 ≠ SS.HELD ∧
    ((transit 3).array 175).idle = true ∧ (5 : Nat) ≠ 32 ∧
    (transit 1).reg (Od.TRANSIT_START 5) + (transit 1).reg Od.TRANSIT_COPY_MAX < ({ transit 1 with count := 0x1000000000000 } : State).now ∧
    (600 : Nat) ≠ op.reg Od.TRANSIT_PERIOD_S := by decide +kernel
def unrested : State := put op [(Od.SPARE_A 5, 32), (asObj 5 32, AS.SPARE)]
theorem wit_rest : unrested.arrState 202 = AS.SPARE ∧ unrested.isRested 5 32 = false ∧ unrested.seqState 202 = 0 ∧
    unrested.reg (Od.SPARE_A 5) = 32 ∧ unrested.reg (Od.TRANSIT_STATE 5) = 0 := by decide
theorem wit_correction : resting.arrState 175 = AS.ACTIVE ∧ resting.reg (Od.SENSOR_PLAUSIBLE 5) = 1 ∧ resting.now % 0x400000 = 0 ∧
    resting.now % 0x10000 = 0 ∧ op.now % 0x10000 ≠ 0 := by decide
def ramping : State := resting.modArray 175 fun a => { a with ramps := [(0, (4, 8, 3)), (1, (4, 8, 63))] }
theorem wit_ramp : 175 ∈ ramping.arrays.map Prod.fst ∧ (ramping.array 175).ramps ≠ [] ∧ (ramping.array 175).rampTick ≠ ramping.now := by
  decide

/-! ## Witnesses: the fabric -/

/-- A module at (1, 0, 0) with port 1 in state st and a neighbour at the origin. -/
def fabric (st : Nat) : State :=
  put op [(Od.FABRIC_COORD, 1), (Od.BYPASS_STATE, 0), (Od.PORT_STATE 1, st), (Od.NEIGHBOUR_COORD 1, 0), (Od.PORT_STATE 0, 2), (Od.NEIGHBOUR_COORD 0, 2)]
theorem wit_ports : (fabric PT.DARK).portState 1 = PT.DARK ∧ ((fabric PT.DARK).reg Od.BYPASS_STATE).testBit 0 = false ∧
    (fabric PT.DARK).reg (Od.FAB_PORT_PWR 1) ≠ 2 ∧ (fabric PT.TRAINING).portState 1 = PT.TRAINING ∧
    acceptsNeighbour 1 1 0 = true ∧ acceptsNeighbour 1 1 256 = false ∧ (fabric PT.UP).portState 1 = PT.UP ∧
    ((fabric PT.UP).port 1).replays + 1 ≤ (fabric PT.UP).reg Od.FAB_RETIRE_THRESHOLD ∧
    ((fabric PT.UP).modPort 1 fun p => { p with replays := 0x100000000 }).reg Od.FAB_RETIRE_THRESHOLD < 0x100000000 + 1 ∧
    ((fabric PT.UP).port 1).lastMeasure + 0x100000 ≤ ({ fabric PT.UP with count := 0x100000 } : State).now ∧
    (fabric PT.DOWN).portState 1 = PT.DOWN ∧ Writes (fabric PT.DOWN) 0 ((fabric PT.DOWN).isOp 0) ∧
    (put op [(Od.BOOT_STAGE, 4)]).reg Od.BOOT_STAGE < 5 := by decide +kernel
def dark : State := { fabric PT.DARK with count := 0x100000000 }
theorem wit_debounce : dark.neighbourOf 1 ≠ 0xFFFFFFFF ∧ (dark.port 1).departed = false ∧ (dark.port 1).probeUntil = none ∧
    dark.expected 1 = false ∧ dark.reg Od.EXPECT_PORT ≠ 1 ∧ (dark.port 1).darkSince + dark.reg Od.LOS_DEBOUNCE_TICKS ≤ dark.now ∧
    (dark.upPorts.any fun r => r / 2 != 0) = false ∧ dark.portState 1 = PT.DARK ∧
    ((put dark [(Od.PORT_STATE 2, 2), (Od.NEIGHBOUR_COORD 2, 0x101)]).upPorts.any fun r => r / 2 != 0) = true ∧
    (put dark [(Od.EXPECT_PORT, 1), (Od.EXPECT_UNTIL, 5)]).reg Od.EXPECT_UNTIL < dark.now := by decide +kernel
theorem wit_members : (fabric PT.UP).seen.contains (0, 3) = false ∧ 0 ≠ (fabric PT.UP).coord ∧
    (((fabric PT.UP).modPort 1 fun p => { p with probeUntil := some 9 }).port 1).probeUntil = some 9 ∧ 9 < op.now ∧
    ((List.range 6).find? fun q => ((fabric PT.UP).modPort 1 fun p => { p with probeUntil := some 9 }).neighbourOf q == 0 &&
      (((fabric PT.UP).modPort 1 fun p => { p with probeUntil := some 9 }).port q).probeUntil.isSome) = some 1 ∧
    (spanning.jobModules 3).contains 1 = true ∧ (∃ e ∈ spanning.jobs, e.1 = 3) := by
  refine ⟨by decide, by decide, by decide, by decide, by decide, by decide, (3, _), List.mem_cons_self, rfl⟩
/-- A message of one word from the origin to module `dst`, and its flit on the link. -/
def fmsg (dst vc seq job : Nat) : FabMsg := ⟨dst, 0, 0, false, vc, 0, 0, seq, { data with job := job }⟩
def flits (dst vc seq job : Nat) : List FabFlit := (fmsg dst vc seq job).flits Port.new
/-- The message that flits spell for this module. -/
def read (s : State) (fs : List FabFlit) : FabMsg := s.readdress ((fabOf fs).getD (fmsg 0 0 0 0))
theorem wit_arrival : (fabric PT.UP).portState 1 = PT.UP ∧
    ([flits 2 0 1 3, flits 1 1 1 3, flits 1 0 1 0, flits 1 0 1 3].all fun fs =>
      wholeMessage fs && fclassOf fs == 0 && (fabOf fs).isSome && (read (fabric PT.UP) fs).msg.type == 0) = true ∧
    (read (fabric PT.UP) (flits 2 0 1 3)).dst ≠ (fabric PT.UP).coord ∧ (read (fabric PT.UP) (flits 1 1 1 3)).dst = (fabric PT.UP).coord ∧
    (read (fabric PT.UP) (flits 1 1 1 3)).vc = 1 ∧ (read (fabric PT.UP) (flits 1 0 1 0)).msg.job = 0 ∧
    (read (fabric PT.UP) (flits 1 0 1 3)).msg.job = 3 ∧ (fabric PT.UP).oldFseq 0 1 = false ∧
    (fabric PT.UP).oldFseq 0 ((fabric PT.UP).nextFseq 0 + 0xFFFFFFFF) = true ∧
    (fabric PT.UP).jobNow 3 < expand32 ((fabric PT.UP).jobNow 3) 100001 + (fabric PT.UP).pricedTicks 3 0 4 ∧
    wholeMessage [] = false := by decide +kernel
/-- A NULL flit has no CRC error; one with a wrong CRC and a head flit without. -/
theorem wit_flits : flitGood Port.new.nullFlit = true ∧ (flitFields Port.new.nullFlit).null = true ∧
    flitGood { Port.new.nullFlit with trailer := 0 } = false ∧ ((flits 1 0 1 3).all flitGood) = true := by decide +kernel
/-- A flit has 64 data bytes and a 16-byte trailer. -/
theorem test_flit_length : (flits 1 0 1 3).length = 1 ∧ ((flits 1 0 1 3).map fun f => (flitBytes f).length) = [80] := by decide +kernel
def unacked : State := { fabric PT.UP with resend := [⟨0, { fmsg 0 0 1 0 with dir := 1 }⟩], fseqRx := [(0, 5)] }
theorem wit_acks : unacked.fabWait = [] ∧ unacked.unackedRx 0 ≠ 0 ∧ (fabric PT.UP).unackedRx 0 = 0 ∧ unacked.resend[0]?.isSome = true ∧
    (unacked.hopsOf { fmsg 0 0 1 0 with dir := 1 }).head? = some 1 ∧ unacked.portState 1 = PT.UP ∧ 0 + 21250 < unacked.now := by decide +kernel
theorem wit_departure : (fabric PT.UP).portTo 0 = some 1 ∧ ({ fabric PT.UP with seen := [(0, 3)] } : State).seen.contains (0, 3) = true := by
  decide +kernel

/-! ## Witnesses: slices, enables, binding -/

def le (n k : Nat) : List Byte := leBytes n k
/-- A training image of one role and one cluster: END, 32 bytes of constants at offset 0, point 0 at 1,000 ticks and a test
gap of 213 ticks that opens there. -/
def imageBytes : List Byte :=
  [0x41, 0x52, 0x49, 0x4D] ++ le 2 1 ++ [1, 0] ++ le 4 1 ++ le 4 1 ++ le 4 1 ++ le 2 1 ++ le 2 0 ++ le 4 0xFFFFFFFF ++ le 4 0xFFFFFFFF ++
  le 4 0 ++ le 4 6 ++ List.replicate 24 0 ++
  (le 2 1 ++ le 2 0xFFFF ++ le 4 160 ++ le 4 4 ++ le 4 0) ++ (le 2 2 ++ le 2 0xFFFF ++ le 4 164 ++ le 4 12 ++ le 4 0) ++
  (le 2 4 ++ le 2 0 ++ le 4 176 ++ le 4 12 ++ le 4 0) ++ (le 2 5 ++ le 2 0 ++ le 4 188 ++ le 4 32 ++ le 4 0) ++
  (le 2 11 ++ le 2 0 ++ le 4 220 ++ le 4 16 ++ le 4 0) ++ (le 2 12 ++ le 2 0 ++ le 4 236 ++ le 4 12 ++ le 4 0) ++
  le 4 0xF1C00000 ++ (le 4 1 ++ le 4 0 ++ le 2 0 ++ le 2 0) ++ (le 2 0 ++ [1, 0] ++ le 4 0 ++ le 4 32) ++ List.replicate 32 7 ++
  (le 2 0 ++ le 2 1 ++ le 2 0xFFFF ++ le 2 1 ++ [3, 0] ++ le 2 1000 ++ le 4 0) ++
  (le 2 0 ++ le 2 213 ++ le 2 0 ++ le 2 0xFFFF ++ le 4 0)
def image : Image := ⟨(List.range 248).zip imageBytes, 248, [], false, none, false⟩
def bindable : State :=
  put { op with images := [(0, image)] } [(Od.SLICE_ID 0, 77), (Od.SLICE_EXTENT 0, 0x010101), (Od.SLICE_MASK 0, 1), (Od.SLICE_STATE 0, 1),
    (Od.JOB_NCLUSTERS 3, 1), (Od.JOB_SLICE 3, 77), (Od.TENANT_STATE 0, 1), (Od.TENANT_SRAM_QUOTA 0, 0x100000), (csObj 0, CS.READY),
     (Od.LINK_STATE 0, 2), (Od.LINK_STATE 13, 2), (Od.LINK_STATE 17, 2), (Od.LINK_STATE 21, 2), (Od.LINK_STATE 30, 2),
     (Od.LINK_STATE 9, 2), (Od.LINK_STATE 20, 2), (Od.LINK_STATE 16, 2), (Od.LINK_STATE 12, 2)]
def inr? {α β : Type} (x : α ⊕ β) : Bool := match x with
  | .inr _ => true
  | .inl _ => false
def after (o : Out) : State := match o with
  | .next t => t
  | _ => State.reset
/-- Job 3 bound to the image, in an ENABLED module whose recovery is over. -/
def boundJob : State :=
  put (after (Sys2Proof.Machine.execJobBind 0 2 true bindable)) [(Od.MODULE_STATE, MS.ENABLED), (Od.RECOVERY_STATE, 0)]
theorem wit_bind : inr? (bindable.bindCheck 0 3) = true ∧ bindable.jobState 3 = JS.NONE ∧ Writes bindable 0 (bindable.jobRight 0 3) ∧
    inr? ((put bindable [(Od.SLICE_STATE 0, 0)]).bindCheck 0 3) = false := by decide +kernel
theorem wit_enable : boundJob.jobState 3 = JS.BOUND ∧ (boundJob.job 3).query = none ∧ boundJob.jobCheck 3 true = none ∧
    ((boundJob.jobModules 3).filter fun m => m != boundJob.coord) = [] ∧ Writes boundJob 0 (boundJob.jobRight 0 3) ∧
    inr? (boundJob.timing 3 (2 ^ boundJob.stepping) (delayClocks (boundJob.blockDelay (boundJob.jobBox 3)))) = true ∧
    ((put boundJob [(Od.MODULE_STATE, MS.DISABLED)]).jobCheck 3 true).isSome = true ∧
    inr? (({ boundJob with images := [] } : State).timing 3 1 0) = false := by decide +kernel
/-- Job 3 with a query of module 1 under way. -/
def asked : State := boundJob.modJob 3 fun k => { k with query := some ([], 0, 0) }
theorem wit_query : (asked.job 3).query = some ([], 0, 0) ∧ (asked.odRuns.find? fun r => r.job == 3) = none ∧ 0 + 21250 < asked.now ∧
    ((asked.modJob 3 fun k => { k with query := some ([], 0, 90000) }).job 3).query = some ([], 0, 90000) ∧ asked.now ≤ 90000 + 21250 ∧
    (asked.jobModules 3).contains asked.coord = true ∧
    ((asked.jobModules 3).all fun x => (Store.get? (Store.set ([] : Store EnableReply) asked.coord ⟨0, [], 0, SY.LOCKED, 0, 0, 0xFF, 0⟩) x).isSome) = true ∧
    judgeReplies (asked.portsFit (asked.jobBox 3)) [⟨0, [], 0, SY.LOCKED, 0, 0, 0xFF, 0⟩] = none ∧
    inr? (asked.timing 3 (steppingMask [⟨0, [], 0, SY.LOCKED, 0, 0, 0xFF, 0⟩]) (delayClocks 0)) = true := by decide +kernel
theorem wit_reshape : boundJob.sliceLocked 0 = false ∧ sliceField 3 1 = true ∧ sliceField 0 0x1000000 = false ∧
    ((spanning.jobModules 3).filter fun m => m != spanning.coord) = [1] ∧ boundJob.sliceJobs 0 = [3] ∧ (ver VS.READY).sliceLocked 0 = true ∧ Writes boundJob 0 (boundJob.isOp 0) := by decide +kernel
def found (signed : Bool) : Found := ⟨ph, 0, true, [], true, signed, true, none⟩
/-- A module with addresses and a stored table, which may be enabled. -/
def enablable : State :=
  put { op with tables := [(op.stepping, 0, [])] } [(Od.HOST_LINK_STATE, 3), (Od.SERVICE_IPV4, 1), (Od.MGMT_IPV4, 2)]
theorem wit_module_enable : enablable.moduleCheck (found true) = none ∧ enablable.reg Od.MODULE_STATE = MS.DISABLED ∧
    (enablable.moduleCheck (found false)).isSome = true ∧ (op.moduleCheck (found true)).isSome = true ∧ boundJob.keepsEnabled = false ∧
    run.keepsEnabled = true ∧ (put enablable [(Od.SERVICE_IPV4, 0)]).reg Od.SERVICE_IPV6 = 0 ∧ Od.HOLD_ALARM_TICKS.addressed ∧
    restores Od.HOLD_ALARM_TICKS.key = true ∧ (boundJob.job 3).image = 0 ∧ op.reg Od.TRANSIT_PERIOD_S = 3600 := by decide +kernel

/-! ## Witnesses: poison, preflight, resets, bring-up -/

def constPoison : State := { boundJob with sramParity := [wordAt 0 0] }
theorem wit_poison : constPoison.sramParity.mem (wordAt 0 0) = true ∧ (constPoison.page 0 0).valid = true ∧ constPoison.strandJob 1 = 3 ∧
    constPoison.allocKind 1 0 = 1 ∧ constPoison.jobState 3 = JS.BOUND ∧ boundJob.sramParity.mem (wordAt 0 0) = false ∧
    ({ op with sramParity := [wordAt 0 0] } : State).sramParity.mem (wordAt 0 0) = true ∧ (op.page 0 0).valid = false := by decide +kernel
def frag (cls : Nat) : Fragment := ⟨cls, 100, 7⟩
/-- Cluster 5 without a strand, with a pack of one fragment. -/
def preflight (cls : Nat) (run : Option PfRun) (mis : Bool) : State :=
  put { op with packs := [[frag cls]], clusters := [(5, { Cluster.new with pfRunning := run, pfMismatch := mis })] }
    [(csObj 5, CS.READY), (Od.PREFLIGHT_EN, 1)]
theorem wit_fragment_start : (preflight 1 none false).dueFragment 5 = some (frag 1) ∧ ((preflight 1 none false).fragmentPlace 5 100).isSome = true ∧
    (preflight 1 none false).gated 5 = false ∧ (frag 1).cls ≠ 7 ∧ op.dueFragment 5 = none := by decide +kernel
theorem wit_fragment_end : let s := preflight 1 (some ⟨99900, 4, 0⟩) true
    (s.cluster 5).pfRunning = some ⟨99900, 4, 0⟩ ∧ s.dueFragment 5 = some (frag 1) ∧ 99900 + (frag 1).ticks ≤ s.now ∧
    s.now < 99901 + (frag 1).ticks ∧ (s.cluster 5).pfMismatch = true ∧
    ((preflight 7 (some ⟨99900, 4, 0⟩) false).cluster 5).pfMismatch = false ∧ (frag 7).cls = 7 ∧ ((frag 1).cls ≠ 7 ∧ (frag 1).cls ≠ 4) := by
  decide +kernel
def longHold : State := { held 998 with count := 1000000 }
theorem wit_hold_stuck : (longHold.job 3).holdStart = some 998 ∧ (longHold.job 3).alarmed = false ∧
    998 + longHold.reg Od.HOLD_ALARM_TICKS ≤ longHold.now ∧ (held 1004).now < 998 + (held 1004).reg Od.HOLD_ALARM_TICKS ∧
    op.fwStopped = false ∧ ({ op with hbPending := some 9 } : State).hbPending = some 9 ∧
    (put op [(Od.HEARTBEAT_CORES, 0x7F)]).reg Od.HEARTBEAT_CORES ||| 2 ^ 7 = 0xFF ∧ ({ op with fwStopped := true } : State).fwStopped = true := by
  decide +kernel
theorem wit_resets : Writes op 0 (op.isOp 0) ∧ op.reg (csObj 9) ≠ CS.RETENTION ∧
    (put op [(csObj 5, CS.READY)]).reg (csObj 5) = CS.READY ∧ (put op [(csObj 5, CS.RETENTION)]).reg (csObj 5) = CS.RETENTION ∧
    (put op [(csObj 5, CS.RESET)]).reg (csObj 5) = CS.RESET ∧ (put op [(csObj 5, CS.OFF)]).reg (csObj 5) = CS.OFF ∧
    ({ op with fwStopped := true } : State).isOp 0 = true ∧ op.bring.phReset = none ∧
    ({ op with bring := { op.bring with departAt := some (100000, 1) } } : State).bring.departAt = some (100000, 1) ∧ 100000 ≤ op.now ∧
    ({ op with bring := { op.bring with phReset := some 100000 } } : State).bring.phReset = some 100000 ∧
    op.bring.latched = false ∧ op.bring.mrstN = true ∧ op.bring.pwrgd = true := by decide +kernel
theorem wit_dumps : op.resets = [] ∧ op.bring.tripping = false ∧
    (∀ l, l ∈ [1, 2, 3] → ({ op with resets := [⟨l, 5, 1, 0⟩] } : State).resets = [⟨l, 5, 1, 0⟩]) := by decide
def stage (n : Nat) : State := put op [(Od.BOOT_STAGE, n)]
theorem wit_bring_up : (∀ n, n < 7 → (stage n).reg Od.BOOT_STAGE = n) ∧ (stage 2).now ≤ (stage 2).bring.signalAt + 10625000 ∧
    ({ stage 2 with count := 10625001 } : State).bring.signalAt + 10625000 < 10625001 ∧
    (put { op with oppTarget := [(3, 1)] } [(Od.DIE_OPP 3, 0xFF)]).reg (Od.DIE_OPP 3) = 0xFF ∧ op.reg (Od.DIE_OPP 3) ≠ 0xFF ∧
    (∀ n, n < 4 → (put op [(Od.RECOVERY_STATE, n)]).reg Od.RECOVERY_STATE = n) ∧ (op.array 175).sweep ≠ 1 ∧
    (put op [(Od.REF_STATE, 2)]).reg Od.REF_STATE = 2 ∧ op.refHold = none ∧ ({ op with refHold := some 5 } : State).refHold = some 5 ∧
    5 + 425000 ≤ ({ op with refHold := some 5, count := 425005 } : State).now := by decide +kernel

/-! ## Witnesses: power and security -/

def idleCl : State := put { op with ticks := 0x100000000, clusters := [(5, { Cluster.new with restFrom := 0 })] } [(csObj 5, CS.READY)]
theorem wit_retention : let s := idleCl
    s.reg (csObj 5) = CS.READY ∧ s.reg (Od.CL_PWR_REQ 0 5) = 0 ∧ s.reg Od.RETAIN_IDLE_TICKS ≤ s.ticks - (s.cluster 5).restFrom ∧
    s.strandState 10 = SS.EMPTY ∧ s.strandState 11 = SS.EMPTY ∧ s.arraysQuiet 5 = true ∧ s.flitFor 5 = false ∧
    s.noArray 5 [AS.PROGRAMMING, AS.SHADOW] = true ∧ (∀ a, a < 34 → s.seqState (34 * 5 + a) ≠ 1) ∧ (s.cluster 5).pfRunning = none ∧
    s.roundRun 5 = true := by decide +kernel
theorem wit_wake : ({ put op [(csObj 5, CS.RETENTION)] with net := [data] } : State).flitFor 5 = true ∧
    (put op [(csObj 5, CS.RETENTION)]).reg (csObj 5) = CS.RETENTION ∧
    ((op.cluster 5).lastRound + 212500000 * op.reg Od.RETAIN_WAKE_S ≤ ({ op with count := 0x10000000000 } : State).now) ∧
    (run.oppWanted 0 = run.reg (Od.DIE_OPP 0) ∧ run.reg (Od.DIE_OPP 0) ≠ 0xFF) ∧
    (put run [(Od.DIE_OPP 0, 2)]).oppWanted 0 ≠ (put run [(Od.DIE_OPP 0, 2)]).reg (Od.DIE_OPP 0) ∧
    ((op.modArray 175 fun a => { a with bias := 2 }).array 175).bias = 2 ∧ ((op.modArray 175 fun a => { a with bias := 2 }).array 175).biasFrom + 64 ≤
      8 * op.now := by decide +kernel
theorem wit_power_requests : Writes op 0 (op.isOp 0) ∧ run.strandState 10 ≠ SS.EMPTY ∧ op.strandState 10 = SS.EMPTY ∧
    op.noArray 5 [AS.ACTIVE, AS.SHADOW, AS.PROGRAMMING] = true ∧ op.reg (csObj 5) ≠ CS.RETIRED ∧
    ((run.modJob 3 fun k => { k with ports := [1] }).jobs.any fun (e : Nat × Job) => e.2.ports.contains 1 &&
      ((run.modJob 3 fun k => { k with ports := [1] }).jobState e.1 == JS.BOUND ||
       (run.modJob 3 fun k => { k with ports := [1] }).jobState e.1 == JS.ENABLED)) = true ∧ op.jobs = [] ∧
    (fabric PT.UP).portState 1 = PT.UP ∧ (fabric PT.DOWN).portState 1 = PT.DOWN := by decide +kernel
def atWindow : State := { op with count := 0x10000 }
/-- Four sensors of every die at 20.0 °C, and one at 200.0 °C. -/
def cold : List (Nat × Int) := [(0, 200), (1, 200), (2, 200), (3, 201)]
theorem wit_window_end : atWindow.now % 0x10000 = 0 ∧ op.now % 0x10000 ≠ 0 ∧ atWindow.bring.tripping = false ∧
    (∀ e, e < 20 → atWindow.dieTrips (judged (readingsOf cold e)) = false) ∧ (atWindow.ventTemp (judged (readingsOf cold 0))).isSome = true ∧
    atWindow.dieTrips (judged (readingsOf [(0, 1990), (1, 1991), (2, 1992)] 0)) = true := by decide +kernel
def tripped : State := put { op with count := 0x100000000 } [(Od.THERMAL_STATE, 1)]
theorem wit_restart : tripped.reg Od.THERMAL_STATE = 1 ∧ tripped.silent = false ∧ tripped.isOp 0 = true ∧
    tripped.bring.tripAt + 212500000 ≤ tripped.now ∧ tripped.cool = true ∧ op.now < op.bring.tripAt + 212500000 := by decide +kernel
/-- A staged firmware item of version 0 with an empty body. -/
def staged (kind : BitVec 8) : State :=
  { op with security := { op.security with staged := [(0, 0x48), (1, 0x53), (2, 0x49), (3, 0x31), (4, kind)] } }
theorem wit_update : (staged 0).security.layoutOk = true ∧ op.security.layoutOk = false ∧ leNat ((staged 0).security.stagedAt 4 1) = 0 ∧
    (staged 0).reg (Od.ITEM_VERSION (itemSel 0 0)) ≤ leNat ((staged 0).security.stagedAt 8 4) ∧
    leNat ((put (staged 0) [(Od.ITEM_VERSION 0, 1)]).security.stagedAt 8 4) < (put (staged 0) [(Od.ITEM_VERSION 0, 1)]).reg (Od.ITEM_VERSION (itemSel 0 0)) ∧
    (List.replicate 4096 (0 : Byte)).length = 4096 := by
  refine ⟨by decide +kernel, by decide +kernel, by decide +kernel, by decide +kernel, by decide +kernel, List.length_replicate⟩
def keyed : State := put op [(Od.TENANT_PRIVILEGED 0, 1), (Od.KEY_STATE 2, 1), (Od.KEY_HANDLE 2, 9), (Od.SIGNS_LEFT, 4)]
theorem wit_keys : op.tenantOwns 5 = false ∧ tenant.tenantOwns 1 = true ∧ keyed.keyEntry 0 9 = some 2 ∧ keyed.keyEntry 0 8 = none ∧
    ((List.range 256).find? fun k => keyed.reg (Od.KEY_STATE k) == 0) = some 0 ∧ keyed.reg (Od.TENANT_PRIVILEGED (keyed.actor 0)) ≠ 0 ∧
    op.reg (Od.TENANT_PRIVILEGED (op.actor 0)) = 0 ∧ keyed.reg Od.SIGNS_LEFT ≠ 0 ∧ (put op [(Od.SIGNS_LEFT, 0)]).reg Od.SIGNS_LEFT = 0 ∧
    keyed.security.lastSign = none ∧ (put op [(Od.OPERATOR_KEY_SET, 1)]).reg Od.OPERATOR_KEY_SET = 1 ∧
    ((List.range 16).any fun e => (put keyed [(Od.VER_STATE 4, VS.LOADING), (Od.VER_KEY 4, 9)]).verState e == VS.LOADING &&
      (put keyed [(Od.VER_STATE 4, VS.LOADING), (Od.VER_KEY 4, 9)]).reg (Od.VER_TENANT e) == 0 &&
      (put keyed [(Od.VER_STATE 4, VS.LOADING), (Od.VER_KEY 4, 9)]).reg (Od.VER_KEY e) == 9) = true := by decide +kernel

/-! ## Witnesses: debugging, eclipses, the Zenith line, the step -/

def stoppable : State :=
  put (op.setJob 3 { Job.new with ranks := [⟨0, 5⟩] }) [(Od.JOB_STATE 3, JS.ENABLED), (Od.JOB_DEBUG 3, 1), (Od.DBG_JOB 0, 3), (csObj 5, CS.READY),
    (ssObj 10, SS.DEBUG), (sjObj 10, 3), (Od.DBG_CL_SEL 0, 10)]
theorem wit_debug : Writes stoppable 0 (stoppable.mayDebug 0 (stoppable.reg (Od.DBG_JOB 0))) ∧ stoppable.jobState 3 = JS.ENABLED ∧
    stoppable.reg (Od.JOB_DEBUG 3) = 1 ∧ (stoppable.job 3).dbgStopAt = none ∧ (∀ m, m ∈ stoppable.jobModules 3 → m = stoppable.coord) ∧
    (∀ y, y ∈ stoppable.jobStrands 3 → y < 3072) ∧ stoppable.strandState 10 = SS.DEBUG ∧ 10 ∈ stoppable.jobStrands 3 ∧
    Writes stoppable 0 (stoppable.mayDebug 0 (stoppable.strandJob 10)) ∧ stoppable.reg (Od.DBG_CL_SEL 0) = 10 ∧
    ((stoppable.modJob 3 fun k => { k with dbgStopAt := some 99999 }).job 3).dbgStopAt = some 99999 ∧ 99999 ≤ stoppable.now ∧
    decodeWord ⟨strandIdOf 10, ph⟩ 0 0 = some (.nop ⟨strandIdOf 10, ph⟩) ∧ isWait (.nop iss) = false ∧
    decodeWord ⟨strandIdOf 10, ph⟩ 0 0xFFFFFFFF = none := by
  refine ⟨by decide +kernel, by decide +kernel, by decide +kernel, by decide +kernel, by decide +kernel, in_range (by decide +kernel),
    by decide +kernel, by decide +kernel, by decide +kernel, by decide +kernel, by decide +kernel, by decide +kernel, by decide +kernel,
    by decide +kernel, by decide +kernel⟩
theorem wit_debug_step : ((stoppable.modStrand 10 fun q => { q with stepping := true }).instruction (.nop iss) matches .next _) = true := by
  decide +kernel
theorem wit_strap : op.bring.strap.level = false ∧ op.bring.strap.since + 212500 ≤ ({ op with count := 212500 } : State).now ∧
    op.now < op.bring.strap.since + 212500 ∧ 3 ≤ op.reg Od.BOOT_STAGE := by decide
def armed (mode tick scope slice : Nat) : State :=
  put op [(Od.ECL_MODE, mode), (Od.ECL_TICK, tick), (Od.ECL_SCOPE, scope), (Od.ECL_SLICE, slice), (Od.SLICE_ID 4, 77), (Od.SLICE_EXTENT 4, 0x010102)]
theorem wit_arm : Writes (armed 0 5 0 0) 0 ((armed 0 5 0 0).isOp 0) ∧ (armed 0 5 0 0).reg Od.ECL_SCOPE = 0 ∧ (armed 0 5 1 0).reg Od.ECL_SCOPE = 1 ∧
    (armed 0 5 0 0).reg Od.ECL_TICK < (armed 0 5 0 0).now ∧ (armed 0 100000 1 77).now ≤ (armed 0 100000 1 77).reg Od.ECL_TICK ∧
    (armed 0 100000 1 77).sliceOf 77 = some 4 ∧ (armed 0 100000 1 0).sliceOf 0 = none ∧ op.silent = false ∧
    (((armed 0 100000 1 77).box 4).modules.contains 1) = true := by decide +kernel
theorem wit_latch : op.triggers = [] ∧ (armed 2 5 0 0).triggers = [2] ∧ (armed 2 5 0 0).reg Od.ECL_STATE ≠ 1 ∧
    (armed 2 5 0 0).reg Od.ECL_LOCK ≠ 1 ∧ (put (armed 2 5 0 0) [(Od.ECL_STATE, 1)]).reg Od.ECL_STATE = 1 ∧
    (put (armed 2 5 0 0) [(Od.ECL_LOCK, 1), (Od.ECL_STATE, 2)]).reg Od.ECL_LOCK = 1 ∧
    (armed 2 5 0 0).reg Od.ECL_MISSED + 0 + 1 < 0x1000000000000 ∧
    ({ op with ecl := { op.ecl with held := some ([1], 5, 2) } } : State).ecl.held = some ([1], 5, 2) ∧ op.ecl.held = none := by decide +kernel
def line (mode : Nat) : State := put stoppable [(Od.ZENITH_MODE, mode)]
theorem wit_zenith : (line 2).silent = false ∧ (line 2).bring.rescue = false ∧ 5 ≤ (line 2).reg Od.BOOT_STAGE ∧ (line 2).bring.closing = none ∧
    (line 0).reg Od.ZENITH_MODE = 0 ∧ (line 1).reg Od.ZENITH_MODE = 1 ∧ (line 2).reg Od.ZENITH_MODE = 2 ∧
    (line 2).reg Od.THERMAL_STATE ≠ 1 ∧ (line 2).reg Od.MODULE_STATE ≠ MS.LEAVING ∧ (line 2).jobState 3 = JS.ENABLED ∧
    (line 2).strandState (⟨c5, 0⟩ : StrandId).num = SS.DEBUG ∧ (line 2).security.layoutOk = false ∧ (line 2).reg Od.OPERATOR_KEY_SET ≠ 1 ∧
    0 + 0 ≤ (line 2).reg Od.SNAP_LEN ∧ (line 2).reg Od.SNAP_LEN < 0 + 1 ∧ (armed 2 5 0 0).sliceOf 77 = some 4 ∧
    Od.implemented 0x0FFF 0 = false ∧ Od.implemented 0x8000 3 = true := by decide +kernel
def rescue : State := put { staged 0 with bring := { op.bring with rescue := true } } [(Od.ZENITH_MODE, 2), (Od.BOOT_STAGE, 0x80)]
theorem wit_rescue : rescue.silent = false ∧ rescue.bring.rescue = true ∧ rescue.bring.closing = none ∧ 2 ≤ rescue.reg Od.ZENITH_MODE ∧
    rescue.reg Od.THERMAL_STATE ≠ 1 ∧ rescue.reg Od.MODULE_STATE ≠ MS.LEAVING ∧ rescue.security.layoutOk = true ∧
    leNat (rescue.security.stagedAt 4 1) = 0 ∧ rescue.reg (Od.ITEM_VERSION 0) ≤ leNat (rescue.security.stagedAt 8 4) := by decide +kernel
theorem wit_sync_owner : debug10.ownerOf 5 9 = some 10 ∧ debug10.strandState 10 = SS.DEBUG := by decide
theorem wit_idle_queue : State.reset.pending = [] := by decide
theorem wit_canonical_step : SramCanonical State.reset ∧ (step { State.reset with pending := [.hostSignal] } matches .next _) = true := by decide
/-- Every form of instruction that has a word: one of each format. -/
theorem wit_encode : (Instr.nop iss).wf = true ∧ (Instr.nop iss).issue? = some iss ∧ (Instr.swait iss 5 4).wf = true ∧
    (Instr.mvm iss ⟨5, 1, 1, 31, true, true, false, 0, 0⟩).wf = true ∧ decodeWord iss 0 0xF0400007 = some (.dln iss 7) := by decide +kernel
theorem wit_replay_span : (State.reset.effEntry 1 0x0400).isSome = true ∧ (State.reset.effEntry 1 0x0401).isSome = true ∧
    State.reset.tables = [] ∧ ((State.reset.effEntry 1 0x0400).map LatEntry.unit) = some 0 ∧
    ((State.reset.effEntry 1 0x0401).map LatEntry.unit) = some 0 := by decide +kernel

/-! ## Sampling: the example of R253 (probabilities 0.5684, 0.2091, 0.2091, 0.0134; TOP_P 0.9; draw 0.611) -/

theorem test_sampling_order :
    (candTop 4 [(19, 0x40400000), (4001, 0x40A66666), (5, 0xFF800000), (77, 0x40A66666), (812, 0x40C00000)]).map (·.1) = [812, 77, 4001, 19] := by
  decide +kernel
theorem test_sampling_pick :
    pickToken [812, 77, 4001, 19] [0x3F1182AA, 0x3E561E4F, 0x3E561E4F, 0x3C5B8BAC] 0x3F666000 0x3F1C6A7F = 77 := by decide +kernel
theorem test_end_reason :
    endReason [6, 5, 9] [2] [[5, 6]] 3 10 0 9 = some 2 ∧ endReason [6, 5, 9] [6] [[5, 6]] 3 4 0 9 = some 1 := by decide

/-! ## Witnesses: clauses at their other boundary -/

/-- CONTROL cancel of context 5 while a token of context 5 is on its way. -/
def tokenOf5 : NetMsg := { token with payload := [pw 5, pw 4, pw 100000, pw 7] }
def inFlight : State := put { run with net := [tokenOf5, control 6 6 0] } [(Od.CTX_JOB 5, 3)]
theorem wit_control_forms : inFlight.control? 1 6 0 = some (control 6 6 0) ∧ inFlight.tokensInFlight (control 6 6 0).value.toNat = true ∧
    ({ run with net := [control 6 7 0] }).control? 0 6 0 = some (control 6 7 0) ∧
    ({ run with net := [control 4 3 9] }).strayOp 0 = some (control 4 3 9) := by decide +kernel
def orphan (job : Nat) : NetMsg := { control 4 2 9 with src := 0x10000 + HB, job := job }
theorem wit_orphan : ({ run with net := [orphan 3] }).control? 0 4 2 = some (orphan 3) ∧
    (orphan 3).src = 0x10000 + HB ∧ run.strandJob (orphan 3).dst = (orphan 3).job ∧
    (run.strand (orphan 3).dst).tenant = (orphan 3).tenant ∧ run.strandJob (orphan 4).dst ≠ (orphan 4).job := by decide +kernel
theorem wit_floor_far : spanning.jobState 3 = JS.ENABLED ∧ 1 < (spanning.job 3).ranks.length ∧
    (spanning.place 3 1).coord ≠ spanning.coord ∧ Store.get? (spanning.job 3).peerHolds 1 = none := by decide +kernel
theorem wit_beacon_holdover : let s := put root [(Od.SYNC_STATE, SY.HOLDOVER)]
    s.isRoot = true ∧ s.syncState = SY.HOLDOVER ∧ s.now % 0x10000 = 0 := by decide +kernel
theorem wit_tick : op.refHold = none ∧ ((Store.get Adapter.new op.adapters 7).gens.any AdGen.over) = false ∧
    op.verState 2 ≠ VS.LOADING := by decide +kernel
theorem wit_open_wire_gates : (seqRun 5 1).gated 5 = false ∧ (seqRun 5 1).seqState 175 = 1 ∧
    ((seqRun 5 1).array 175).seqRep = 0 := by decide +kernel
/-- A replay that was asked for within a hold follows it. -/
def replayAfter : State := (held 1004).modJob 3 fun k =>
  { k with reqs := [⟨some 10, 1, some 6, 998, none, false⟩, ⟨some 10, 4, some 6, 1000, none, true⟩] }
theorem wit_hold_follows : (replayAfter.job 3).holdStart = some 998 ∧ holdEnd (replayAfter.job 3).reqs = some 1004 ∧
    ((replayAfter.job 3).reqs.filter fun r => r.after) ≠ [] ∧ 1004 ≤ replayAfter.now ∧
    ((held 1004).job 3).reqs.filter (fun r => r.after) = [] := by decide +kernel
theorem wit_program_die : programming.reg (Od.DIE_OPP (dieOf (acl x5.num))) ≠ 0xFF := by decide +kernel
theorem wit_merge_part : (((merging both 4).merge 3 1 0).held 0 0).isSome = true ∧ ((merging both 4).merge 3 1 0).late = false ∧
    (sumWords false [[⟨5, false⟩], [⟨6, false⟩]]).1.length ≤ 4 ∧ both ≠ [] := by decide +kernel
def crossing : State := linkUp4.setJob 3 { Job.new with links := [4] }
theorem wit_link_jobs : 3 ∈ linkJobs (put crossing [(Od.JOB_STATE 3, JS.ENABLED)]) 4 := by decide +kernel

theorem wit_payload_plain : token.opened.payload = token.payload ∧ token.opened.word 1 = 4 := by decide +kernel
theorem wit_late_token : let s := streaming Job.new
    s.now ≤ s.reg (Od.CTX_NEXT_DEADLINE 9) + s.grace ∧
    (put s [(Od.CTX_NEXT_DEADLINE 9, 90000)]).reg (Od.CTX_NEXT_DEADLINE 9) + (put s [(Od.CTX_NEXT_DEADLINE 9, 90000)]).grace < s.now := by
  decide +kernel
theorem wit_record_waits : (ctxIn XS.ADMITTED 0).pairRuns 3 = false ∧ (ctxIn XS.ADMITTED 0).jobState 3 = JS.ENABLED := by decide +kernel
/-- Context 9 whose last token came from strand 10 of module m. -/
def sentFrom (m : Nat) : State := { cancelRun with ctxs := [(9, { Ctx.new with expiry := 99999, out := some (m, 10) })] }
theorem wit_cancel_sides : ((sentFrom 0).outputOf 9).1 = (sentFrom 0).coord ∧ ((sentFrom 1).outputOf 9).1 ≠ (sentFrom 1).coord ∧
    (sentFrom 1).reg (Od.CTX_STATE 9) = XS.DECODE := by decide +kernel
theorem wit_fixed : let s := put readyBeside [(Od.VER_FIXED 2, 1)]
    s.fixedJob 3 = true ∧ s.verState 2 ≠ VS.NONE ∧ s.reg (Od.VER_JOB 2) = 3 := by decide +kernel
theorem wit_waiting_readers : (ver VS.WAITING).currentVer 3 = none ∧ (readyBeside.version 1).readers = [] := by decide +kernel
theorem wit_fragment_clear : (FragHdr.parse fragBytes).isSealed = false := by decide +kernel
/-- The second chunk of a block of two is still missing. -/
def twoChunks : State := loading ⟨[⟨0, coded, true⟩], none⟩ |>.modVersion 2 fun v => { v with blocks := v.blocks.map fun b => { b with nchunk := 2 } }
theorem wit_chunk_more : let s := twoChunks
    let q := (s.version 2).blocks.headD (block1 Chunk.new)
    s.verState 2 = VS.LOADING ∧ (Store.get Chunk.new q.chunks 0).joined = some coded ∧
    ({ q with chunks := Store.set q.chunks 0 ⟨[], some [1, 2, 3, 4]⟩ }).text = none := by decide +kernel
theorem wit_no_block_due : resting.nextBlock 5 = none ∧ programmable.gated 0 = false := by decide +kernel
theorem wit_shadow_set : let s : State := { transit 2 with count := 0x1000000000000 }
    (s.cluster 5).transitSet.window ≤ s.now - (s.cluster 5).transitFor ∧
    (s.cluster 5).transitSet.windowMax ≤ s.now - (s.cluster 5).transitFor ∧
    (transit 1).reg (Od.TRANSIT_START 5) + ((transit 1).cluster 5).transitSet.copyMax < s.now := by decide +kernel
/-- Column line 5 at the rail, though it is expected to carry current. -/
def openLine : WireMeas := ⟨5, 0, true⟩
def restFaulty (ms : List WireMeas) : Bool := ms.any fun m => [8, 13].any fun k =>
  wireSelected (stdEntry 0 k) m.line && unrested.wireFaulty 202 (stdEntry 0 k) m
theorem wit_rest_sides : restFaulty [] = false ∧ restFaulty [openLine] = true := by decide +kernel

theorem wit_ptp_frame : root.isRoot = true ∧ root.portUp = true ∧ 4000 = root.reg Od.PTP_VLAN ∧ 0 = root.reg Od.PTP_DOMAIN ∧ (7 : Nat) ≠ root.reg Od.PTP_VLAN ∧ follower.isRoot = false ∧ follower.portUp = true := by
  decide +kernel
/-- An OD message whose one entry writes 1 to RESET_MODULE, at a module whose firmware has stopped. -/
def resetMessage : List Byte := [0, 1, 0, 0, 1, 3, 0x80, 0x01, 0, 1, 0, 0, 1, 0, 0, 0]
theorem wit_ph_takes : ({ op with fwStopped := true } : State).phTakes hdr resetMessage = true ∧ op.phTakes hdr resetMessage = false := by
  decide +kernel
theorem wit_judged : (judgeReplies true [⟨0, [1], 0, 0, 0, 0, 0, 0⟩, ⟨0, [1], 0, 0, 1, 0, 0, 0⟩]).isSome = true ∧
    (judgeReplies true [⟨0, [1], 0, SY.LOCKED, 0, 0, 0, 0⟩, ⟨0, [1], 0, SY.LOCKED, 0, 0, 0, 0⟩]).isSome = false := by decide +kernel
theorem wit_gated_fragment : let s := preflight 7 none false
    s.dueFragment 5 = some (frag 7) ∧ s.gated 5 = false ∧ (s.array (34 * 5 + 3)).idle = true ∧
    s.arrState (34 * 5 + 3) ≠ AS.PROGRAMMING ∧ s.arrState (34 * 5 + 3) ≠ AS.RETIRED := by decide +kernel
theorem wit_module_dump : ({ op with resets := [⟨4, 5, 1, 0⟩], bring := { op.bring with tripping := true } } : State).bring.tripping = true ∧
    3 ≤ (4 : Nat) ∧ ({ op with bring := { op.bring with latched := true } } : State).bring.latched = true ∧ op.bring.pwrgd = true := by
  decide +kernel
theorem wit_wake_due : ((put resting [(csObj 5, CS.RETENTION)]).dueArray 5).isSome = true ∧
    ((put programmable [(csObj 0, CS.RETENTION)]).nextBlock 0).isSome = true ∧ (op.array 175).bias ≠ 2 := by decide +kernel
theorem wit_stop_states : stoppable.jobStrandState 3 = SS.DEBUG ∧ (put stoppable [(ssObj 10, SS.RUNNING)]).jobStrandState 3 ≠ SS.DEBUG ∧
    isWait (.twait iss 7) = true ∧ (put stoppable [(Od.DBG_REG_SEL 0, 8)]).reg (Od.DBG_REG_SEL 0) = 8 ∧
    (put stoppable [(Od.JOB_DEBUG 3, 0)]).reg (Od.JOB_DEBUG 3) ≠ 1 := by decide +kernel
/-- The word of TWAIT 7. -/
def waitWord : Nat := (encodeWord (.twait iss 7)).getD 0
theorem wit_wait_word : decodeWord iss 0 waitWord = some (.twait iss 7) ∧ isWait (.twait iss 7) = true := by decide +kernel


theorem wit_injection : run.injecting (stopOf 5) < 16 := by decide +kernel
/-- A pending freeze of strand 11, with the DMA transfers on their way. -/
def stepping1 (q : List Dma) : State := run1.modStrand 11 (fun t => { t with freezeReq := true }) |>.modCluster 5 fun k => { k with dma1 := q }
theorem wit_freeze : ((stepping1 []).strand 11).freezeReq = true ∧ (stepping1 []).strandState 11 = SS.RUNNING ∧
    ((stepping1 []).circuit iss1).outstanding 11 = false ∧
    ((stepping1 [⟨1, 0, 1024, 64, 9⟩]).circuit iss1).outstanding 11 = true := by decide +kernel
/-- The deadline of strand 10's instruction has passed. -/
def overdueState (late : Bool) : State := run.modStrand 10 fun t => { t with deadline := some 40, late := late, base := 0 }
theorem wit_missed : (overdueState false).mayIssue 10 = true ∧ (overdueState false).onTime 10 0 = false ∧ ph.fetch ≠ .failed := by decide +kernel
theorem wit_withdrawn : let s := put (overdueState true) [(ssObj 10, SS.HELD)]
    s.mayIssue 10 = false ∧ (s.strand 10).late = true ∧ (s.strand 10).stall = none ∧ (s.strand 10).gap = none ∧
    (s.strand 10).replay = none := by decide +kernel
def arrived (met : Bool) : State := withNode.modStrand 10 fun t => { t with stall := some (.arrive 9 met) }
theorem wit_arrive_resumes : ((arrived true).strand 10).stall = some (.arrive 9 true) ∧ (arrived true).mayResume 10 = true ∧
    (arrived true).onTime 10 0 = true ∧ waitSync.mayResume 10 = true := by decide +kernel
theorem wit_array_room : (busyArr.strand 10).ceilClass = none ∧ busyArr.fits 5 0 (busyArr.clock 0) 0 0 = true := by decide +kernel
theorem wit_undeclared : Store.get? (run.strand 10).chans 5 = none ∧ Store.get? (run.strand 10).points 3 = none ∧
    run.owned 5 3 0 = false := by decide +kernel
theorem wit_replays_allowed : run.replayOn 10 = true ∨ (put run [(Od.DEGEN_REPLAY_EN 0, 1)]).replayOn 10 = true := by decide +kernel

end Sys2Proof.Tests
end

/-!
The replay span of a REPLAY site (R196): the effective table of one stepping is that stepping's own table (R197), a module
without table updates holds the factory's (R195), and its two replay entries are in clocks (Table PC-5).
-/
namespace Sys2Proof.Machine

/-- The effective table of a single stepping is the table held for it (R197). -/
theorem effEntry_singleStepping (s : State) {st : Nat} (hst : st ≤ 2) (id : Nat) :
    s.effEntry (2 ^ st) id = s.latEntry st id := by
  have pick : ([0, 1, 2].filterMap fun k => if (2 ^ st).testBit k then s.latEntry k id else none)
      = (s.latEntry st id).toList := by
    simp only [Nat.testBit_two_pow, decide_eq_true_eq]
    obtain rfl | rfl | rfl : st = 0 ∨ st = 1 ∨ st = 2 := by omega
    all_goals cases h : s.latEntry _ id <;> simp [h]
  rw [State.effEntry, pick]
  cases s.latEntry st id <;> rfl

/-- Without a committed table update (R437) a module holds the factory's tables. -/
theorem latEntry_of_no_tables {s : State} (hs : s.tables = []) {st : Nat} (hst : st ≤ 2) (id : Nat) :
    s.latEntry st id = factoryEntry st id := by
  simp [State.latEntry, hs, Store.get?, hst]

/-- Entry 0400h, the base of a replay, in the factory's tables (Table PC-5). -/
theorem factoryEntry_replayBase (st : Nat) :
    factoryEntry st 0x0400 = some ⟨0, if st = 0 then 32 else if st = 1 then 32 else 28⟩ := rfl

/-- Entry 0401h, the replay of one group, in the factory's tables (Table PC-5). -/
theorem factoryEntry_replayGroup (st : Nat) : factoryEntry st 0x0401 = some ⟨0, 4⟩ := rfl

theorem effClocks_of_unit_clocks {s : State} {mask id : Nat} {e : LatEntry} (he : s.effEntry mask id = some e)
    (hu : e.unit = 0) : s.effClocks mask id = e.value := by
  simp [State.effClocks, he, hu]

theorem replaySpan_of_unit_clocks {s : State} {mask : Nat} {a b : LatEntry} (groups : Nat)
    (ha : s.effEntry mask 0x0400 = some a) (hb : s.effEntry mask 0x0401 = some b) (hua : a.unit = 0) (hub : b.unit = 0) :
    s.replaySpan mask groups = (a.value + groups * b.value + 7) / 8 := by
  rw [State.replaySpan, effClocks_of_unit_clocks ha hua, effClocks_of_unit_clocks hb hub]

/-- A stepping's base of 32 or 28 clocks and 4 clocks for each of 4 groups round up to 6 ticks alike. -/
theorem replaySpan_factory_four {s : State} (hs : s.tables = []) {st : Nat} (hst : st ≤ 2) :
    s.replaySpan (2 ^ st) 4 = 6 := by
  have entry (id : Nat) : s.effEntry (2 ^ st) id = factoryEntry st id :=
    (effEntry_singleStepping s hst id).trans (latEntry_of_no_tables hs hst id)
  rw [replaySpan_of_unit_clocks 4 ((entry _).trans (factoryEntry_replayBase st))
    ((entry _).trans (factoryEntry_replayGroup st)) rfl rfl]
  dsimp only
  split
  · rfl
  · split <;> rfl

/-- Settles O6: the general formula needs only that both entries count clocks; the factory's tables meet that at each
stepping. -/
theorem replaySpan : Obligations.ReplaySpan := by
  unfold Obligations.ReplaySpan
  refine ⟨fun s mask groups a b ha hb hua hub => replaySpan_of_unit_clocks groups ha hb hua hub, fun s hs => ⟨?_, ?_, ?_⟩⟩
  · exact replaySpan_factory_four hs (st := 0) (by decide)
  · exact replaySpan_factory_four hs (st := 1) (by decide)
  · exact replaySpan_factory_four hs (st := 2) (by decide)

end Sys2Proof.Machine

/-!
The checks of Table OD-7 (R379): one equation for each check that stops a READ, a WRITE or a DESCRIBE and one for an entry
that passes, and what an entry of a heard session comes to (R334: nothing is owed while no CLOSE is left to send).
-/
namespace Sys2Proof.Machine

/-! ## An entry that stands alone -/

theorem State.closeAll_of_closing_none {s : State} (h : s.bring.closing = none) : s.closeAll = s := by
  simp [State.closeAll, h]

theorem State.alone_of_hears {s : State} {n least : Nat} (hears : s.hears n = true) (bars : s.zenithBars n least = false)
    (g : State → Wr) : s.alone n least g = .next ((g s).1.closeAll.answers (g s).2) := by
  simp [State.alone, hears, bars, answered, State.answers]

/-- An entry that changes no state only leaves its answer. -/
theorem State.alone_of_unchanged {s : State} {n least : Nat} {g : State → Wr} {a : Answer} (hears : s.hears n = true)
    (bars : s.zenithBars n least = false) (closing : s.bring.closing = none) (hg : g s = (s, a)) :
    s.alone n least g = .next (s.answers a) := by
  rw [State.alone_of_hears hears bars, hg, State.closeAll_of_closing_none closing]

/-! ## READ -/

section Read
variable {s : State} {n idx sub : Nat} {r : ObjRow}

theorem State.readEntry_of_not_implemented (h : Od.implemented idx sub = false) :
    s.readEntry n idx sub = failed Code.MISSING_OBJECT := by
  simp [State.readEntry, h]

theorem State.readEntry_of_not_reaches (h : Od.implemented idx sub = true) (reach : s.reaches n idx sub false = false) :
    s.readEntry n idx sub = failed Code.AUTH_FAIL := by
  simp [State.readEntry, h, reach]

/-- Subindex 00h reads as the highest subindex (R367). -/
theorem State.readEntry_of_row_none (h : Od.implemented idx sub = true) (reach : s.reaches n idx sub false = true)
    (row : Od.row? idx sub = none) : s.readEntry n idx sub = ⟨0, 0xFF, leBytes 1 (Od.maxSub idx)⟩ := by
  simp [State.readEntry, h, reach, row]

theorem State.readEntry_of_wo (h : Od.implemented idx sub = true) (reach : s.reaches n idx sub false = true)
    (row : Od.row? idx sub = some r) (acc : r.acc = .wo) : s.readEntry n idx sub = failed Code.ACCESS_CONFLICT := by
  simp [State.readEntry, h, reach, row, acc]

theorem State.readEntry_of_ne_wo (h : Od.implemented idx sub = true) (reach : s.reaches n idx sub false = true)
    (row : Od.row? idx sub = some r) (acc : r.acc ≠ .wo) :
    s.readEntry n idx sub = s.readObject n r (s.object n r idx) := by
  simp [State.readEntry, h, reach, row, acc]

end Read

/-! ## WRITE -/

section Write
variable {s : State} {n idx sub : Nat} {r : ObjRow} {val : List Byte} (f : Found)

theorem State.writeEntry_of_not_implemented (h : Od.implemented idx sub = false) :
    s.writeEntry n f idx sub val = noW s Code.MISSING_OBJECT := by
  simp [State.writeEntry, h]

theorem State.writeEntry_of_not_reaches (h : Od.implemented idx sub = true) (reach : s.reaches n idx sub true = false) :
    s.writeEntry n f idx sub val = noW s Code.AUTH_FAIL := by
  simp [State.writeEntry, h, reach]

theorem State.writeEntry_of_row_none (h : Od.implemented idx sub = true) (reach : s.reaches n idx sub true = true)
    (row : Od.row? idx sub = none) : s.writeEntry n f idx sub val = noW s Code.ACCESS_CONFLICT := by
  simp [State.writeEntry, h, reach, row]

variable (h : Od.implemented idx sub = true) (reach : s.reaches n idx sub true = true) (row : Od.row? idx sub = some r)
include h reach row

theorem State.writeEntry_of_ro (acc : r.acc = .ro) : s.writeEntry n f idx sub val = noW s Code.ACCESS_CONFLICT := by
  simp [State.writeEntry, h, reach, row, acc]

variable (acc : r.acc ≠ .ro)
include acc

theorem State.writeEntry_of_length_ne (len : val.length ≠ r.size) :
    s.writeEntry n f idx sub val = noW s Code.TYPE_CONFLICT := by
  simp [State.writeEntry, h, reach, row, acc, len]

variable (len : val.length = r.size)
include len

theorem State.writeEntry_of_locked (lock : s.locked r (s.object n r idx) = true) :
    s.writeEntry n f idx sub val = noW s Code.LOCKED := by
  simp [State.writeEntry, h, reach, row, acc, len, lock]

variable (lock : s.locked r (s.object n r idx) = false)
include lock

theorem State.writeEntry_of_not_inRange (range : s.inRange r idx (leNat val) = false) :
    s.writeEntry n f idx sub val = noW s Code.RANGE_CONFLICT := by
  simp [State.writeEntry, h, reach, row, acc, len, lock, range]

/-- A write that checks 1 to 6 pass goes on to the object's own rules (check 7), unless the module is TRIPPED (R424) or LEAVING
(Table OD-8). -/
theorem State.writeEntry_of_inRange (range : s.inRange r idx (leNat val) = true) (warm : s.reg Od.THERMAL_STATE ≠ 1)
    (stays : s.reg Od.MODULE_STATE ≠ MS.LEAVING) :
    s.writeEntry n f idx sub val = s.writeObject n f (s.object n r idx) val := by
  simp [State.writeEntry, h, reach, row, acc, len, lock, range, warm, stays]

end Write

/-! ## DESCRIBE -/

theorem describeEntry_of_implemented {idx sub : Nat} (h : Od.implemented idx sub = true) :
    describeEntry idx sub = ⟨0, 0xFF, Od.descriptor idx sub⟩ := by
  simp [describeEntry, h]

theorem describeEntry_of_not_implemented {idx sub : Nat} (h : Od.implemented idx sub = false) :
    describeEntry idx sub = failed Code.MISSING_OBJECT := by
  simp [describeEntry, h]

/-! ## The entries of a heard session -/

section Heard
variable {s : State} {n : Nat} {i : BitVec 16} {b : Byte} {a : Answer} (hears : s.hears n = true)
include hears

/-- After a WRITE the sessions it owes a CLOSE are closed (R334). -/
theorem exec_odWrite_of_writeEntry {f : Found} {val : List Byte} {w : Wr} (bars : s.zenithBars n 2 = false)
    (hw : s.writeEntry n f i.toNat b.toNat val = w) : exec (.odWrite n f i b val) s = .next (w.1.closeAll.answers w.2) := by
  rw [exec_odWrite, execOdWrite, State.alone_of_hears hears bars, hw]

variable (closing : s.bring.closing = none)
include closing

theorem exec_odRead_of_readEntry (bars : s.zenithBars n 1 = false) (ha : s.readEntry n i.toNat b.toNat = a) :
    exec (.odRead n i b) s = .next (s.answers a) := by
  rw [exec_odRead, execOdRead]
  exact State.alone_of_unchanged hears bars closing (by rw [ha])

theorem exec_odDescribe_of_describeEntry (bars : s.zenithBars n 1 = false) (ha : describeEntry i.toNat b.toNat = a) :
    exec (.odDescribe n i b) s = .next (s.answers a) := by
  rw [exec_odDescribe, execOdDescribe]
  exact State.alone_of_unchanged hears bars closing (by rw [ha])

theorem exec_odNext_of_hears (bars : s.zenithBars n 1 = false) :
    exec (.odNext n i b) s = .next (s.answers (nextAddress i.toNat b.toNat)) := by
  rw [exec_odNext, execOdNext]
  exact State.alone_of_unchanged hears bars closing rfl

theorem exec_odWrite_of_noW {f : Found} {val : List Byte} {code : Nat} (bars : s.zenithBars n 2 = false)
    (hw : s.writeEntry n f i.toNat b.toNat val = noW s code) :
    exec (.odWrite n f i b val) s = .next (s.answers ⟨code, 0xFF, []⟩) := by
  rw [exec_odWrite, execOdWrite]
  exact State.alone_of_unchanged hears bars closing hw

end Heard

/-- Settles O40: each clause is one case of the entry's equation, which the session that is heard answers. -/
theorem objectEntryChecks : Obligations.ObjectEntryChecks := by
  unfold Obligations.ObjectEntryChecks
  intro n f i b val s hears bars2 bars1 closing idx sub refuses
  have reads {a} := exec_odRead_of_readEntry (i := i) (b := b) (a := a) hears closing bars1
  have describes {a} := exec_odDescribe_of_describeEntry (n := n) (i := i) (b := b) (a := a) hears closing bars1
  have rejects {code} := exec_odWrite_of_noW (i := i) (b := b) (f := f) (val := val) (code := code) hears closing bars2
  refine ⟨fun absent => ?missing, fun impl => ⟨?described, ?readBarred, ?writeBarred, fun r row => ⟨?read, ?write⟩⟩,
    fun impl row => ?subindexZero, exec_odNext_of_hears hears closing bars1, rfl⟩
  case missing =>
    exact ⟨reads (State.readEntry_of_not_implemented absent), rejects (State.writeEntry_of_not_implemented f absent),
      describes (describeEntry_of_not_implemented absent)⟩
  case described => exact describes (describeEntry_of_implemented impl)
  case readBarred => exact fun reach => reads (State.readEntry_of_not_reaches impl reach)
  case writeBarred => exact fun reach => rejects (State.writeEntry_of_not_reaches f impl reach)
  case read =>
    intro reach
    exact ⟨fun acc => reads (State.readEntry_of_wo impl reach row acc),
      fun acc => reads (State.readEntry_of_ne_wo impl reach row acc)⟩
  case write =>
    intro reach
    refine ⟨fun acc => ?_, fun acc len => ?_, fun acc len lock => ?_, fun acc len lock range => ?_,
      fun acc len lock range warm stays => ?_⟩
    · exact rejects (State.writeEntry_of_ro f impl reach row acc)
    · exact rejects (State.writeEntry_of_length_ne f impl reach row acc len)
    · exact rejects (State.writeEntry_of_locked f impl reach row acc len lock)
    · exact rejects (State.writeEntry_of_not_inRange f impl reach row acc len lock range)
    · exact exec_odWrite_of_writeEntry hears bars2
        (State.writeEntry_of_inRange f impl reach row acc len lock range warm stays)
  case subindexZero =>
    exact ⟨fun reach => reads (State.readEntry_of_row_none impl reach row),
      fun reach => rejects (State.writeEntry_of_row_none f impl reach row)⟩

end Sys2Proof.Machine
